-- ==== Sys2Proof/Word.lean ====
section
/-! DEFINITION. The number types of the part (spec/00_scope.md, Conventions; spec/13 R184, R190). -/

namespace Sys2Proof

/-- One byte of a frame or of the record memory. -/
abbrev Byte := BitVec 8

/-- A 48-bit station, management or ingest address (R1, R167). -/
abbrev Addr := BitVec 48

/-- A venue-time value: 48 bits of microseconds, differences and sums modulo 2^48 (R173). -/
abbrev Time := BitVec 48

/-- An event counter: 32 bits, saturating (00_scope.md, Conventions; R174). -/
abbrev Ctr := BitVec 32

/-- A 16-bit field: a tag, a directive kind, a type, a setting (R190). -/
abbrev Half := BitVec 16

/-- A 32-bit field: a sequence, an offset, a segment length (R190). -/
abbrev Word32 := BitVec 32

/-- A 64-bit field: a credential code or a zone permit set (R190). -/
abbrev Word64 := BitVec 64

end Sys2Proof
end

