-- ==== Sys2Proof/Config.lean ====
section
/-! DEFINITION. What the part fixes: the capacities of its tables (R172's capability chain gathers them) and the
FREE VALUES: constants without a body, for the values the spec leaves open. -/

namespace Sys2Proof.Config

/-- Buckets of the address index (R3). -/
abbrev stationBuckets : Nat := 2048
/-- Pinned records at most (R11). -/
abbrev pinnedLimit : Nat := 512
/-- Places of the hold pool (R26). -/
abbrev holdPool : Nat := 2048
/-- Frames of one hold queue at most (R26). -/
abbrev holdLimit : Nat := 64
/-- Frame buffers of the egress pool (R44). -/
abbrev frameBuffers : Nat := 4096
/-- Burst records of the egress pool (R44). -/
abbrev burstRecords : Nat := 1024
/-- Frame buffers the classes other than ADMISSION may use together (R44). -/
abbrev sharedBuffers : Nat := 3840
/-- Burst records the classes other than ADMISSION may use together (R44). -/
abbrev sharedBursts : Nat := 960
/-- Frames of a burst at most (R45). -/
abbrev burstFrames : Nat := 8
/-- Bytes of a burst at most (R45). -/
abbrev burstBytes : Nat := 12000
/-- Bursts of one REPLAY list at most (R45). -/
abbrev replayBursts : Nat := 4
/-- Buckets of the credential table (R84). -/
abbrev credBuckets : Nat := 16384
/-- Places of the scan queue (R90). -/
abbrev scanQueue : Nat := 64
/-- Fetch slots (R92). -/
abbrev fetchSlots : Nat := 8
/-- Buckets of one sweep stride (R106). -/
abbrev strideBuckets : Nat := 64
/-- Slots of the clip store (R129). -/
abbrev clipSlots : Nat := 4096
/-- Bytes of one slot's place (R160). -/
abbrev slotBytes : Nat := 262144
/-- Bytes of one chunk (R153). -/
abbrev chunkBytes : Nat := 16384
/-- Data bytes of a full replay frame (R153), and of SEGMENT_DATA at most (R135). -/
abbrev frameData : Nat := 1400
/-- Ingest writes outstanding at most (R136). -/
abbrev ingestLimit : Nat := 128
/-- Deliveries of one radio at most (R149). -/
abbrev radioDeliveries : Nat := 8
/-- Deliveries of the part at most (R149). -/
abbrev partDeliveries : Nat := 1024
/-- Directives of the management queue at most (R170). -/
abbrev mgmtQueue : Nat := 8

/-- FREE VALUE (log entry 3). The cursor after the delivered sequence 2^32 − 1: R155 makes it "the delivered sequence
plus 1", a sum outside the 32-bit field of R143, and states no result for it. -/
opaque seqPastEnd : Nat → Word32

/-- FREE VALUE (log entry 4). How many frames of a burst cut off by a zone restart had left the port: R175 lets each
port finish "the frame it is sending at that moment", and which one that is depends on timing the spec leaves out. -/
opaque cutFrames : Nat → Nat

end Sys2Proof.Config
end

