-- ==== Sys2Proof/Machine/Table.lean ====
section
/-! DEFINITION. Sparse tables in ONE canonical form: the keys strictly rising, and (where unlisted keys read as a default)
no entry equal to the default. The station table, the radio table, the redemption map, the slot descriptors and the bytes
of record memory are held so; `Table Byte` is a list of `Host.Cell`. -/

namespace Sys2Proof.Machine

/-- A sparse table: key and value pairs, keys strictly rising. -/
abbrev Table (α : Type) := List (Nat × α)

/-- The entry at `k`, if one is listed. -/
def Table.find {α : Type} : Table α → Nat → Option α
  | [], _ => none
  | (k', v) :: t, k => if k = k' then some v else Table.find t k

/-- Lists `v` at `k`, in place of any entry there. -/
def Table.put {α : Type} : Table α → Nat → α → Table α
  | [], k, v => [(k, v)]
  | (k', v') :: t, k, v =>
    if k < k' then (k, v) :: (k', v') :: t
    else if k = k' then (k, v) :: t
    else (k', v') :: Table.put t k v

/-- Removes the entry at `k`. -/
def Table.del {α : Type} : Table α → Nat → Table α
  | [], _ => []
  | (k', v') :: t, k => if k = k' then t else (k', v') :: Table.del t k

/-- The value at `k`, where an unlisted key reads as `d`. -/
def Table.get {α : Type} (d : α) (t : Table α) (k : Nat) : α := (Table.find t k).getD d

/-- Writes `v` at `k`; writing the value an unlisted key reads as removes the entry. -/
def Table.set {α : Type} [DecidableEq α] (d : α) (t : Table α) (k : Nat) (v : α) : Table α :=
  if v = d then Table.del t k else Table.put t k v

/-- The keys above `lo` (if any) rise strictly. -/
def Table.sortedFrom {α : Type} : Option Nat → Table α → Bool
  | _, [] => true
  | none, (k, _) :: t => Table.sortedFrom (some k) t
  | some lo, (k, _) :: t => decide (lo < k) && Table.sortedFrom (some k) t

/-- The keys rise strictly. -/
def Table.sorted {α : Type} (t : Table α) : Bool := Table.sortedFrom none t

/-- The canonical form of a table whose unlisted keys read as `d`. -/
def Table.wf {α : Type} [DecidableEq α] (d : α) (t : Table α) : Bool :=
  Table.sorted t && t.all (fun e => decide (e.2 ≠ d))

/-- The listed keys, in order. -/
def Table.keys {α : Type} (t : Table α) : List Nat := t.map Prod.fst

/-- Maps the listed values; one that becomes what an unlisted key reads as is no longer listed. -/
def Table.mapVals {α : Type} [DecidableEq α] (d : α) (f : α → α) (t : Table α) : Table α :=
  t.filterMap (fun e => if f e.2 = d then none else some (e.1, f e.2))

/-- What an unlisted byte of record memory reads as (log entry 5). -/
def Memory.unlisted : Byte := 0

/-- The byte at an address of an area of record memory. -/
def Memory.read (m : List Host.Cell) (a : Nat) : Byte := Table.get Memory.unlisted m a

/-- Writes one byte. -/
def Memory.write (m : List Host.Cell) (a : Nat) (b : Byte) : List Host.Cell := Table.set Memory.unlisted m a b

/-- The `n` bytes from `a` on. -/
def Memory.readBytes (m : List Host.Cell) : Nat → Nat → List Byte
  | _, 0 => []
  | a, n + 1 => Memory.read m a :: Memory.readBytes m (a + 1) n

/-- Writes the bytes of a list from `a` on. -/
def Memory.writeBytes (m : List Host.Cell) : Nat → List Byte → List Host.Cell
  | _, [] => m
  | a, b :: bs => Memory.writeBytes (Memory.write m a b) (a + 1) bs

/-- Writes single cells, as a disturbance of the memory does (R165). -/
def Memory.spoil (m : List Host.Cell) : List Host.Cell → List Host.Cell
  | [] => m
  | (a, b) :: cs => Memory.spoil (Memory.write m a b) cs

/-- The canonical form of an area of record memory: addresses strictly rising, no listed byte equal to what an unlisted
address reads as. -/
def Memory.wf (m : List Host.Cell) : Bool := Table.wf Memory.unlisted m

end Sys2Proof.Machine
end

