-- ==== Sys2Proof/Machine/Types.lean ====
section
/-! DEFINITION. The names the part uses: classes, states, roles, verdicts, statuses, error classes, notice kinds, and the
operands of directives as their bodies carry them (R190). -/

namespace Sys2Proof.Machine

/-- The traffic classes, in their order of priority (R45, R51). -/
inductive Cls where
  | admission | fan | visitor | replay
  deriving DecidableEq, Repr

/-- All classes in the order ADMISSION, FAN, VISITOR, REPLAY (R51). -/
def Cls.all : List Cls := [.admission, .fan, .visitor, .replay]

/-- The replay modes (R143). -/
inductive Mode where
  | one | follow | loop
  deriving DecidableEq, Repr

/-- The tiers of a credential (R84). -/
inductive Tier where
  | general | premium | staff
  deriving DecidableEq, Repr

/-- A station's standing (R13). -/
inductive Standing where
  | unbound | inZone | outOfZone
  deriving DecidableEq, Repr

/-- The state of a station record (R1). -/
inductive StState where
  | unattached | attached | handoff
  deriving DecidableEq, Repr

/-- The state of a radio (R16). -/
inductive RadioState where
  | absent | inService | quarantined | disabled
  deriving DecidableEq, Repr

/-- The role of a radio (R16). -/
inductive Role where
  | seat | concourse | gateIn | gateOut | gateBoth
  deriving DecidableEq, Repr

/-- The two phase contexts (R77). -/
inductive Phase where
  | play | brk
  deriving DecidableEq, Repr

/-- The direction of a SCAN (R90). -/
inductive Direction where
  | entry | exit
  deriving DecidableEq, Repr

/-- The state of a redemption map entry (R85). -/
inductive EntryState where
  | free | issued | admitted | exited | void
  deriving DecidableEq, Repr

/-- The verdicts, in the order of their numbers (R185). -/
inductive Verdict where
  | admitIn | readmit | duplicate | wrongGate | void | unknown | exitOk | notInside | fault | retry | closed
  deriving DecidableEq, Repr

/-- The check-in results, in the order of their numbers (R185). -/
inductive CheckinResult where
  | accepted | notInside | unknown | boundElsewhere | fault | retry
  deriving DecidableEq, Repr

/-- The CUE results, in the order of their numbers (R185). -/
inductive CueResult where
  | accepted | replaced | notEntitled | noReel | empty
  deriving DecidableEq, Repr

/-- The statuses of a reply, in the order of their numbers (R171, R189). -/
inductive Status where
  | done | accepted | busy | state | range | frozen | invalidContext | unknownDirective
  deriving DecidableEq, Repr

/-- The 14 error classes, in the order of their numbers (R177). -/
inductive ErrClass where
  | carrierMalformed | radioNotInService | gateRole | handoffTimeout | lateRelease | serviceUnexpected
  | holdOverflow | egressOverflow | stationTableFull | ingestSequence | ingestIncomplete | recordFault
  | mgmtSourceRefused | mgmtQueueFull
  deriving DecidableEq, Repr

/-- The notice kinds, in the order of their numbers (R189). -/
inductive NoticeKind where
  | error | quarantine | sweepDone | phaseChanged | phaseRefused | surgeChanged | reelLapped | ingestDone
  deriving DecidableEq, Repr

/-- A frame is a DATA frame, or a SERVICE frame with its message kind (R185). -/
inductive FrameKind where
  | data
  | service (code : Byte)
  deriving DecidableEq, Repr

/-- A frame as the part holds it: in a burst (R45) or in a hold queue (R26). A DATA frame keeps its source address and
type too, since they leave unchanged (R186); a SERVICE frame's payload is its body (R44). -/
structure Frame where
  kind : FrameKind
  dst : Addr
  src : Addr := 0
  etype : Half := 0
  payload : List Byte
  /-- the station's handle; absent for a service message or a replay frame, and once cleared (R9, R45) -/
  handle : Option Nat := none
  deriving DecidableEq, Repr

/-- One load record of CRED_LOAD, its fields as carried (R95, R190). -/
structure LoadRec where
  code : Word64
  tier : Byte
  permit : Word64
  allowance : Byte
  grant : Byte
  home : Byte
  deriving DecidableEq, Repr

/-- How STATION_READ names a record (R12, R190): its form byte and the field of that form. -/
inductive StationRef where
  | address (a : Addr)
  | handle (h : Half)
  /-- a form byte that is neither 1 nor 2, and what follows it -/
  | badForm (form : Byte) (rest : List Byte)
  deriving DecidableEq, Repr

/-- How CRED_READ names a credential (R96, R190). -/
inductive CredRef where
  | code (c : Word64)
  | position (bucket : Half) (way : Byte)
  /-- a form byte that is neither 1 nor 2, and what follows it -/
  | badForm (form : Byte) (rest : List Byte)
  deriving DecidableEq, Repr

/-- The part of a context a PROFILE_WRITE carries, with its values (R79, R190). -/
inductive ProfilePart where
  | group (g : Fin 8) (base ceiling visitor replay debt : Half)
  | throttle (surge cap enable : Byte)
  | ramp (code1 : Byte) (dur1 : Half) (code2 : Byte) (dur2 : Half) (code3 : Byte) (dur3 : Half)
  | timing (overhead sealAge lag : Half)
  /-- a part byte above 10, and what follows it -/
  | badPart (part : Byte) (rest : List Byte)
  deriving DecidableEq, Repr

/-- A directive as the management queue holds it: its kind and the fields of its body as they arrived (R170, R190).
Fields are raw, so a value out of its range reaches the owner's rule. -/
inductive Directive where
  | describe
  | setTime (t : Time)
  | counterRead (group present index clear : Byte)
  | zoneRestart
  | mgmtFilter (addrs : List Addr) (present : Byte) (newAddr : Addr)
  | radioConfig (radio role zone group port remove : Byte)
  | radioState (radio newState : Byte)
  | radioReset (radio : Byte)
  | stationRead (ref : StationRef)
  | stationPin (a : Addr)
  | stationUnpin (a : Addr)
  | clearFans
  | stationSettings (detach linger window threshold damping : Half)
  | credLoad (recs : List LoadRec)
  | credRead (ref : CredRef)
  | credVoid (code : Word64)
  | credEraseWay (bucket : Half) (way : Byte)
  | admissionFreeze
  | eventClose
  | voidSweep (kind value : Byte)
  | sweepSuspend
  | sweepResume
  | sweepStatus
  | clearRedemptions
  | reelConfig (reel : Byte) (first count : Half) (remove : Byte)
  | reelReset (reel : Byte)
  | reelStatus (reel present : Byte) (slot : Half)
  | profileAccess (ctx : Byte)
  | profileWrite (part : ProfilePart)
  | profileValidate
  | phaseSet (ctx : Byte)
  | surgeSet (flag : Byte)
  | rateTable (rates : List Half)
  | errorRead (clear : Byte)
  | errorClear (classes : Half) (record : Byte)
  | errorConfig (cls mask severity : Byte) (threshold : Half)
  | noticeConfig (entry : Byte) (dest : Addr) (enable mask kinds : Byte)
  /-- a kind that is not known, or a body of another length than its kind requires (R170, R190) -/
  | unknown (kind : Half) (body : List Byte)
  deriving DecidableEq, Repr

/-- What a well-formed frame from a downlink port carries behind its carrier header (R185, R186). -/
inductive CarrierMsg where
  | data (dst : Addr) (etype : Half) (payload : List Byte)
  | join
  | part
  | release (discarded : Half)
  | radioStatus (rateClass : Byte)
  | scan (code : Word64) (direction scanner : Byte)
  | checkin (code : Word64)
  | cue (reel mode : Byte) (start : Half) (window : Byte)
  | halt
  /-- a message kind that travels from the part to the radios, with its body -/
  | toRadio (code : Byte) (body : List Byte)
  deriving DecidableEq, Repr

/-- A well-formed frame from a downlink port: the radio and the station its header names, and its contents. -/
structure CarrierFrame where
  radio : Byte
  station : Addr
  msg : CarrierMsg
  deriving DecidableEq, Repr

/-- A reel frame that passes the format checks of R188. -/
inductive ReelMsg where
  | segOpen (reel : Byte) (seq len : Word32)
  | segData (reel : Byte) (seq offset : Word32) (data : List Byte)
  | segClose (reel : Byte) (seq : Word32)
  deriving DecidableEq, Repr

end Sys2Proof.Machine
end

