-- ==== Sys2Proof/Syntax.lean ====
section
/-! DEFINITION. The commands of the part: one constructor per row of spec/opcode_table.json, in the table's order, with
the fields a frame or an event of that row carries. A frame from a downlink port names the arrival port and the fields of
its carrier header and body (R185); a frame from the uplink its source, type and content (R184, R187, R189); a directive
its source address, its tag and the fields of its body (R190). -/

namespace Sys2Proof

open Sys2Proof.Machine

inductive Instr where
  /-- power-on, or RESET_N asserted -/
  | coldReset
  /-- the SURGE line changes to `level` (R73) -/
  | surgeLineChange (level : Bool)
  /-- a frame from the uplink, with its three header fields and its payload (R22) -/
  | downstreamDataFrame (dst src : Addr) (etype : Half) (payload : List Byte)
  /-- a frame to the management address in force, with its source, type and content (R167) -/
  | managementFrame (src : Addr) (etype : Half) (content : List Byte)
  /-- a frame to the ingest address, with its source, type and content (R131, R188) -/
  | malformedReelFrame (src : Addr) (etype : Half) (content : List Byte)
  | segmentOpen (src : Addr) (reel : Byte) (seq len : Word32)
  | segmentData (src : Addr) (reel : Byte) (seq offset : Word32) (data : List Byte)
  | segmentClose (src : Addr) (reel : Byte) (seq : Word32)
  /-- a frame from a downlink port, byte for byte from its carrier header on (R23, R186) -/
  | malformedCarrierFrame (port : Fin 4) (bytes : List Byte)
  | upstreamDataFrame (port : Fin 4) (radio : Byte) (station dst : Addr) (etype : Half) (payload : List Byte)
  | join (port : Fin 4) (radio : Byte) (station : Addr)
  | part (port : Fin 4) (radio : Byte) (station : Addr)
  | release (port : Fin 4) (radio : Byte) (station : Addr) (discarded : Half)
  | radioStatus (port : Fin 4) (radio : Byte) (rateClass : Byte)
  | scan (port : Fin 4) (radio : Byte) (station : Addr) (code : Word64) (direction scanner : Byte)
  | checkin (port : Fin 4) (radio : Byte) (station : Addr) (code : Word64)
  | cue (port : Fin 4) (radio : Byte) (station : Addr) (reel mode : Byte) (start : Half) (window : Byte)
  | halt (port : Fin 4) (radio : Byte) (station : Addr)
  /-- an upstream SERVICE frame whose message kind `code` travels from the part to the radios (R23) -/
  | partToRadioServiceFrame (port : Fin 4) (radio : Byte) (station : Addr) (code : Byte) (body : List Byte)
  | lingerExpiry (handle : Fin 8192)
  | detachTimerExpiry (handle : Fin 8192)
  | dampingExpiry (handle : Fin 8192)
  | sealTimerExpiry (radio : Fin 256)
  | wakeTimerExpiry (radio : Fin 256)
  | stageTimerExpiry
  | transmitCompletion (port : Fin 4)
  /-- `spoilt` are the bytes of the credential area that a fault of the record memory changed before this read (R165) -/
  | credentialFetchCompletion (spoilt : List Host.Cell)
  | credentialWriteBackCompletion
  | sweepStrideCompletion (spoilt : List Host.Cell)
  | clipChunkReadCompletion
  | clipIngestWriteCompletion
  | describe (src : Addr) (tag : Half)
  | setTime (src : Addr) (tag : Half) (t : Time)
  | counterRead (src : Addr) (tag : Half) (group present index clear : Byte)
  | zoneRestart (src : Addr) (tag : Half)
  | mgmtFilter (src : Addr) (tag : Half) (addrs : List Addr) (present : Byte) (newAddr : Addr)
  | radioConfig (src : Addr) (tag : Half) (radio role zone group port remove : Byte)
  | radioState (src : Addr) (tag : Half) (radio newState : Byte)
  | radioReset (src : Addr) (tag : Half) (radio : Byte)
  | stationRead (src : Addr) (tag : Half) (ref : StationRef)
  | stationPin (src : Addr) (tag : Half) (a : Addr)
  | stationUnpin (src : Addr) (tag : Half) (a : Addr)
  | clearFans (src : Addr) (tag : Half)
  | stationSettings (src : Addr) (tag : Half) (detach linger window threshold damping : Half)
  | credLoad (src : Addr) (tag : Half) (recs : List LoadRec)
  | credRead (src : Addr) (tag : Half) (ref : CredRef)
  | credVoid (src : Addr) (tag : Half) (code : Word64)
  | credEraseWay (src : Addr) (tag : Half) (bucket : Half) (way : Byte)
  | admissionFreeze (src : Addr) (tag : Half)
  | eventClose (src : Addr) (tag : Half)
  | voidSweep (src : Addr) (tag : Half) (kind value : Byte)
  | sweepSuspend (src : Addr) (tag : Half)
  | sweepResume (src : Addr) (tag : Half)
  | sweepStatus (src : Addr) (tag : Half)
  | clearRedemptions (src : Addr) (tag : Half)
  | reelConfig (src : Addr) (tag : Half) (reel : Byte) (first count : Half) (remove : Byte)
  | reelReset (src : Addr) (tag : Half) (reel : Byte)
  | reelStatus (src : Addr) (tag : Half) (reel present : Byte) (slot : Half)
  | profileAccess (src : Addr) (tag : Half) (ctx : Byte)
  | profileWrite (src : Addr) (tag : Half) (part : ProfilePart)
  | profileValidate (src : Addr) (tag : Half)
  | phaseSet (src : Addr) (tag : Half) (ctx : Byte)
  | surgeSet (src : Addr) (tag : Half) (flag : Byte)
  | rateTable (src : Addr) (tag : Half) (rates : List Half)
  | errorRead (src : Addr) (tag : Half) (clear : Byte)
  | errorClear (src : Addr) (tag : Half) (classes : Half) (record : Byte)
  | errorConfig (src : Addr) (tag : Half) (cls mask severity : Byte) (threshold : Half)
  | noticeConfig (src : Addr) (tag : Half) (entry : Byte) (dest : Addr) (enable mask kinds : Byte)
  | unknownDirective (src : Addr) (tag : Half) (kind : Half) (body : List Byte)
  deriving DecidableEq, Repr

end Sys2Proof
end

