-- ==== Sys2Proof/Machine/State.lean ====
section
/-! DEFINITION. The state of the part, block by block, and its value after a cold reset. Every counter of a chapter's
counter table stands in its block's counter record, so that COUNTER_READ's clear flag (R174) is one update. -/

namespace Sys2Proof.Machine

/-! ### Station table (01_station_table.md) -/

/-- The tie between a station and a credential (R1, R124). -/
structure Binding where
  bucket : Nat
  way : Nat
  tier : Tier
  /-- the 8 bytes of the set as R190 lays them out (`permits` reads them) -/
  permit : Word64
  grant : Bool
  deriving DecidableEq, Repr

/-- The rider state of an ACTIVE subscription (R143). `waiting` also holds the event in which the station joined its
radio's waiting list: R152 orders heads by it. -/
inductive Rider where
  | waiting (since : Time) (event : Nat)
  | riding (delivery : Nat)
  | idle
  deriving DecidableEq, Repr

/-- A replay subscription (R143). A PAUSED subscription has no rider state and an ACTIVE one has one, so the activity
field is `rider.isSome`. -/
structure Sub where
  reel : Nat
  mode : Mode
  cursor : Option Nat
  /-- window start and window size; LOOP only -/
  window : Option (Nat × Nat)
  rider : Option Rider
  deriving DecidableEq, Repr

/-- A station record (R1); its handle is its key in the table. -/
structure Station where
  addr : Addr
  state : StState
  current : Option Nat := none
  target : Option Nat := none
  previous : Option Nat := none
  lastRoam : Option Time := none
  pingPong : Nat := 0
  damped : Option Time := none
  pinned : Bool := false
  binding : Option Binding := none
  standing : Standing := .unbound
  cls : Cls := .visitor
  pendingCls : Option Cls := none
  egress : Nat := 0
  hold : List Frame := []
  sub : Option Sub := none
  linger : Option Time := none
  deriving DecidableEq, Repr

/-- The counters kept by the station table (R23's table, and R120's two of the check-in table). -/
structure StationCtrs where
  created : Ctr := 0
  lingeredOut : Ctr := 0
  queuedDiscarded : Ctr := 0
  heldDiscarded : Ctr := 0
  stray : Ctr := 0
  deriving DecidableEq, Repr

/-! ### Radio table (R16, R61) -/

/-- The configuration of a radio; absent while ABSENT (R16). -/
structure RadioCfg where
  role : Role
  zone : Nat
  group : Nat
  port : Nat
  deriving DecidableEq, Repr

/-- The drop counters of a radio (R16). -/
structure RadioDrops where
  notInService : Ctr := 0
  overflow : Ctr := 0
  purge : Ctr := 0
  deriving DecidableEq, Repr

/-- The governor's counters of a radio (04, table of counters). -/
structure RadioGovCtrs where
  airtime : Ctr := 0
  dispAdmission : Ctr := 0
  dispFan : Ctr := 0
  dispVisitor : Ctr := 0
  dispReplay : Ctr := 0
  withheld : Ctr := 0
  statusMessages : Ctr := 0
  rateChanges : Ctr := 0
  deriving DecidableEq, Repr

/-- The replay engine's counters of a radio (R156, R157). -/
structure RadioReplayCtrs where
  lapped : Ctr := 0
  abandoned : Ctr := 0
  deriving DecidableEq, Repr

/-- A radio record (R16), with the governor's fields (R61). Its defaults are the ABSENT radio of cold reset. -/
structure Radio where
  state : RadioState := .absent
  cfg : Option RadioCfg := none
  rate : Nat := 0
  stations : Nat := 0
  subscribers : Nat := 0
  credit : Int := 0
  remainder : Nat := 0
  lastRefill : Time := 0
  waiting : List Cls := []
  wake : Option Time := none
  strikes : Nat := 0
  noted : Bool := false
  drops : RadioDrops := {}
  gov : RadioGovCtrs := {}
  rep : RadioReplayCtrs := {}
  deriving DecidableEq, Repr

/-! ### Roam engine (R24, R25, R39) -/

/-- A roam context; its station handle is its key (R24). -/
structure RoamCtx where
  old : Nat
  target : Nat
  start : Time
  deadline : Time
  sent : Bool
  deriving DecidableEq, Repr

/-- The five settings of STATION_SETTINGS, in the units of R25 (ms, s, s, count, s). -/
structure Settings where
  detachMs : Nat := 20
  lingerS : Nat := 90
  windowS : Nat := 10
  threshold : Nat := 3
  dampingS : Nat := 30
  deriving DecidableEq, Repr

/-- The counters kept by the roam engine (02, table of counters). -/
structure RoamCtrs where
  started : Ctr := 0
  byRelease : Ctr := 0
  byPart : Ctr := 0
  byTimeout : Ctr := 0
  cancelled : Ctr := 0
  retargeted : Ctr := 0
  endedByTargetPart : Ctr := 0
  resolvedByLoss : Ctr := 0
  declined : Ctr := 0
  damped : Ctr := 0
  recalled : Ctr := 0
  radioDiscarded : Ctr := 0
  holdOverflow : Ctr := 0
  lostMessages : Ctr := 0
  strayReleases : Ctr := 0
  deriving DecidableEq, Repr

/-- The roam engine's own state (R24). The hold pool's places in use are the frames of all hold queues (R26), so they are
counted from the records. -/
structure Roam where
  ctxs : Table RoamCtx := []
  /-- release marks: station handle to the radio named (R39) -/
  marks : Table Nat := []
  /-- the drain list, head first (R29) -/
  drain : List Nat := []
  settings : Settings := {}
  ctrs : RoamCtrs := {}
  deriving DecidableEq, Repr

/-! ### Egress buffer and port complex (R44, R45, R52, R56) -/

/-- The state of a burst (R45); a TRANSMITTING burst records its port. -/
inductive BState where
  | opened
  | closed
  | transmitting (port : Nat)
  deriving DecidableEq, Repr

/-- A burst (R45). Its radio and class are those of the list it lies in, and its byte total is the sum of its payloads. -/
structure Burst where
  state : BState
  frames : List Frame
  sealAt : Option Time := none
  deriving DecidableEq, Repr

/-- The four class lists of a radio, head first (R45). -/
structure RadioLists where
  admission : List Burst := []
  fan : List Burst := []
  visitor : List Burst := []
  replay : List Burst := []
  deriving DecidableEq, Repr

/-- The egress buffer (R44): the class lists of each radio and the two counts of the pool. -/
structure Egress where
  lists : Table RadioLists := []
  buffers : Nat := 0
  bursts : Nat := 0
  accepted : Ctr := 0
  declined : Ctr := 0
  deriving DecidableEq, Repr

/-- The event counters of a downlink port (R23, R56, R60, R174). -/
structure PortCtrs where
  received : Ctr := 0
  sent : Ctr := 0
  unlisted : Ctr := 0
  absentDrops : Ctr := 0
  burstsSent : Ctr := 0
  framesSent : Ctr := 0
  bytesSent : Ctr := 0
  burstsCut : Ctr := 0
  deriving DecidableEq, Repr

/-- A downlink port: its receive FIFO (00_scope.md; log entry 19), its round-robin pointer (R52), the radio and class of the
burst it sends (R54), the frames of its transmit FIFO as they leave, carrier header first (R55, R185), and its counters. -/
structure Port where
  /-- the receive FIFO, oldest first: frames byte for byte -/
  rx : List (List Byte) := []
  pointer : Option Nat := none
  sending : Option (Nat × Cls) := none
  wire : List (List Byte) := []
  ctrs : PortCtrs := {}
  deriving DecidableEq, Repr

/-- A frame of the uplink transmit FIFO: a station's upstream frame (R23), a reply (R171, R189) or a notice (R182, R189). -/
inductive UplinkOut where
  | data (frame : Frame)
  | reply (dst src : Addr) (kind tag : Half) (status : Status) (body : List Byte)
  | notice (dst src : Addr) (kind : NoticeKind) (count : Ctr) (body : List Byte)
  deriving DecidableEq, Repr

/-- The uplink port's counters (R22, R174). -/
structure UplinkCtrs where
  received : Ctr := 0
  sent : Ctr := 0
  broadcast : Ctr := 0
  multicast : Ctr := 0
  oversize : Ctr := 0
  unknown : Ctr := 0
  deriving DecidableEq, Repr

/-- A frame of the uplink receive FIFO, with its three header fields and its payload (R22). -/
structure UplinkIn where
  dst : Addr
  src : Addr
  etype : Half
  payload : List Byte
  deriving DecidableEq, Repr

/-- The uplink port: its receive FIFO (00_scope.md; log entry 19) and its transmit FIFO, oldest first (R171), and its
counters. -/
structure Uplink where
  rx : List UplinkIn := []
  tx : List UplinkOut := []
  ctrs : UplinkCtrs := {}
  deriving DecidableEq, Repr

/-! ### Airtime governor (R62, R72, R73, R77) -/

/-- A group record of a phase context (R77), at the widths PROFILE_WRITE stores (R79, R190). -/
structure GroupRec where
  base : Half := 500
  ceiling : Half := 8000
  visitor : Half := 1000
  replay : Half := 2000
  debt : Half := 1000
  deriving DecidableEq, Repr

/-- A ramp stage: its code and its duration in ms (R77). -/
structure Stage where
  code : Byte
  dur : Half
  deriving DecidableEq, Repr

/-- A phase context (R77); its defaults are those of cold reset. -/
structure Context where
  g0 : GroupRec := {}
  g1 : GroupRec := {}
  g2 : GroupRec := {}
  g3 : GroupRec := {}
  g4 : GroupRec := {}
  g5 : GroupRec := {}
  g6 : GroupRec := {}
  g7 : GroupRec := {}
  surgeCode : Byte := 3
  capCode : Byte := 0
  capEnable : Byte := 0
  stage1 : Stage := ⟨2, 5000⟩
  stage2 : Stage := ⟨1, 10000⟩
  stage3 : Stage := ⟨0, 1⟩
  overhead : Half := 40
  sealAge : Half := 500
  lagLimit : Half := 8
  valid : Bool := true
  deriving DecidableEq, Repr

/-- The surge state; RAMPING holds its stage and the stage timer's deadline (R73, R75). -/
inductive Surge where
  | off
  | on
  | ramping (stage : Nat) (deadline : Time)
  deriving DecidableEq, Repr

/-- The governor's part-wide counters (04, table of counters). -/
structure GovCtrs where
  throttleChanges : Ctr := 0
  surgeOnsets : Ctr := 0
  phaseChanges : Ctr := 0
  phaseRefusals : Ctr := 0
  deriving DecidableEq, Repr

/-- The rate table of cold reset (R62). -/
def rateDefaults : List Nat := [6, 12, 24, 48, 96, 144, 192, 288, 400, 600, 800, 1200, 1600, 2400, 3200, 4095]

/-- The governor's part-wide state (R83). -/
structure Governor where
  play : Context := {}
  brk : Context := {}
  active : Phase := .play
  /-- the access selection (R78) -/
  access : Phase := .brk
  /-- throughput of rate classes 0 to 15, in Mbit/s (R62) -/
  rates : List Nat := rateDefaults
  surgeFlag : Bool := false
  surge : Surge := .off
  ctrs : GovCtrs := {}
  deriving DecidableEq, Repr

/-! ### Admission engine (R85, R88, R90, R94, R106) -/

/-- A gate and the time it was used (R84). -/
structure GateTime where
  gate : Nat
  time : Time
  deriving DecidableEq, Repr

/-- A credential record, less its check code (R84). -/
structure Cred where
  code : Word64
  tier : Tier
  permit : Word64
  allowance : Nat
  grant : Bool
  first : Option GateTime := none
  last : Option GateTime := none
  deriving DecidableEq, Repr

/-- A redemption map entry (R85); its defaults are the FREE entry. -/
structure MapEntry where
  state : EntryState := .free
  faulty : Bool := false
  used : Nat := 0
  home : Nat := 0
  bound : Option Nat := none
  deriving DecidableEq, Repr

/-- What a work item is for (R90). -/
inductive ItemKind where
  | scan (dir : Direction) (scanner : Byte)
  | checkin (handle : Nat)
  deriving DecidableEq, Repr

/-- The stage of a work item, with its fetch slot in FETCHING and WRITING (R90). -/
inductive ItemStage where
  | waiting
  | fetching (slot : Nat)
  | writing (slot : Nat)
  deriving DecidableEq, Repr

/-- A work item (R90). `serial` is its place in arrival order (R91, R92). -/
structure WorkItem where
  serial : Nat
  kind : ItemKind
  code : Word64
  bucket : Nat
  radio : Nat
  zone : Nat
  station : Addr
  time : Time
  stage : ItemStage
  deriving DecidableEq, Repr

/-- The statuses of a load record, in the order of R95's table. -/
inductive LoadStatus where
  | updated | fault | loaded | bucketFull
  deriving DecidableEq, Repr

/-- What the running credential directive does with its bucket (R94 to R97). -/
inductive CredJob where
  /-- the record being loaded, those still to come, and the statuses of those done with their positions -/
  | load (cur : LoadRec) (rest : List LoadRec) (done : List (LoadStatus × Option Nat))
  | readCode (code : Word64)
  | readPos (way : Nat)
  | void (code : Word64)
  | erase (way : Nat)
  deriving DecidableEq, Repr

/-- The stage of a directive's operation on its bucket (R94). -/
inductive OpStage where
  | waiting | fetching | writing
  deriving DecidableEq, Repr

/-- The one credential directive operation (R94). -/
structure CredOp where
  serial : Nat
  bucket : Nat
  job : CredJob
  stage : OpStage
  deriving DecidableEq, Repr

/-- A sweep's selector (R106). -/
inductive Selector where
  | zone (z : Nat)
  | tier (t : Tier)
  | all
  deriving DecidableEq, Repr

/-- The sweep state (R106). -/
inductive SweepState where
  | idle | running | suspended
  deriving DecidableEq, Repr

/-- The stride field (R106); absent is `none` of its Option. -/
inductive Stride where
  | claimed | reading
  deriving DecidableEq, Repr

/-- The sweep record (R106). The three counts count entries, at most 65,536. -/
structure Sweep where
  state : SweepState := .idle
  selector : Option Selector := none
  pointer : Nat := 0
  stride : Option Stride := none
  suspendRequested : Bool := false
  voided : Nat := 0
  voidedInside : Nat := 0
  faultyPassed : Nat := 0
  startTime : Time := 0
  endTime : Option Time := none
  deriving DecidableEq, Repr

/-- The verdict counters, one for each verdict (R102). -/
structure VerdictCtrs where
  admitIn : Ctr := 0
  readmit : Ctr := 0
  duplicate : Ctr := 0
  wrongGate : Ctr := 0
  void : Ctr := 0
  unknown : Ctr := 0
  exitOk : Ctr := 0
  notInside : Ctr := 0
  fault : Ctr := 0
  retry : Ctr := 0
  closed : Ctr := 0
  deriving DecidableEq, Repr

/-- The counters of the admission engine: chapters 05, 06 and 07. -/
structure AdmCtrs where
  scans : Ctr := 0
  queueFull : Ctr := 0
  verdicts : VerdictCtrs := {}
  fetches : Ctr := 0
  writeBacks : Ctr := 0
  faultyFound : Ctr := 0
  loaded : Ctr := 0
  updated : Ctr := 0
  bucketFull : Ctr := 0
  loadFault : Ctr := 0
  voids : Ctr := 0
  erases : Ctr := 0
  checkins : Ctr := 0
  checkinsFull : Ctr := 0
  ciAccepted : Ctr := 0
  ciNotInside : Ctr := 0
  ciUnknown : Ctr := 0
  ciElsewhere : Ctr := 0
  ciFault : Ctr := 0
  ciRetry : Ctr := 0
  abandoned : Ctr := 0
  bindings : Ctr := 0
  takeovers : Ctr := 0
  unbinds : Ctr := 0
  unbindsNoEffect : Ctr := 0
  sweepsStarted : Ctr := 0
  sweepsCompleted : Ctr := 0
  strides : Ctr := 0
  clears : Ctr := 0
  returned : Ctr := 0
  deriving DecidableEq, Repr

/-- The admission engine (R105). Fetch slots in use and pending lists are read off the items (R91, R92). -/
structure Admission where
  map : Table MapEntry := []
  /-- zone to occupancy (R88) -/
  occupancy : Table Nat := []
  /-- the scan queue, in arrival order (R90) -/
  items : List WorkItem := []
  op : Option CredOp := none
  frozen : Bool := false
  closed : Bool := false
  sweep : Sweep := {}
  /-- the model's: the serial number of the next work item or operation -/
  serial : Nat := 0
  ctrs : AdmCtrs := {}
  deriving DecidableEq, Repr

/-! ### Replay engine (R128, R129, R149) -/

/-- A reel's counters (08, table of counters). -/
structure ReelCtrs where
  opens : Ctr := 0
  refusedOpens : Ctr := 0
  missing : Ctr := 0
  incomplete : Ctr := 0
  accepted : Ctr := 0
  noFilling : Ctr := 0
  outOfOrder : Ctr := 0
  outOfBounds : Ctr := 0
  overrun : Ctr := 0
  strayCloses : Ctr := 0
  ready : Ctr := 0
  readyBytes : Ctr := 0
  overwrites : Ctr := 0
  lapped : Ctr := 0
  resetRemoved : Ctr := 0
  deriving DecidableEq, Repr

/-- The configured part of a reel descriptor (R128): first slot, count, write position, the sequences, the filling slot. -/
structure ReelCfg where
  first : Nat
  count : Nat
  writePos : Nat
  lastOpened : Option Nat := none
  newest : Option Nat := none
  oldest : Option Nat := none
  filling : Option Nat := none
  deriving DecidableEq, Repr

/-- A reel descriptor: unconfigured while `cfg` is absent (R128). Its counters are kept by every reel directive. -/
structure Reel where
  cfg : Option ReelCfg := none
  ctrs : ReelCtrs := {}
  deriving DecidableEq, Repr

/-- The state of a slot (R129). -/
inductive SlotState where
  | free | filling | writing | ready
  deriving DecidableEq, Repr

/-- A slot descriptor (R129). -/
structure Slot where
  state : SlotState := .free
  reel : Option Nat := none
  seq : Option Nat := none
  length : Option Nat := none
  received : Option Nat := none
  outstanding : Nat := 0
  generation : Half := 0
  readyTime : Option Time := none
  deriving DecidableEq, Repr

/-- The chunk field of a delivery: READING, or HELD with its held frames (R149). -/
inductive Chunk where
  | reading
  | held (frames : List Frame)
  deriving DecidableEq, Repr

/-- A delivery (R149); its key is its identity (log entry 20). -/
structure Delivery where
  radio : Nat
  reel : Nat
  slot : Nat
  seq : Nat
  generation : Half
  length : Nat
  nextOffset : Nat := 0
  chunk : Chunk := .reading
  riders : List Nat
  deriving DecidableEq, Repr

/-- The replay engine's part-wide counters (08 and 09, tables of counters). -/
structure ReplayCtrs where
  malformed : Ctr := 0
  unconfigured : Ctr := 0
  discardedWrites : Ctr := 0
  restartAbandoned : Ctr := 0
  cueAccepted : Ctr := 0
  cueReplaced : Ctr := 0
  cueNotEntitled : Ctr := 0
  cueNoReel : Ctr := 0
  cueEmpty : Ctr := 0
  halts : Ctr := 0
  haltsNoSub : Ctr := 0
  removed : Ctr := 0
  ended : Ctr := 0
  resumptions : Ctr := 0
  lagSkips : Ctr := 0
  coalesced : Ctr := 0
  created : Ctr := 0
  completed : Ctr := 0
  chunkReads : Ctr := 0
  discardedChunks : Ctr := 0
  replayFrames : Ctr := 0
  wakes : Ctr := 0
  deriving DecidableEq, Repr

/-- The replay engine. -/
structure Replay where
  reels : Table Reel := []
  slots : Table Slot := []
  deliveries : Table Delivery := []
  /-- radio to its waiting list of station handles, head first (R152) -/
  waiting : Table (List Nat) := []
  /-- the stalled list of deliveries, head first (R154) -/
  stalled : List Nat := []
  /-- ingest writes outstanding in the part (R136) -/
  outstanding : Nat := 0
  /-- the model's: the identity of the next delivery -/
  nextId : Nat := 0
  ctrs : ReplayCtrs := {}
  deriving DecidableEq, Repr

/-! ### Record memory controller (R161 to R166) -/

/-- Who sent a credential request: a work item or the directive operation (R161). -/
inductive Owner where
  | item (serial : Nat)
  | op
  deriving DecidableEq, Repr

/-- A request (R161). -/
inductive Request where
  | fetch (bucket : Nat) (check : List Nat) (owner : Owner)
  | writeBack (pos : Nat) (cred : Cred) (owner : Owner)
  | chunk (slot offset length delivery : Nat)
  | stride (bucket : Nat) (check : List Nat)
  | ingest (slot offset : Nat) (data : List Byte) (generation : Half)
  deriving DecidableEq, Repr

/-- A request with its mark: sent before the last zone restart (R166). -/
structure Tagged where
  req : Request
  marked : Bool := false
  deriving DecidableEq, Repr

/-- The controller's counters (10, table of counters). -/
structure MemCtrs where
  fetch : Ctr := 0
  writeBack : Ctr := 0
  chunk : Ctr := 0
  stride : Ctr := 0
  ingest : Ctr := 0
  guardIngest : Ctr := 0
  guardStride : Ctr := 0
  checkFailures : Ctr := 0
  bytesRead : Ctr := 0
  bytesWritten : Ctr := 0
  deriving DecidableEq, Repr

/-- The record memory and its controller: the two areas (R160), one queue for each kind of request, the request in
transfer while the memory is busy (R162), and the two starvation counters (R163). -/
structure RecMem where
  cred : List Host.Cell := []
  clip : List Host.Cell := []
  fetchQ : List Tagged := []
  writeQ : List Tagged := []
  chunkQ : List Tagged := []
  strideQ : List Tagged := []
  ingestQ : List Tagged := []
  transfer : Option Tagged := none
  starveIngest : Nat := 0
  starveStride : Nat := 0
  ctrs : MemCtrs := {}
  deriving DecidableEq, Repr

/-! ### Management unit (R167 to R171, R176) -/

/-- An entry of the management queue (R170). -/
structure MgmtEntry where
  src : Addr
  tag : Half
  dir : Directive
  deriving DecidableEq, Repr

/-- The management unit's counters (R176). -/
structure MgmtCtrs where
  received : Ctr := 0
  done : Ctr := 0
  accepted : Ctr := 0
  busy : Ctr := 0
  state : Ctr := 0
  range : Ctr := 0
  frozen : Ctr := 0
  invalidContext : Ctr := 0
  unknownDirective : Ctr := 0
  refusedSources : Ctr := 0
  queueFull : Ctr := 0
  short : Ctr := 0
  nonManagement : Ctr := 0
  deriving DecidableEq, Repr

/-- The management unit. -/
structure Mgmt where
  /-- head first; the head is the running directive -/
  queue : List MgmtEntry := []
  /-- the head has been handed to its owner and waits there (R170) -/
  started : Bool := false
  filter : List Addr := []
  address : Addr := 0
  ctrs : MgmtCtrs := {}
  deriving DecidableEq, Repr

/-! ### Error and notice unit (R177, R178, R182) -/

/-- What the unit holds for one error class (R177). `quarantine` is the severity, of a quarantinable class only. -/
structure ErrState where
  status : Bool := false
  count : Ctr := 0
  masked : Bool := false
  quarantine : Bool := false
  deriving DecidableEq, Repr

/-- An occurrence of an error class, with what it names (R177, R178). -/
structure Occurrence where
  cls : ErrClass
  radio : Option Nat := none
  handle : Option Nat := none
  place : Option (Nat × Nat) := none
  /-- the offending frame, when the cause is a frame -/
  frame : Option (List Byte) := none
  deriving DecidableEq, Repr

/-- The first-error record while valid (R178): the occurrence, its frame cut to 32 bytes, and the venue time. -/
structure FirstError where
  occ : Occurrence
  time : Time
  deriving DecidableEq, Repr

/-- What a pending notice entry holds (R182): the pending count, whose range is the model's (log entry 45), and the last
notice. -/
structure Held where
  count : Ctr
  kind : NoticeKind
  body : List Byte
  deriving DecidableEq, Repr

/-- An entry of the notice table (R182); its pending flag is `held.isSome`. -/
structure NoticeEntry where
  dest : Addr := 0
  enable : Bool := false
  mask : Bool := false
  held : Option Held := none
  sent : Ctr := 0
  discarded : Ctr := 0
  deriving DecidableEq, Repr

/-- The error and notice unit. -/
structure ErrorUnit where
  /-- class number (1 to 14) to what the unit holds for it -/
  classes : Table ErrState := []
  first : Option FirstError := none
  overflow : Bool := false
  threshold : Nat := 8
  quarantines : Ctr := 0
  /-- the notice table, by entry number -/
  entries : Table NoticeEntry := []
  /-- notice kind number (1 to 8) to its entry, where it differs from the kind's entry after cold reset -/
  mapping : Table Nat := []
  deriving DecidableEq, Repr

/-- The MODEL's own bookkeeping within one event (log entry 7): empty between events but for its number. -/
structure Scratch where
  /-- the number of the event -/
  number : Nat := 0
  /-- buffers or bursts were freed and not yet announced (R57) -/
  roomFreed : Bool := false
  /-- ports asked to run their arbiter (R53) -/
  ask : List Nat := []
  /-- a fetch slot is to be looked for (R92) -/
  look : Bool := false
  /-- within a quarantine: occurrences are taken after it has been made (R179) -/
  deferring : Bool := false
  deferred : List Occurrence := []
  deriving DecidableEq, Repr

/-- The state of the part. -/
structure State where
  /-- the commands that wait, first in, first out -/
  pending : List Instr := []
  venueTime : Time := 0
  /-- recorded in the part at manufacture (R167) -/
  factory : Addr := 0
  /-- the level of the SURGE input -/
  surgeLine : Bool := false
  uplink : Uplink := {}
  ports : Table Port := []
  /-- station records by handle (R1) -/
  stations : Table Station := []
  stationCtrs : StationCtrs := {}
  radios : Table Radio := []
  roam : Roam := {}
  egress : Egress := {}
  gov : Governor := {}
  adm : Admission := {}
  replay : Replay := {}
  mem : RecMem := {}
  mgmt : Mgmt := {}
  err : ErrorUnit := {}
  /-- the model's bookkeeping within an event -/
  ev : Scratch := {}
  /-- the model's counter of free values drawn so far -/
  draws : Nat := 0
  deriving DecidableEq, Repr

/-- The machine right after cold reset (R2, R16, R24, R45, R60, R77, R83, R105, R106, R128, R129, R149, R166, R176, R177,
R182): every field at its default above. -/
def State.reset : State := {}

/-- Why the machine stops with a fault. -/
inductive Fault where
  /-- Raised by the meaning of a command whose operands no frame can spell (a list longer than its 1-byte count, R190).
  Safe: no such frame reaches the part, and nothing is claimed of it. -/
  | notAFrame
  deriving DecidableEq, Repr

/-- Why a command has no meaning. -/
inductive Refusal where
  /-- Raised by exec's arm of a command that has no meaning yet. Safe: nothing is claimed of it. -/
  | notModelled (mnemonic : String)
  deriving DecidableEq, Repr

/-- The outcome of a step. -/
abbrev Outcome := Host.Outcome State Fault Refusal

end Sys2Proof.Machine
end

