-- ==== Sys2Proof/Machine/Formats.lean ====
section
/-! DEFINITION. Frames and bodies as bytes (13_frame_and_record_formats.md): numbers most significant byte first, the
carrier header, reel frames, directive bodies, replies and notices. -/

namespace Sys2Proof.Machine

/-- The low `n` bytes of a number, most significant first (R184). -/
def be : Nat → Nat → List Byte
  | 0, _ => []
  | n + 1, v => BitVec.ofNat 8 (v / 256 ^ n) :: be n v

/-- The number a list of bytes spells, most significant first (R184). -/
def beVal (l : List Byte) : Nat := l.foldl (fun a b => a * 256 + b.toNat) 0

/-- A set or clear flag (R190). -/
def flagByte (b : Bool) : List Byte := [if b then 1 else 0]

/-- An optional field of `n` bytes: a presence byte, then the field, zeros when absent (R190; R185 for the zeros). -/
def optField (n : Nat) : Option Nat → List Byte
  | none => 0 :: be n 0
  | some v => 1 :: be n v

/-- Numbers of enumerated values, from 1 in the order their rule lists them (R190). -/
def Verdict.code : Verdict → Nat
  | .admitIn => 1 | .readmit => 2 | .duplicate => 3 | .wrongGate => 4 | .void => 5 | .unknown => 6
  | .exitOk => 7 | .notInside => 8 | .fault => 9 | .retry => 10 | .closed => 11

def CheckinResult.code : CheckinResult → Nat
  | .accepted => 1 | .notInside => 2 | .unknown => 3 | .boundElsewhere => 4 | .fault => 5 | .retry => 6

def CueResult.code : CueResult → Nat
  | .accepted => 1 | .replaced => 2 | .notEntitled => 3 | .noReel => 4 | .empty => 5

def Status.code : Status → Nat
  | .done => 1 | .accepted => 2 | .busy => 3 | .state => 4 | .range => 5 | .frozen => 6
  | .invalidContext => 7 | .unknownDirective => 8

def ErrClass.code : ErrClass → Nat
  | .carrierMalformed => 1 | .radioNotInService => 2 | .gateRole => 3 | .handoffTimeout => 4 | .lateRelease => 5
  | .serviceUnexpected => 6 | .holdOverflow => 7 | .egressOverflow => 8 | .stationTableFull => 9
  | .ingestSequence => 10 | .ingestIncomplete => 11 | .recordFault => 12 | .mgmtSourceRefused => 13
  | .mgmtQueueFull => 14

/-- The five classes R177 marks quarantinable. -/
def ErrClass.quarantinable : ErrClass → Bool
  | .carrierMalformed | .gateRole | .handoffTimeout | .lateRelease | .serviceUnexpected => true
  | _ => false

def ErrClass.all : List ErrClass :=
  [.carrierMalformed, .radioNotInService, .gateRole, .handoffTimeout, .lateRelease, .serviceUnexpected, .holdOverflow,
   .egressOverflow, .stationTableFull, .ingestSequence, .ingestIncomplete, .recordFault, .mgmtSourceRefused,
   .mgmtQueueFull]

def NoticeKind.code : NoticeKind → Nat
  | .error => 1 | .quarantine => 2 | .sweepDone => 3 | .phaseChanged => 4 | .phaseRefused => 5 | .surgeChanged => 6
  | .reelLapped => 7 | .ingestDone => 8

def NoticeKind.all : List NoticeKind :=
  [.error, .quarantine, .sweepDone, .phaseChanged, .phaseRefused, .surgeChanged, .reelLapped, .ingestDone]

def StState.code : StState → Nat
  | .unattached => 1 | .attached => 2 | .handoff => 3

def Standing.code : Standing → Nat
  | .unbound => 1 | .inZone => 2 | .outOfZone => 3

def Cls.code : Cls → Nat
  | .admission => 1 | .fan => 2 | .visitor => 3 | .replay => 4

def Mode.code : Mode → Nat
  | .one => 1 | .follow => 2 | .loop => 3

def Tier.code : Tier → Nat
  | .general => 1 | .premium => 2 | .staff => 3

def RadioState.code : RadioState → Nat
  | .absent => 1 | .inService => 2 | .quarantined => 3 | .disabled => 4

def Role.code : Role → Nat
  | .seat => 1 | .concourse => 2 | .gateIn => 3 | .gateOut => 4 | .gateBoth => 5

def EntryState.code : EntryState → Nat
  | .free => 1 | .issued => 2 | .admitted => 3 | .exited => 4 | .void => 5

def Phase.code : Phase → Nat
  | .play => 1 | .brk => 2

def SlotState.code : SlotState → Nat
  | .free => 1 | .filling => 2 | .writing => 3 | .ready => 4

def LoadStatus.code : LoadStatus → Nat
  | .updated => 1 | .fault => 2 | .loaded => 3 | .bucketFull => 4

/-- The message codes of R185. -/
def codeDetach : Byte := 0x10
def codeKeep : Byte := 0x11
def codeVerdict : Byte := 0x12
def codeCheckinReply : Byte := 0x13
def codeCueReply : Byte := 0x14

/-- The type values of R184. -/
def typeManagement : Half := 0x9A42
def typeReplay : Half := 0x9A43
def typeReel : Half := 0x9A44

/-- The 12 bytes of the carrier header (R185). -/
def carrierHeader (radio : Nat) (kind : Byte) (station : Addr) (code : Byte) (length : Nat) : List Byte :=
  be 1 radio ++ [kind] ++ be 6 station.toNat ++ [code, 1] ++ be 2 length

/-- A frame of the uplink, or a station's frame: destination, source, type, then the payload (R184, R185). -/
def etherBytes (dst src : Addr) (etype : Half) (payload : List Byte) : List Byte :=
  be 6 dst.toNat ++ be 6 src.toNat ++ be 2 etype.toNat ++ payload

/-- A SERVICE frame with its carrier header (R185). -/
def serviceBytes (radio : Nat) (station : Addr) (code : Byte) (body : List Byte) : List Byte :=
  carrierHeader radio 2 station code body.length ++ body

/-- A DATA frame with its carrier header: the header's station address, then the station's frame (R185). -/
def dataBytes (radio : Nat) (station dst src : Addr) (etype : Half) (payload : List Byte) : List Byte :=
  carrierHeader radio 1 station 0 (14 + payload.length) ++ etherBytes dst src etype payload

/-- A frame as its port sends it to a radio (R55). -/
def Frame.wire (radio : Nat) (f : Frame) : List Byte :=
  match f.kind with
  | .data => dataBytes radio f.dst f.dst f.src f.etype f.payload
  | .service code => serviceBytes radio f.dst code f.payload

/-- The bytes an error keeps of a frame offered to egress for a radio (R48; log entry 12). -/
def Frame.offered (radio : Nat) (f : Frame) : List Byte :=
  match f.kind with
  | .data => etherBytes f.dst f.src f.etype f.payload
  | .service _ => f.wire radio

/-- The bytes of the frame a carrier frame was parsed from, less any padding (R185). -/
def CarrierFrame.bytes (c : CarrierFrame) : List Byte :=
  let r := c.radio.toNat
  match c.msg with
  | .data dst etype payload => dataBytes r c.station dst c.station etype payload
  | .join => serviceBytes r c.station 0x01 []
  | .part => serviceBytes r c.station 0x02 []
  | .release n => serviceBytes r c.station 0x03 (be 2 n.toNat)
  | .radioStatus k => serviceBytes r c.station 0x04 [k]
  | .scan code dir scanner => serviceBytes r c.station 0x05 (be 8 code.toNat ++ [dir, scanner])
  | .checkin code => serviceBytes r c.station 0x06 (be 8 code.toNat)
  | .cue reel mode start window => serviceBytes r c.station 0x07 ([reel, mode] ++ be 2 start.toNat ++ [window])
  | .halt => serviceBytes r c.station 0x08 []
  | .toRadio code body => serviceBytes r c.station code body

/-- The content of a reel frame (R187). -/
def ReelMsg.content : ReelMsg → List Byte
  | .segOpen reel seq len => [1, reel] ++ be 4 seq.toNat ++ be 4 len.toNat
  | .segData reel seq offset data => [2, reel] ++ be 4 seq.toNat ++ be 4 offset.toNat ++ be 2 data.length ++ data
  | .segClose reel seq => [3, reel] ++ be 4 seq.toNat

/-- The directive kinds, numbered 1 to 37 in the order of the summary table of chapter 11 (R189). -/
def Directive.kind : Directive → Half
  | .describe => 1
  | .setTime _ => 2
  | .counterRead _ _ _ _ => 3
  | .zoneRestart => 4
  | .mgmtFilter _ _ _ => 5
  | .radioConfig _ _ _ _ _ _ => 6
  | .radioState _ _ => 7
  | .radioReset _ => 8
  | .stationRead _ => 9
  | .stationPin _ => 10
  | .stationUnpin _ => 11
  | .clearFans => 12
  | .stationSettings _ _ _ _ _ => 13
  | .credLoad _ => 14
  | .credRead _ => 15
  | .credVoid _ => 16
  | .credEraseWay _ _ => 17
  | .admissionFreeze => 18
  | .eventClose => 19
  | .voidSweep _ _ => 20
  | .sweepSuspend => 21
  | .sweepResume => 22
  | .sweepStatus => 23
  | .clearRedemptions => 24
  | .reelConfig _ _ _ _ => 25
  | .reelReset _ => 26
  | .reelStatus _ _ _ => 27
  | .profileAccess _ => 28
  | .profileWrite _ => 29
  | .profileValidate => 30
  | .phaseSet _ => 31
  | .surgeSet _ => 32
  | .rateTable _ => 33
  | .errorRead _ => 34
  | .errorClear _ _ => 35
  | .errorConfig _ _ _ _ => 36
  | .noticeConfig _ _ _ _ _ => 37
  | .unknown k _ => k

/-- One load record: 20 bytes (R190). -/
def LoadRec.bytes (r : LoadRec) : List Byte :=
  be 8 r.code.toNat ++ [r.tier] ++ be 8 r.permit.toNat ++ [r.allowance, r.grant, r.home]

def StationRef.bytes : StationRef → List Byte
  | .address a => 1 :: be 6 a.toNat
  | .handle h => 2 :: be 2 h.toNat
  | .badForm form rest => form :: rest

def CredRef.bytes : CredRef → List Byte
  | .code c => 1 :: be 8 c.toNat
  | .position bucket way => 2 :: be 2 bucket.toNat ++ [way]
  | .badForm form rest => form :: rest

def ProfilePart.bytes : ProfilePart → List Byte
  | .group g base ceiling visitor replay debt =>
    BitVec.ofNat 8 g.val :: (be 2 base.toNat ++ be 2 ceiling.toNat ++ be 2 visitor.toNat ++ be 2 replay.toNat
      ++ be 2 debt.toNat)
  | .throttle surge cap enable => [8, surge, cap, enable]
  | .ramp c1 d1 c2 d2 c3 d3 => [9, c1] ++ be 2 d1.toNat ++ [c2] ++ be 2 d2.toNat ++ [c3] ++ be 2 d3.toNat
  | .timing overhead sealAge lag => 10 :: (be 2 overhead.toNat ++ be 2 sealAge.toNat ++ be 2 lag.toNat)
  | .badPart p rest => p :: rest

/-- A directive's body: its fields in the order its rule names them, each at its width (R190). -/
def Directive.body : Directive → List Byte
  | .describe => []
  | .setTime t => be 6 t.toNat
  | .counterRead group present index clear => [group, present, index, clear]
  | .zoneRestart => []
  | .mgmtFilter addrs present newAddr =>
    be 1 addrs.length ++ addrs.flatMap (fun a => be 6 a.toNat) ++ [present] ++ be 6 newAddr.toNat
  | .radioConfig radio role zone group port remove => [radio, role, zone, group, port, remove]
  | .radioState radio newState => [radio, newState]
  | .radioReset radio => [radio]
  | .stationRead ref => ref.bytes
  | .stationPin a => be 6 a.toNat
  | .stationUnpin a => be 6 a.toNat
  | .clearFans => []
  | .stationSettings a b c d e => be 2 a.toNat ++ be 2 b.toNat ++ be 2 c.toNat ++ be 2 d.toNat ++ be 2 e.toNat
  | .credLoad recs => be 1 recs.length ++ recs.flatMap LoadRec.bytes
  | .credRead ref => ref.bytes
  | .credVoid code => be 8 code.toNat
  | .credEraseWay bucket way => be 2 bucket.toNat ++ [way]
  | .admissionFreeze => []
  | .eventClose => []
  | .voidSweep kind value => [kind, value]
  | .sweepSuspend => []
  | .sweepResume => []
  | .sweepStatus => []
  | .clearRedemptions => []
  | .reelConfig reel first count remove => reel :: (be 2 first.toNat ++ be 2 count.toNat ++ [remove])
  | .reelReset reel => [reel]
  | .reelStatus reel present slot => [reel, present] ++ be 2 slot.toNat
  | .profileAccess ctx => [ctx]
  | .profileWrite part => part.bytes
  | .profileValidate => []
  | .phaseSet ctx => [ctx]
  | .surgeSet flag => [flag]
  | .rateTable rates => rates.flatMap (fun r => be 2 r.toNat)
  | .errorRead clear => [clear]
  | .errorClear classes record => be 2 classes.toNat ++ [record]
  | .errorConfig cls mask severity threshold => [cls, mask, severity] ++ be 2 threshold.toNat
  | .noticeConfig entry dest enable mask kinds => entry :: (be 6 dest.toNat ++ [enable, mask, kinds])
  | .unknown _ body => body

/-- The content of a directive frame: header and body, the status byte 0 (R189). -/
def directiveContent (tag : Half) (d : Directive) : List Byte :=
  be 2 d.kind.toNat ++ be 2 tag.toNat ++ [0] ++ be 2 d.body.length ++ d.body

/-- A frame of the uplink transmit FIFO as it leaves (R171, R182, R189). -/
def UplinkOut.bytes : UplinkOut → List Byte
  | .data f => etherBytes f.dst f.src f.etype f.payload
  | .reply dst src kind tag status body =>
    etherBytes dst src typeManagement
      (be 2 kind.toNat ++ be 2 tag.toNat ++ be 1 status.code ++ be 2 body.length ++ body)
  | .notice dst src kind count body =>
    etherBytes dst src typeManagement
      ([0, 0] ++ be 1 kind.code ++ be 4 count.toNat ++ be 2 body.length ++ body)

/-- The first 32 bytes of a frame; a shorter one is kept whole (R178). -/
def first32 (l : List Byte) : List Byte := l.take 32

end Sys2Proof.Machine
end

