-- ==== Sys2Proof/Decode.lean ====
section
/-! DEFINITION. Reading frames: the format checks of R186 and R188, directive bodies (R189, R190), and the host's table
words. No row of spec/opcode_table.json gives bits, so no word spells a command. -/

namespace Sys2Proof.Machine

/-- The number in the `n` bytes at offset `at_`. -/
def fieldAt (b : List Byte) (at_ n : Nat) : Nat := beVal ((b.drop at_).take n)

def u8 (b : List Byte) (at_ : Nat) : Byte := b.getD at_ 0
def u16 (b : List Byte) (at_ : Nat) : Half := BitVec.ofNat 16 (fieldAt b at_ 2)
def u32 (b : List Byte) (at_ : Nat) : Word32 := BitVec.ofNat 32 (fieldAt b at_ 4)
def u48 (b : List Byte) (at_ : Nat) : Addr := BitVec.ofNat 48 (fieldAt b at_ 6)
def u64 (b : List Byte) (at_ : Nat) : Word64 := BitVec.ofNat 64 (fieldAt b at_ 8)

/-- The body length each message kind requires (R185); none for a code that is no message kind. -/
def serviceLength : Nat → Option Nat
  | 0x01 => some 0
  | 0x02 => some 0
  | 0x03 => some 2
  | 0x04 => some 1
  | 0x05 => some 10
  | 0x06 => some 8
  | 0x07 => some 5
  | 0x08 => some 0
  | 0x10 => some 0
  | 0x11 => some 0
  | 0x12 => some 18
  | 0x13 => some 1
  | 0x14 => some 7
  | _ => none

/-- The message a SERVICE frame of a known kind and right length carries (R185). -/
def serviceMsg (code : Byte) (b : List Byte) : CarrierMsg :=
  match code.toNat with
  | 0x01 => .join
  | 0x02 => .part
  | 0x03 => .release (u16 b 0)
  | 0x04 => .radioStatus (u8 b 0)
  | 0x05 => .scan (u64 b 0) (u8 b 8) (u8 b 9)
  | 0x06 => .checkin (u64 b 0)
  | 0x07 => .cue (u8 b 0) (u8 b 1) (u16 b 2) (u8 b 4)
  | 0x08 => .halt
  | _ => .toRadio code b

/-- The format checks of R186 on a frame from a downlink port, and the frame read. Bytes beyond the length the header
gives are padding (R186; log entry 11). -/
def parseCarrier (l : List Byte) : Option CarrierFrame :=
  if l.length < 12 then none
  else
    let kind := u8 l 1
    let len := fieldAt l 10 2
    let body := (l.drop 12).take len
    if u8 l 9 ≠ 1 ∨ (l.drop 12).length < len then none
    else if kind = 1 then
      if 15 ≤ len ∧ len ≤ 1514 ∧ u48 body 6 = u48 l 2 then
        some ⟨u8 l 0, u48 l 2, .data (u48 body 0) (u16 body 12) (body.drop 14)⟩
      else none
    else if kind = 2 then
      if serviceLength (u8 l 8).toNat = some len then some ⟨u8 l 0, u48 l 2, serviceMsg (u8 l 8) body⟩ else none
    else none

/-- The format checks of R188 on the content of a frame to the ingest address, and the frame read. -/
def parseReel (etype : Half) (b : List Byte) : Option ReelMsg :=
  if etype ≠ typeReel then none
  else if u8 b 0 = 1 then
    if b.length < 10 then none else some (.segOpen (u8 b 1) (u32 b 2) (u32 b 6))
  else if u8 b 0 = 2 then
    let n := fieldAt b 10 2
    if b.length < 12 ∨ b.length < 12 + n ∨ n = 0 ∨ Config.frameData < n then none
    else some (.segData (u8 b 1) (u32 b 2) (u32 b 6) ((b.drop 12).take n))
  else if u8 b 0 = 3 then
    if b.length < 6 then none else some (.segClose (u8 b 1) (u32 b 2))
  else none

/-- `n` addresses of 6 bytes each. -/
def parseAddrs : Nat → List Byte → List Addr
  | 0, _ => []
  | n + 1, b => u48 b 0 :: parseAddrs n (b.drop 6)

/-- `n` load records of 20 bytes each (R190). -/
def parseLoads : Nat → List Byte → List LoadRec
  | 0, _ => []
  | n + 1, b => ⟨u64 b 0, u8 b 8, u64 b 9, u8 b 17, u8 b 18, u8 b 19⟩ :: parseLoads n (b.drop 20)

/-- `n` values of 2 bytes each. -/
def parseHalves : Nat → List Byte → List Half
  | 0, _ => []
  | n + 1, b => u16 b 0 :: parseHalves n (b.drop 2)

/-- The reference a STATION_READ body holds, by its form byte; none where the length is not the form's (R190). -/
def parseStationRef (b : List Byte) : Option StationRef :=
  match b with
  | [] => none
  | form :: rest =>
    if form = 1 then (if rest.length = 6 then some (.address (u48 rest 0)) else none)
    else if form = 2 then (if rest.length = 2 then some (.handle (u16 rest 0)) else none)
    else some (.badForm form rest)

/-- The reference a CRED_READ body holds (R190). -/
def parseCredRef (b : List Byte) : Option CredRef :=
  match b with
  | [] => none
  | form :: rest =>
    if form = 1 then (if rest.length = 8 then some (.code (u64 rest 0)) else none)
    else if form = 2 then (if rest.length = 3 then some (.position (u16 rest 0) (u8 rest 2)) else none)
    else some (.badForm form rest)

/-- The part and values a PROFILE_WRITE body holds (R79, R190). -/
def parseProfilePart (b : List Byte) : Option ProfilePart :=
  match b with
  | [] => none
  | p :: r =>
    if h : p.toNat < 8 then
      if r.length = 10 then some (.group ⟨p.toNat, h⟩ (u16 r 0) (u16 r 2) (u16 r 4) (u16 r 6) (u16 r 8)) else none
    else if p = 8 then
      if r.length = 3 then some (.throttle (u8 r 0) (u8 r 1) (u8 r 2)) else none
    else if p = 9 then
      if r.length = 9 then some (.ramp (u8 r 0) (u16 r 1) (u8 r 3) (u16 r 4) (u8 r 6) (u16 r 7)) else none
    else if p = 10 then
      if r.length = 6 then some (.timing (u16 r 0) (u16 r 2) (u16 r 4)) else none
    else some (.badPart p r)

/-- The directive of a kind and a body of exactly the bytes the header counts; `unknown` where the kind is not 1 to 37 or
the length is not the kind's (R189, R190). -/
def parseDirective (k : Half) (b : List Byte) : Directive :=
  let no := Directive.unknown k b
  let n := b.length
  match k.toNat with
  | 1 => if n = 0 then .describe else no
  | 2 => if n = 6 then .setTime (u48 b 0) else no
  | 3 => if n = 4 then .counterRead (u8 b 0) (u8 b 1) (u8 b 2) (u8 b 3) else no
  | 4 => if n = 0 then .zoneRestart else no
  | 5 =>
    let c := (u8 b 0).toNat
    if n = 8 + 6 * c then
      .mgmtFilter (parseAddrs c (b.drop 1)) (u8 b (1 + 6 * c)) (u48 b (2 + 6 * c))
    else no
  | 6 => if n = 6 then .radioConfig (u8 b 0) (u8 b 1) (u8 b 2) (u8 b 3) (u8 b 4) (u8 b 5) else no
  | 7 => if n = 2 then .radioState (u8 b 0) (u8 b 1) else no
  | 8 => if n = 1 then .radioReset (u8 b 0) else no
  | 9 => match parseStationRef b with
    | some r => .stationRead r
    | none => no
  | 10 => if n = 6 then .stationPin (u48 b 0) else no
  | 11 => if n = 6 then .stationUnpin (u48 b 0) else no
  | 12 => if n = 0 then .clearFans else no
  | 13 => if n = 10 then .stationSettings (u16 b 0) (u16 b 2) (u16 b 4) (u16 b 6) (u16 b 8) else no
  | 14 =>
    let c := (u8 b 0).toNat
    if n = 1 + 20 * c then .credLoad (parseLoads c (b.drop 1)) else no
  | 15 => match parseCredRef b with
    | some r => .credRead r
    | none => no
  | 16 => if n = 8 then .credVoid (u64 b 0) else no
  | 17 => if n = 3 then .credEraseWay (u16 b 0) (u8 b 2) else no
  | 18 => if n = 0 then .admissionFreeze else no
  | 19 => if n = 0 then .eventClose else no
  | 20 => if n = 2 then .voidSweep (u8 b 0) (u8 b 1) else no
  | 21 => if n = 0 then .sweepSuspend else no
  | 22 => if n = 0 then .sweepResume else no
  | 23 => if n = 0 then .sweepStatus else no
  | 24 => if n = 0 then .clearRedemptions else no
  | 25 => if n = 6 then .reelConfig (u8 b 0) (u16 b 1) (u16 b 3) (u8 b 5) else no
  | 26 => if n = 1 then .reelReset (u8 b 0) else no
  | 27 => if n = 4 then .reelStatus (u8 b 0) (u8 b 1) (u16 b 2) else no
  | 28 => if n = 1 then .profileAccess (u8 b 0) else no
  | 29 => match parseProfilePart b with
    | some p => .profileWrite p
    | none => no
  | 30 => if n = 0 then .profileValidate else no
  | 31 => if n = 1 then .phaseSet (u8 b 0) else no
  | 32 => if n = 1 then .surgeSet (u8 b 0) else no
  | 33 => if n = 32 then .rateTable (parseHalves 16 b) else no
  | 34 => if n = 1 then .errorRead (u8 b 0) else no
  | 35 => if n = 3 then .errorClear (u16 b 0) (u8 b 2) else no
  | 36 => if n = 5 then .errorConfig (u8 b 0) (u8 b 1) (u8 b 2) (u16 b 3) else no
  | 37 => if n = 10 then .noticeConfig (u8 b 0) (u48 b 1) (u8 b 7) (u8 b 8) (u8 b 9) else no
  | _ => no

end Sys2Proof.Machine

namespace Sys2Proof

/-- The command a table word spells. No row of spec/opcode_table.json gives a row any bits, so no word spells one. -/
def decodeTableWord (_nbits _w : Nat) : Option Instr := none

end Sys2Proof
end

