-- ==== Sys2Proof/Machine/Ops.lean ====
section
/-! DEFINITION. The named operations every block uses: saturating counters, venue time, reading and writing records, the
address index, asking a port's arbiter, and the uplink transmit FIFO. -/

namespace Sys2Proof.Machine

/-- An event counter rises by `n` and saturates at its maximum (00_scope.md, Conventions; R174). -/
def bumpBy (c : Ctr) (n : Nat) : Ctr := BitVec.ofNat 32 (min (c.toNat + n) (2 ^ 32 - 1))

/-- An event counter rises by 1. -/
def bump (c : Ctr) : Ctr := bumpBy c 1

/-- Inserts before the first element that `lt` puts after it. -/
def insertBy {α : Type} (lt : α → α → Bool) (a : α) : List α → List α
  | [] => [a]
  | b :: l => if lt a b then a :: b :: l else b :: insertBy lt a l

/-- Sorts by insertion; equal elements keep their order. -/
def sortBy {α : Type} (lt : α → α → Bool) (l : List α) : List α := l.foldl (fun acc a => insertBy lt a acc) []

/-! ### Venue time (R173) -/

/-- A duration in µs as a venue-time difference. -/
def usec (n : Nat) : Time := BitVec.ofNat 48 n

/-- The difference of two venue-time values, modulo 2^48 (R173). -/
def elapsed (now since : Time) : Nat := (now - since).toNat

/-- A deadline that lies at or before `now`, a difference of half the range or more counting as past (R49; log entry 10). -/
def reached (now deadline : Time) : Bool := decide ((deadline - now).toInt ≤ 0)

/-- A past time moved by SET_TIME from `old` to `new` venue time: below 0 it is stored as 0, above 2^48 − 1 modulo 2^48
(R173; log entry 31). -/
def moveTime (old new v : Time) : Time :=
  if v.toNat + new.toNat < old.toNat then 0 else BitVec.ofNat 48 (v.toNat + new.toNat - old.toNat)

/-- A deadline moved by SET_TIME from `old` to `new` venue time: the time remaining to it is kept, the sum being modulo 2^48
(R24, R173; log entry 31). -/
def moveDeadline (old new v : Time) : Time := v + (new - old)

/-! ### Records -/

def State.radio (s : State) (r : Nat) : Radio := s.radios.get {} r

def State.setRadio (s : State) (r : Nat) (v : Radio) : State := { s with radios := s.radios.set {} r v }

def State.modRadio (s : State) (r : Nat) (f : Radio → Radio) : State := s.setRadio r (f (s.radio r))

def State.port (s : State) (p : Nat) : Port := s.ports.get {} p

def State.setPort (s : State) (p : Nat) (v : Port) : State := { s with ports := s.ports.set {} p v }

def State.modPortCtrs (s : State) (p : Nat) (f : PortCtrs → PortCtrs) : State :=
  s.setPort p { s.port p with ctrs := f (s.port p).ctrs }

def State.station (s : State) (h : Nat) : Option Station := s.stations.find h

def State.setStation (s : State) (h : Nat) (v : Station) : State := { s with stations := s.stations.put h v }

/-- Changes the record at a handle, if there is one. -/
def State.modStation (s : State) (h : Nat) (f : Station → Station) : State :=
  match s.station h with
  | some st => s.setStation h (f st)
  | none => s

def State.delStation (s : State) (h : Nat) : State := { s with stations := s.stations.del h }

def State.modStationCtrs (s : State) (f : StationCtrs → StationCtrs) : State :=
  { s with stationCtrs := f s.stationCtrs }

def State.modRoam (s : State) (f : Roam → Roam) : State := { s with roam := f s.roam }

def State.modRoamCtrs (s : State) (f : RoamCtrs → RoamCtrs) : State :=
  { s with roam := { s.roam with ctrs := f s.roam.ctrs } }

def State.modUplinkCtrs (s : State) (f : UplinkCtrs → UplinkCtrs) : State :=
  { s with uplink := { s.uplink with ctrs := f s.uplink.ctrs } }

def State.modAdm (s : State) (f : Admission → Admission) : State := { s with adm := f s.adm }

def State.modAdmCtrs (s : State) (f : AdmCtrs → AdmCtrs) : State :=
  { s with adm := { s.adm with ctrs := f s.adm.ctrs } }

def State.modSweep (s : State) (f : Sweep → Sweep) : State :=
  { s with adm := { s.adm with sweep := f s.adm.sweep } }

def State.entry (s : State) (p : Nat) : MapEntry := s.adm.map.get {} p

def State.setEntry (s : State) (p : Nat) (e : MapEntry) : State :=
  { s with adm := { s.adm with map := s.adm.map.set {} p e } }

def State.occupancy (s : State) (z : Nat) : Nat := s.adm.occupancy.get 0 z

def State.setOccupancy (s : State) (z n : Nat) : State :=
  { s with adm := { s.adm with occupancy := s.adm.occupancy.set 0 z n } }

def State.modReplay (s : State) (f : Replay → Replay) : State := { s with replay := f s.replay }

def State.modReplayCtrs (s : State) (f : ReplayCtrs → ReplayCtrs) : State :=
  { s with replay := { s.replay with ctrs := f s.replay.ctrs } }

def State.reel (s : State) (r : Nat) : Reel := s.replay.reels.get {} r

def State.setReel (s : State) (r : Nat) (v : Reel) : State :=
  { s with replay := { s.replay with reels := s.replay.reels.set {} r v } }

def State.modReelCfg (s : State) (r : Nat) (f : ReelCfg → ReelCfg) : State :=
  s.setReel r { s.reel r with cfg := (s.reel r).cfg.map f }

def State.modReelCtrs (s : State) (r : Nat) (f : ReelCtrs → ReelCtrs) : State :=
  s.setReel r { s.reel r with ctrs := f (s.reel r).ctrs }

def State.slot (s : State) (n : Nat) : Slot := s.replay.slots.get {} n

def State.setSlot (s : State) (n : Nat) (v : Slot) : State :=
  { s with replay := { s.replay with slots := s.replay.slots.set {} n v } }

def State.delivery (s : State) (d : Nat) : Option Delivery := s.replay.deliveries.find d

def State.setDelivery (s : State) (d : Nat) (v : Delivery) : State :=
  { s with replay := { s.replay with deliveries := s.replay.deliveries.put d v } }

def State.waitList (s : State) (r : Nat) : List Nat := s.replay.waiting.get [] r

def State.setWaitList (s : State) (r : Nat) (l : List Nat) : State :=
  { s with replay := { s.replay with waiting := s.replay.waiting.set [] r l } }

def State.lists (s : State) (r : Nat) : RadioLists := s.egress.lists.get {} r

def State.setLists (s : State) (r : Nat) (l : RadioLists) : State :=
  { s with egress := { s.egress with lists := s.egress.lists.set {} r l } }

def RadioLists.of (l : RadioLists) : Cls → List Burst
  | .admission => l.admission
  | .fan => l.fan
  | .visitor => l.visitor
  | .replay => l.replay

def RadioLists.with (l : RadioLists) (c : Cls) (b : List Burst) : RadioLists :=
  match c with
  | .admission => { l with admission := b }
  | .fan => { l with fan := b }
  | .visitor => { l with visitor := b }
  | .replay => { l with replay := b }

def State.list (s : State) (r : Nat) (c : Cls) : List Burst := (s.lists r).of c

def State.setList (s : State) (r : Nat) (c : Cls) (b : List Burst) : State := s.setLists r ((s.lists r).with c b)

/-! ### The address index (R3) -/

/-- A group address: the lowest bit of its first byte is 1 (R6). -/
def isGroup (a : Addr) : Bool := a.getLsbD 40

/-- A group address or all zeros. -/
def noStation (a : Addr) : Bool := isGroup a || a = 0

/-- The bucket of an address: its three 16-bit parts combined by exclusive-or, modulo 2,048 (R3). -/
def addrBucket (a : Addr) : Nat :=
  ((a.extractLsb' 32 16) ^^^ (a.extractLsb' 16 16) ^^^ (a.extractLsb' 0 16)).toNat % Config.stationBuckets

/-- The four handles of an address's bucket, way 0 first. -/
def addrHandles (a : Addr) : List Nat := (List.range 4).map (fun w => addrBucket a * 4 + w)

/-- The handle of the record that holds an address, if one does (R3). -/
def State.lookup (s : State) (a : Addr) : Option Nat :=
  (addrHandles a).find? (fun h => match s.station h with
    | some st => st.addr = a
    | none => false)

/-- The handle of the lowest free way of an address's bucket (R3). -/
def State.freeHandle (s : State) (a : Addr) : Option Nat :=
  (addrHandles a).find? (fun h => (s.station h).isNone)

/-- The bucket of a credential code: its two halves combined by exclusive-or, modulo 16,384 (R86). -/
def credBucket (c : Word64) : Nat :=
  ((c.extractLsb' 0 32) ^^^ (c.extractLsb' 32 32)).toNat % Config.credBuckets

/-- Zone `z` is in a permit set: bit z mod 8 of byte z div 8, byte 0 the first of the field, which is the most significant
(R13, R184, R190; log entry 13). -/
def permits (set : Word64) (z : Nat) : Bool := decide (z < 64) && set.getLsbD (8 * (7 - z / 8) + z % 8)

/-- Frames of all hold queues: the hold pool's places in use (R26). -/
def State.holdUsed (s : State) : Nat := (s.stations.map (fun e => e.2.hold.length)).sum

/-- Pinned records (R11). -/
def State.pinnedCount (s : State) : Nat := (s.stations.filter (fun e => e.2.pinned)).length

/-- The linger time in µs (R8, R25). -/
def State.lingerUs (s : State) : Time := usec (s.roam.settings.lingerS * 1000000)

/-! ### Ports and the event's bookkeeping -/

/-- A radio is IN_SERVICE. -/
def State.inService (s : State) (r : Nat) : Bool := decide ((s.radio r).state = .inService)

/-- Asks the arbiter of a port to run when the event is done (R53; log entry 7). -/
def State.askPort (s : State) (p : Nat) : State :=
  if s.ev.ask.contains p then s else { s with ev := { s.ev with ask := s.ev.ask ++ [p] } }

/-- Asks the arbiter of the port a radio is configured on. -/
def State.askRadio (s : State) (r : Nat) : State :=
  match (s.radio r).cfg with
  | some c => s.askPort c.port
  | none => s

/-- Asks all four arbiters (R76, R82). -/
def State.askAll (s : State) : State := (((s.askPort 0).askPort 1).askPort 2).askPort 3

/-- Notes that room was freed, to be announced (R57). -/
def State.freedRoom (s : State) : State := { s with ev := { s.ev with roomFreed := true } }

/-- Notes that a fetch slot is to be looked for (R92). -/
def State.lookForSlot (s : State) : State := { s with ev := { s.ev with look := true } }

/-- A frame joins the uplink transmit FIFO (R171). -/
def State.sendUplink (s : State) (o : UplinkOut) : State := { s with uplink := { s.uplink with tx := s.uplink.tx ++ [o] } }

/-- The ingest address: the factory address plus 1 (R131). -/
def State.ingestAddr (s : State) : Addr := s.factory + 1

end Sys2Proof.Machine
end

