-- ==== Sys2Proof/Machine/Operands.lean ====
section
/-! DEFINITION. The operand forms of messages and directives: which value each byte of a body names (R185, R190), and
which values lie outside their range. -/

namespace Sys2Proof.Machine

/-- A set or clear flag, or a presence byte: 0 or 1, anything else out of range (R190 for presence bytes; log entry 34 for
flags). -/
def flagOf (b : Byte) : Option Bool := if b = 0 then some false else if b = 1 then some true else none

/-- A flag that may be given as KEEP, all ones: `some none` keeps it (R190). -/
def keepFlagOf (b : Byte) : Option (Option Bool) := if b = 0xFF then some none else (flagOf b).map some

def roleOf (b : Byte) : Option Role :=
  match b.toNat with
  | 1 => some .seat | 2 => some .concourse | 3 => some .gateIn | 4 => some .gateOut | 5 => some .gateBoth
  | _ => none

def tierOf (b : Byte) : Option Tier :=
  match b.toNat with
  | 1 => some .general | 2 => some .premium | 3 => some .staff
  | _ => none

def phaseOf (b : Byte) : Option Phase :=
  match b.toNat with
  | 1 => some .play | 2 => some .brk
  | _ => none

def directionOf (b : Byte) : Option Direction :=
  match b.toNat with
  | 1 => some .entry | 2 => some .exit
  | _ => none

def modeOf (b : Byte) : Option Mode :=
  match b.toNat with
  | 1 => some .one | 2 => some .follow | 3 => some .loop
  | _ => none

/-- The state RADIO_STATE carries: 1 IN_SERVICE, 2 DISABLED, as R19 lists them (log entry 40); true for IN_SERVICE. -/
def newStateOf (b : Byte) : Option Bool :=
  match b.toNat with
  | 1 => some true | 2 => some false
  | _ => none

/-- A severity, 1 LOGGED or 2 QUARANTINE, or KEEP (R177, R180); true for QUARANTINE. -/
def severityOf (b : Byte) : Option (Option Bool) :=
  match b.toNat with
  | 1 => some (some false) | 2 => some (some true) | 255 => some none
  | _ => none

/-- A sweep's selector: kind 1 ZONE, 2 TIER or 3 ALL, then its value (R106, R107). ALL carries a value byte too, which is not
looked at (log entry 35). -/
def selectorOf (kind value : Byte) : Option Selector :=
  match kind.toNat with
  | 1 => if value.toNat < 64 then some (.zone value.toNat) else none
  | 2 => (tierOf value).map .tier
  | 3 => some .all
  | _ => none

/-- The window size a LOOP CUE's window code gives (R144). -/
def windowOf (b : Byte) : Option Nat :=
  match b.toNat with
  | 0 => some 6 | 1 => some 12 | 2 => some 24 | 3 => some 48
  | _ => none

/-- Where a CUE starts: 0 NEWEST, otherwise 1 to 1,023 segments back (R144, R185); 0 stands for NEWEST. -/
def startOf (h : Half) : Option Nat := if h.toNat ≤ 1023 then some h.toNat else none

/-- The class an error class number names (R177). -/
def errClassOf (n : Nat) : Option ErrClass := ErrClass.all.find? (fun c => c.code = n)

/-- A load record's fields in their ranges (R95): code, tier, allowance, home; and the replay grant a flag of 0 or 1, which R95
does not name (log entry 34). -/
def LoadRec.valid (r : LoadRec) : Bool :=
  r.code ≠ 0 && (tierOf r.tier).isSome && decide (r.allowance.toNat ≤ 7) && (flagOf r.grant).isSome
    && decide (r.home.toNat ≤ 63)

/-- The tier a load record carries; the records of an accepted CRED_LOAD carry one of the three (R95). -/
def LoadRec.tierVal (r : LoadRec) : Tier := (tierOf r.tier).getD .general

/-- The role of a radio allows a scan direction (R93). -/
def Role.allows : Role → Direction → Bool
  | .gateIn, .entry => true
  | .gateOut, .exit => true
  | .gateBoth, _ => true
  | _, _ => false

/-- A gate role (R104). -/
def Role.isGate : Role → Bool
  | .gateIn | .gateOut | .gateBoth => true
  | _ => false

/-- A non-zero setting value lies outside its range (R25). -/
def settingBad (v : Half) (lo hi : Nat) : Bool := v ≠ 0 && (decide (v.toNat < lo) || decide (hi < v.toNat))

/-- A setting with a value of 0 keeps what it holds (R25). -/
def settingNew (v : Half) (old : Nat) : Nat := if v = 0 then old else v.toNat

end Sys2Proof.Machine
end

