-- ==== Sys2Proof/Machine/Flags.lean ====
section
/-! DEFINITION. Status flags and notices (12_errors_quarantine_and_notices.md): an occurrence without its strike (R178
steps 1 to 4), and the notice table (R182). -/

namespace Sys2Proof.Machine

/-- The entry a notice kind goes to after cold reset: ERROR 0 to INGEST_DONE 7 (R182). -/
def NoticeKind.home (k : NoticeKind) : Nat := k.code - 1

/-- The entry a notice kind maps to now (R182). -/
def State.noticeEntryOf (s : State) (k : NoticeKind) : Nat := (s.err.mapping.find k.code).getD k.home

def State.noticeEntry (s : State) (n : Nat) : NoticeEntry := s.err.entries.get {} n

def State.setNoticeEntry (s : State) (n : Nat) (e : NoticeEntry) : State :=
  { s with err := { s.err with entries := s.err.entries.set {} n e } }

/-- A notice frame goes to the uplink transmit FIFO, with the management address in force as its source (R182). -/
def State.sendNotice (s : State) (dst : Addr) (k : NoticeKind) (count : Ctr) (body : List Byte) : State :=
  s.sendUplink (.notice dst s.mgmt.address k count body)

/-- A notice is taken by the entry of its kind: discarded, held or sent (R182). DESIGN CHOICE (log entry 45): a pending count
stays at 4,294,967,295. -/
def notice (k : NoticeKind) (body : List Byte) (s : State) : State :=
  let n := s.noticeEntryOf k
  let e := s.noticeEntry n
  if e.enable = false then s.setNoticeEntry n { e with discarded := bump e.discarded }
  else if e.mask then
    let count := match e.held with
      | some h => bump h.count
      | none => 1
    s.setNoticeEntry n { e with held := some ⟨count, k, body⟩ }
  else (s.setNoticeEntry n { e with sent := bump e.sent }).sendNotice e.dest k 1 body

/-- What the unit holds for a class (R177). -/
def State.errState (s : State) (c : ErrClass) : ErrState := s.err.classes.get {} c.code

def State.setErrState (s : State) (c : ErrClass) (v : ErrState) : State :=
  { s with err := { s.err with classes := s.err.classes.set {} c.code v } }

/-- The ERROR notice's body: class, radio, station handle, bucket and way when named, venue time, occurrence counter
(R178). -/
def errorBody (o : Occurrence) (now : Time) (count : Ctr) : List Byte :=
  be 1 o.cls.code ++ optField 1 o.radio ++ optField 2 o.handle ++ optField 2 (o.place.map Prod.fst)
    ++ optField 1 (o.place.map Prod.snd) ++ be 6 now.toNat ++ be 4 count.toNat

/-- The first-error record takes an unmasked occurrence: filled when invalid, else its overflow flag is set (R178 step 3). -/
def recordFirst (o : Occurrence) (s : State) : State :=
  match s.err.first with
  | none => { s with err := { s.err with first := some ⟨{ o with frame := o.frame.map first32 }, s.venueTime⟩ } }
  | some _ => { s with err := { s.err with overflow := true } }

/-- Steps 1 to 4 of R178. -/
def takeOccurrence (o : Occurrence) (s : State) : State :=
  let e := s.errState o.cls
  let count := bump e.count
  let s1 := s.setErrState o.cls { e with status := true, count := count }
  if e.masked then s1
  else notice .error (errorBody o s1.venueTime count) (recordFirst o s1)

/-- An occurrence that charges no strike. Within a quarantine it is taken after the quarantine has been made (R179). -/
def occur (o : Occurrence) (s : State) : State :=
  if s.ev.deferring then { s with ev := { s.ev with deferred := s.ev.deferred ++ [o] } }
  else takeOccurrence o s

end Sys2Proof.Machine
end

