-- ==== Sys2Proof/Machine/Airtime.lean ====
section
/-! DEFINITION. The airtime governor's arithmetic (04_airtime_governor.md): thresholds, refill, cost, wake times, the
throttle, the release ramp and the phase change. -/

namespace Sys2Proof.Machine

/-! ### Contexts (R77) -/

def Context.group (c : Context) : Nat → GroupRec
  | 0 => c.g0 | 1 => c.g1 | 2 => c.g2 | 3 => c.g3 | 4 => c.g4 | 5 => c.g5 | 6 => c.g6 | _ => c.g7

def Context.setGroup (c : Context) (n : Nat) (g : GroupRec) : Context :=
  match n with
  | 0 => { c with g0 := g } | 1 => { c with g1 := g } | 2 => { c with g2 := g } | 3 => { c with g3 := g }
  | 4 => { c with g4 := g } | 5 => { c with g5 := g } | 6 => { c with g6 := g } | _ => { c with g7 := g }

/-- Ramp stage 1, 2 or 3. -/
def Context.stage (c : Context) : Nat → Stage
  | 1 => c.stage1 | 2 => c.stage2 | _ => c.stage3

def Governor.ctx (g : Governor) : Phase → Context
  | .play => g.play
  | .brk => g.brk

def Governor.setCtx (g : Governor) (p : Phase) (c : Context) : Governor :=
  match p with
  | .play => { g with play := c }
  | .brk => { g with brk := c }

/-- The active context (R77). -/
def Governor.activeCtx (g : Governor) : Context := g.ctx g.active

def State.modGov (s : State) (f : Governor → Governor) : State := { s with gov := f s.gov }

def State.modGovCtrs (s : State) (f : GovCtrs → GovCtrs) : State :=
  { s with gov := { s.gov with ctrs := f s.gov.ctrs } }

/-! ### The throttle (R72) -/

/-- The percentage of a throttle code (R72). A VALID context holds codes 0 to 7 only (R80). -/
def percent (code : Byte) : Nat := [0, 20, 30, 45, 60, 70, 80, 90].getD code.toNat 0

/-- The cap part (R72). -/
def Governor.capPart (g : Governor) : Nat := if g.activeCtx.capEnable = 1 then percent g.activeCtx.capCode else 0

/-- The surge part (R72). -/
def Governor.surgePart (g : Governor) : Nat :=
  match g.surge with
  | .off => 0
  | .on => percent g.activeCtx.surgeCode
  | .ramping k _ => percent (g.activeCtx.stage k).code

/-- The effective throttle percentage p: the larger of the two parts (R72). -/
def Governor.throttle (g : Governor) : Nat := max g.surgePart g.capPart

/-! ### One radio's credit -/

/-- The group record of a radio in the active context (R77). -/
def Governor.groupOf (g : Governor) (r : Radio) : GroupRec :=
  g.activeCtx.group ((r.cfg.map RadioCfg.group).getD 0)

/-- The effective allowance of a radio under percentage p (R66 step 2). -/
def Governor.eff (g : Governor) (r : Radio) : Nat := (g.groupOf r).base.toNat * (100 - g.throttle) / 100

/-- The threshold of a class (R68). -/
def GroupRec.threshold (g : GroupRec) : Cls → Int
  | .admission => - (g.debt.toNat : Int)
  | .fan => 0
  | .visitor => g.visitor.toNat
  | .replay => g.replay.toNat

/-- A class is allowed while the credit is strictly greater than its threshold (R68). -/
def Governor.allows (g : Governor) (r : Radio) (c : Cls) : Bool := decide ((g.groupOf r).threshold c < r.credit)

/-- A refill brings a radio's credit up to `now` (R66). -/
def Governor.refill (g : Governor) (now : Time) (r : Radio) : Radio :=
  let dt := min (elapsed now r.lastRefill) 1000000
  let total := dt * g.eff r + r.remainder
  let credit := r.credit + (total / 1000 : Nat)
  let ceiling : Int := (g.groupOf r).ceiling.toNat
  if ceiling < credit then { r with credit := ceiling, remainder := 0, lastRefill := now }
  else { r with credit := credit, remainder := total % 1000, lastRefill := now }

/-- The cost of a burst of `bytes` bytes (R64): the overhead plus the airtime, rounded up to a whole µs. -/
def Governor.cost (g : Governor) (r : Radio) (bytes : Nat) : Nat :=
  let rate := g.rates.getD r.rate 1
  g.activeCtx.overhead.toNat + (bytes * 8 + rate - 1) / rate

/-- The dispatch counter of a class (R65). -/
def RadioGovCtrs.dispatched (k : RadioGovCtrs) : Cls → RadioGovCtrs
  | .admission => { k with dispAdmission := bump k.dispAdmission }
  | .fan => { k with dispFan := bump k.dispFan }
  | .visitor => { k with dispVisitor := bump k.dispVisitor }
  | .replay => { k with dispReplay := bump k.dispReplay }

/-- The cost is subtracted from the credit, not below −131,071, and counted (R65). -/
def Governor.charge (g : Governor) (c : Cls) (bytes : Nat) (r : Radio) : Radio :=
  let cost := g.cost r bytes
  { r with
    credit := max (r.credit - cost) (-131071)
    gov := { r.gov with airtime := bumpBy r.gov.airtime cost }.dispatched c }

/-- The lowest threshold of a set of classes; 0 of the empty set. -/
def GroupRec.lowest (g : GroupRec) : List Cls → Int
  | [] => 0
  | [c] => g.threshold c
  | c :: cs => min (g.threshold c) (GroupRec.lowest g cs)

/-- The wake time for a set of classes that are not allowed (R70): none for the empty set or while eff is 0, else when the
credit is expected to pass the lowest threshold, at most 1,000,000 µs from now. -/
def Governor.wakeFor (g : Governor) (now : Time) (r : Radio) (set : List Cls) : Option Time :=
  let eff := g.eff r
  if set = [] ∨ eff = 0 then none
  else
    let needed := ((g.groupOf r).lowest set + 1 - r.credit).toNat
    let wait := (needed * 1000 - r.remainder + eff - 1) / eff
    some (now + usec (min wait 1000000))

/-- The waiting classes and the wake time at the end of a grant decision (R70): of the classes given, those the present
credit does not allow. -/
def Governor.setWaiting (g : Governor) (now : Time) (classes : List Cls) (r : Radio) : Radio :=
  let set := classes.filter (fun c => !g.allows r c)
  { r with waiting := set, wake := g.wakeFor now r set }

/-- The wake time of a radio that has waiting classes, set afresh at a change of p (R76 step 3): removed when the credit now
allows one of them. -/
def Governor.rewake (g : Governor) (now : Time) (r : Radio) : Radio :=
  if r.waiting = [] then r
  else if r.waiting.any (g.allows r) then { r with wake := none }
  else { r with wake := g.wakeFor now r r.waiting }

/-- The waiting classes and the wake time of a radio that has waiting classes, set as R70 describes at a phase change (R82
step 5): a class the credit now allows leaves the set (log entry 26). -/
def Governor.rewait (g : Governor) (now : Time) (r : Radio) : Radio :=
  if r.waiting = [] then r else g.setWaiting now r.waiting r

/-- Changes every radio that is not ABSENT. -/
def State.modPresentRadios (s : State) (f : Radio → Radio) : State :=
  { s with radios := s.radios.mapVals {} (fun r => if r.state = .absent then r else f r) }

/-- A grant request naming a radio and the classes of its eligible heads (R69, R51): refill, then the first class allowed
in the order of priority; no class raises the withheld counter and sets the waiting classes. -/
def grantRequest (r : Nat) (classes : List Cls) (s : State) : Option Cls × State :=
  let radio := s.gov.refill s.venueTime (s.radio r)
  match classes.find? (s.gov.allows radio) with
  | some c => (some c, s.setRadio r radio)
  | none =>
    let counted := { radio with gov := { radio.gov with withheld := bump radio.gov.withheld } }
    (none, s.setRadio r (s.gov.setWaiting s.venueTime classes counted))

/-- The governor's part of a dispatch (R65): charge, then waiting classes and wake time from the other classes named. -/
def chargeDispatch (r : Nat) (classes : List Cls) (c : Cls) (bytes : Nat) (s : State) : State :=
  let charged := s.gov.charge c bytes (s.radio r)
  s.setRadio r (s.gov.setWaiting s.venueTime (classes.filter (· ≠ c)) charged)

/-- The credit of a radio that receives its configuration or is reset: the ceiling of its group, remainder 0, refilled now,
no waiting classes and no wake time (R61, R83). -/
def Governor.initCredit (g : Governor) (now : Time) (r : Radio) : Radio :=
  { r with credit := (g.groupOf r).ceiling.toNat, remainder := 0, lastRefill := now, waiting := [], wake := none }

/-- A credit above the ceiling of the radio's group is set to it, with remainder 0 (R67, R82 step 3). -/
def Governor.clampCredit (g : Governor) (r : Radio) : Radio :=
  if ((g.groupOf r).ceiling.toNat : Int) < r.credit then
    { r with credit := (g.groupOf r).ceiling.toNat, remainder := 0 }
  else r

/-! ### Surge (R73 to R76) -/

/-- Surge is asserted while the line is high or the flag is set (R73). -/
def State.surgeAsserted (s : State) : Bool := s.surgeLine || s.gov.surgeFlag

/-- The number of a surge state: OFF 1, ON 2, RAMPING 3 (R190). -/
def Surge.code : Surge → Nat
  | .off => 1
  | .on => 2
  | .ramping _ _ => 3

/-- The ramp stage, while RAMPING. -/
def Surge.stage : Surge → Option Nat
  | .ramping k _ => some k
  | _ => none

/-- The SURGE_CHANGED notice, with the surge state, the stage, the surge part and p as they stand (R73). -/
def surgeNotice (s : State) : State :=
  notice .surgeChanged
    (be 1 s.gov.surge.code ++ optField 1 s.gov.surge.stage ++ be 1 s.gov.surgePart ++ be 1 s.gov.throttle) s

/-- A change of the surge state: SURGE_CHANGED, and if p changes, the refill under the old p, the wake times under the new
one, the counter and the free ports' arbiters (R73, R76). -/
def changeSurge (new : Surge) (s : State) : State :=
  let old := s.gov
  let s1 := surgeNotice (s.modGov (fun g => { g with surge := new }))
  if s1.gov.throttle = old.throttle then s1
  else
    let now := s.venueTime
    let s2 := s1.modPresentRadios (fun r => s1.gov.rewake now (old.refill now r))
    (s2.modGovCtrs (fun k => { k with throttleChanges := bump k.throttleChanges })).askAll

/-- The first of the stages from `k` on, at most 3, whose percentage lies below `limit` (R75). -/
def Context.nextStage (c : Context) (limit : Nat) (k : Nat) : Option Nat :=
  ([1, 2, 3].filter (fun j => decide (k ≤ j))).find? (fun j => decide (percent (c.stage j).code < limit))

/-- The surge state the ramp moves to: the stage found with its timer, or OFF (R75). -/
def rampTo (s : State) (stage : Option Nat) : Surge :=
  match stage with
  | some k => .ramping k (s.venueTime + usec ((s.gov.activeCtx.stage k).dur.toNat * 1000))
  | none => .off

/-- The governor takes a change of the line or of the flag: surge becomes asserted, or stops being asserted (R73). -/
def takeSurge (was : Bool) (s : State) : State :=
  let is := s.surgeAsserted
  if was = is then s
  else if is then
    match s.gov.surge with
    | .off => changeSurge .on (s.modGovCtrs (fun k => { k with surgeOnsets := bump k.surgeOnsets }))
    | .ramping _ _ => changeSurge .on s
    | .on => s
  else
    match s.gov.surge with
    | .on => changeSurge (rampTo s (s.gov.activeCtx.nextStage (percent s.gov.activeCtx.surgeCode) 1)) s
    | _ => s

/-- The stage timer expires in stage `k` (R75). -/
def stageExpired (k : Nat) (s : State) : State :=
  changeSurge (rampTo s (s.gov.activeCtx.nextStage (percent (s.gov.activeCtx.stage k).code) (k + 1))) s

/-! ### PROFILE_VALIDATE (R80) -/

/-- The fields PROFILE_VALIDATE checks, each with its number in the order of R80's list, its group when it has one, and
whether it passes. -/
def Context.checks (c : Context) : List (Nat × Option Nat × Bool) :=
  let gs := List.range 8
  gs.map (fun g => (1, some g, decide ((c.group g).base.toNat ≤ 1000)))
  ++ gs.map (fun g => (2, some g, decide (1 ≤ (c.group g).ceiling.toNat)))
  ++ gs.map (fun g => (3, some g, decide ((c.group g).visitor.toNat < (c.group g).ceiling.toNat)))
  ++ gs.map (fun g => (4, some g, decide ((c.group g).replay.toNat < (c.group g).ceiling.toNat)))
  ++ gs.map (fun g => (5, some g, decide ((c.group g).debt.toNat ≤ 16383)))
  ++ [(6, none, decide (c.surgeCode.toNat ≤ 7)), (7, none, decide (c.capCode.toNat ≤ 7)),
      (8, none, decide (c.stage1.code.toNat ≤ 7)), (9, none, decide (c.stage2.code.toNat ≤ 7)),
      (10, none, decide (c.stage3.code.toNat ≤ 7)), (11, none, decide (c.capEnable.toNat ≤ 1)),
      (12, none, decide (1 ≤ c.stage1.dur.toNat)), (13, none, decide (1 ≤ c.stage2.dur.toNat)),
      (14, none, decide (1 ≤ c.stage3.dur.toNat)), (15, none, decide (c.overhead.toNat ≤ 255)),
      (16, none, decide (100 ≤ c.sealAge.toNat ∧ c.sealAge.toNat ≤ 5000)),
      (17, none, decide (1 ≤ c.lagLimit.toNat ∧ c.lagLimit.toNat ≤ 32))]

/-- The first check a context fails, with its group (R80). -/
def Context.failing (c : Context) : Option (Nat × Option Nat) :=
  (c.checks.find? (fun k => !k.2.2)).map (fun k => (k.1, k.2.1))

/-- The values of a part stored in a context, and VALID cleared (R79). A part outside the list stores nothing. -/
def Context.write (c : Context) : ProfilePart → Context
  | .group g base ceiling visitor replay debt =>
    { c.setGroup g.val ⟨base, ceiling, visitor, replay, debt⟩ with valid := false }
  | .throttle surge cap enable => { c with surgeCode := surge, capCode := cap, capEnable := enable, valid := false }
  | .ramp c1 d1 c2 d2 c3 d3 => { c with stage1 := ⟨c1, d1⟩, stage2 := ⟨c2, d2⟩, stage3 := ⟨c3, d3⟩, valid := false }
  | .timing overhead sealAge lag => { c with overhead := overhead, sealAge := sealAge, lagLimit := lag, valid := false }
  | .badPart _ _ => c

/-- A context as PROFILE_ACCESS reports it: group records 0 to 7, throttle, ramp, timing (R77, R78, R190). -/
def Context.bytes (c : Context) : List Byte :=
  (List.range 8).flatMap (fun g =>
    let r := c.group g
    be 2 r.base.toNat ++ be 2 r.ceiling.toNat ++ be 2 r.visitor.toNat ++ be 2 r.replay.toNat ++ be 2 r.debt.toNat)
  ++ [c.surgeCode, c.capCode, c.capEnable]
  ++ [1, 2, 3].flatMap (fun k => (c.stage k).code :: be 2 (c.stage k).dur.toNat)
  ++ be 2 c.overhead.toNat ++ be 2 c.sealAge.toNat ++ be 2 c.lagLimit.toNat

end Sys2Proof.Machine
end

