-- ==== Sys2Proof/Machine/Egress.lean ====
section
/-! DEFINITION. The egress buffer and the downlink ports (03_egress_bursts_and_downlink_dispatch.md): offers, bursts,
taking frames out, purge, the port arbiter, dispatch and transmit completion. -/

namespace Sys2Proof.Machine

/-! ### Bursts (R45, R50) -/

/-- The byte total of a burst (R45). -/
def Burst.total (b : Burst) : Nat := (b.frames.map (fun f => f.payload.length)).sum

def Burst.isTransmitting (b : Burst) : Bool :=
  match b.state with
  | .transmitting _ => true
  | _ => false

/-- The head of a class list is eligible: CLOSED, or OPEN in the ADMISSION list (R50). -/
def headEligible (c : Cls) (l : List Burst) : Bool :=
  match l with
  | [] => false
  | b :: _ =>
    match b.state with
    | .closed => true
    | .opened => decide (c = .admission)
    | .transmitting _ => false

/-- The classes of a radio's eligible heads, in order of priority (R51). -/
def eligible (l : RadioLists) : List Cls := Cls.all.filter (fun c => headEligible c (l.of c))

/-- One of a radio's bursts is TRANSMITTING. -/
def RadioLists.transmitting (l : RadioLists) : Bool := Cls.all.any (fun c => (l.of c).any Burst.isTransmitting)

/-- A radio can dispatch: IN_SERVICE, nothing TRANSMITTING, an eligible head (R50). -/
def State.canDispatch (s : State) (r : Nat) : Bool :=
  s.inService r && !(s.lists r).transmitting && !(eligible (s.lists r)).isEmpty

/-- A class takes a buffer while this many are in use (R44). -/
def bufferFree (c : Cls) (inUse : Nat) : Bool :=
  decide (inUse < if c = .admission then Config.frameBuffers else Config.sharedBuffers)

/-- A class opens a burst while this many are in use (R44). -/
def burstFree (c : Cls) (inUse : Nat) : Bool :=
  decide (inUse < if c = .admission then Config.burstRecords else Config.sharedBursts)

/-- A burst that is full is CLOSED and has no seal deadline (R47 step 3). -/
def Burst.closeIfFull (b : Burst) : Burst :=
  if b.frames.length = Config.burstFrames ∨ b.total = Config.burstBytes then { b with state := .closed, sealAt := none }
  else b

/-- An OPEN burst with a new successor becomes CLOSED (R47 step 2). -/
def Burst.succeeded (b : Burst) : Burst :=
  if b.state = .opened then { b with state := .closed, sealAt := none } else b

/-- The frame fits the burst as an OPEN tail (R47 step 1). -/
def Burst.fits (b : Burst) (f : Frame) : Bool :=
  decide (b.state = .opened) && decide (b.frames.length < Config.burstFrames)
    && decide (b.total + f.payload.length ≤ Config.burstBytes)

/-- The frame joined to the tail of a class list, when it fits (R47 step 1). -/
def mergeTail (f : Frame) : List Burst → Option (List Burst)
  | [] => none
  | [b] => if b.fits f then some [{ b with frames := b.frames ++ [f] }.closeIfFull] else none
  | b :: bs => (mergeTail f bs).map (b :: ·)

/-- The class list with a new burst of this one frame behind it (R47 steps 2 and 3). -/
def openTail (c : Cls) (sealAt : Time) (f : Frame) (l : List Burst) : List Burst :=
  l.map Burst.succeeded
    ++ [{ state := .opened, frames := [f],
          sealAt := if c = .admission then none else some sealAt : Burst }.closeIfFull]

/-- Where an offered frame goes: the new class list, and whether it opened a burst; none where it gets no room (R47). -/
def place (s : State) (r : Nat) (c : Cls) (f : Frame) : Option (List Burst × Bool) :=
  let l := s.list r c
  if bufferFree c s.egress.buffers then
    match mergeTail f l with
    | some l' => some (l', false)
    | none =>
      if burstFree c s.egress.bursts ∧ ¬ (c = .replay ∧ Config.replayBursts ≤ l.length) then
        some (openTail c (s.venueTime + usec s.gov.activeCtx.sealAge.toNat) f l, true)
      else none
  else none

/-! ### Egress counts (R15) -/

/-- A pending class is applied when the egress count is 0 (R14, R15). -/
def Station.applyPending (st : Station) : Station :=
  if st.egress = 0 then
    match st.pendingCls with
    | some c => { st with cls := c, pendingCls := none }
    | none => st
  else st

/-- A station's egress count rises by 1; a frame with no handle changes no count. -/
def raiseEgress (h : Option Nat) (s : State) : State :=
  match h with
  | some h => s.modStation h (fun st => { st with egress := st.egress + 1 })
  | none => s

/-- A station's egress count falls by 1, and at 0 a pending class is applied (R15). -/
def lowerEgress (h : Option Nat) (s : State) : State :=
  match h with
  | some h => s.modStation h (fun st => { st with egress := st.egress - 1 }.applyPending)
  | none => s

/-! ### Offers (R46 to R48) -/

/-- What becomes of an offer that finds no room (R46's last column): dropped, or declined. -/
inductive OfferSort where
  | droppable
  | declinable
  deriving DecidableEq, Repr

/-- What the sending block is told (R46). -/
inductive Offered where
  | accepted
  | dropped
  | declined
  | refused
  deriving DecidableEq, Repr

/-- The radio's arbiter is asked where the change of a class list made a head eligible: the list's head was not eligible
before and is now, or a new head was uncovered (R47, R50). -/
def askIfEligible (r : Nat) (c : Cls) (was new : List Burst) (uncovered : Bool) (s : State) : State :=
  if headEligible c new && (uncovered || !headEligible c was) then s.askRadio r else s

/-- A frame joins its class list: the list, the pool's counts, the accepted counter, the station's egress count (R47). -/
def acceptFrame (r : Nat) (c : Cls) (f : Frame) (l : List Burst) (opened : Bool) (s : State) : State :=
  let was := s.list r c
  let s1 := s.setList r c l
  let s2 := { s1 with
    egress := { s1.egress with
      buffers := s1.egress.buffers + 1
      bursts := s1.egress.bursts + (if opened then 1 else 0)
      accepted := bump s1.egress.accepted } }
  askIfEligible r c was l false (raiseEgress f.handle s2)

/-- An offer is taken (R46 to R48). -/
def offer (sort : OfferSort) (r : Nat) (c : Cls) (f : Frame) (s : State) : Offered × State :=
  if !s.inService r then
    (.refused, s.modRadio r (fun x => { x with drops := { x.drops with notInService := bump x.drops.notInService } }))
  else
    match place s r c f with
    | some (l, opened) => (.accepted, acceptFrame r c f l opened s)
    | none =>
      match sort with
      | .declinable => (.declined, { s with egress := { s.egress with declined := bump s.egress.declined } })
      | .droppable =>
        (.dropped, occur { cls := .egressOverflow, radio := some r, frame := some (f.offered r) }
          (s.modRadio r (fun x => { x with drops := { x.drops with overflow := bump x.drops.overflow } })))

/-- A service message to a radio: offered in ADMISSION class with no station handle (R30, R102, R122, R145). -/
def offerService (r : Nat) (station : Addr) (code : Byte) (body : List Byte) (s : State) : Offered × State :=
  offer .droppable r .admission { kind := .service code, dst := station, payload := body } s

/-! ### Taking frames out (R58) -/

/-- A station's frames in the OPEN and CLOSED bursts of a class list, in order, and the list without them and without the
bursts left empty (R27, R58). -/
def takeFrames (h : Nat) : List Burst → List Frame × List Burst
  | [] => ([], [])
  | b :: bs =>
    let (fs, rest) := takeFrames h bs
    if b.isTransmitting then (fs, b :: rest)
    else
      let mine := b.frames.filter (fun f => f.handle = some h)
      let left := b.frames.filter (fun f => f.handle ≠ some h)
      if left = [] then (mine ++ fs, rest) else (mine ++ fs, { b with frames := left } :: rest)

/-- The head burst holds frames of this station only, so that taking them out frees it (R58). -/
def headFreed (h : Nat) : List Burst → Bool
  | [] => false
  | b :: _ => !b.isTransmitting && b.frames.all (fun f => f.handle = some h)

/-- A station's frames are taken out of one class list of a radio; their buffers and the bursts left empty are freed and a
head uncovered may be eligible (R58). The egress count is left to the caller. -/
def takeFromList (h r : Nat) (c : Cls) (s : State) : List Frame × State :=
  let l := s.list r c
  let (fs, l') := takeFrames h l
  if fs = [] then ([], s)
  else
    let s1 := s.setList r c l'
    let s2 := { s1 with
      egress := { s1.egress with
        buffers := s1.egress.buffers - fs.length
        bursts := s1.egress.bursts - (l.length - l'.length) } }
    (fs, askIfEligible r c l l' (headFreed h l) s2.freedRoom)

/-- A station's frames are taken out of all four class lists of a radio (R27). -/
def takeFromRadio (h r : Nat) (s : State) : List Frame × State :=
  Cls.all.foldl (fun acc c =>
    let (fs, s1) := takeFromList h r c acc.2
    (acc.1 ++ fs, s1)) ([], s)

/-- The handle of a removed station is cleared in TRANSMITTING bursts (R9, R58). -/
def clearHandle (h : Nat) (l : List Burst) : List Burst :=
  l.map (fun b => { b with frames := b.frames.map (fun f => if f.handle = some h then { f with handle := none } else f) })

/-- The handle is cleared in every list of a radio. -/
def RadioLists.clearHandle (h : Nat) (l : RadioLists) : RadioLists :=
  ⟨Machine.clearHandle h l.admission, Machine.clearHandle h l.fan, Machine.clearHandle h l.visitor,
   Machine.clearHandle h l.replay⟩

/-- The queued frames of a removed station are discarded from every radio's lists and its handle is cleared in TRANSMITTING
bursts; answers how many were discarded (R9, R58). -/
def discardQueued (h : Nat) (s : State) : Nat × State :=
  let (n, s1) := s.egress.lists.keys.foldl (fun acc r =>
    let (fs, s1) := takeFromRadio h r acc.2
    (acc.1 + fs.length, s1)) (0, s)
  (n, { s1 with egress := { s1.egress with lists := s1.egress.lists.mapVals {} (RadioLists.clearHandle h) } })

/-- A purge of one radio's class lists: every burst but a TRANSMITTING one is discarded, its frames lower their stations'
egress counts and raise the radio's purge drop counter (R59). A purge that finds nothing frees no room, so it announces none
(R57; log entry 33). -/
def purge (r : Nat) (s : State) : State :=
  let bs := Cls.all.flatMap (fun c => (s.list r c).filter (fun b => !b.isTransmitting))
  let frames := bs.flatMap Burst.frames
  if bs = [] then s
  else
    let keep := fun l : List Burst => l.filter Burst.isTransmitting
    let l := s.lists r
    let s1 := s.setLists r ⟨keep l.admission, keep l.fan, keep l.visitor, keep l.replay⟩
    let s2 := { s1 with
      egress := { s1.egress with
        buffers := s1.egress.buffers - frames.length
        bursts := s1.egress.bursts - bs.length } }
    let s3 := frames.foldl (fun s f => lowerEgress f.handle s) s2
    (s3.modRadio r (fun x => { x with drops := { x.drops with purge := bumpBy x.drops.purge frames.length } })).freedRoom

/-! ### The port arbiter (R52 to R54) -/

/-- The head of a class list becomes TRANSMITTING on a port; its seal deadline is removed (R54 step 1). -/
def transmitHead (p : Nat) : List Burst → List Burst
  | [] => []
  | b :: bs => { b with state := .transmitting p, sealAt := none } :: bs

/-- The port dispatches the head of class `c` on radio `r`, `classes` being those of the grant request (R54). -/
def dispatch (p r : Nat) (classes : List Cls) (c : Cls) (s : State) : State :=
  match s.list r c with
  | [] => s
  | b :: bs =>
    let s1 := s.setList r c (transmitHead p (b :: bs))
    let s2 := chargeDispatch r classes c b.total s1
    s2.setPort p { s2.port p with
      pointer := some r, sending := some (r, c), wire := b.frames.map (Frame.wire r) }

/-- The arbiter asks the radios in turn and stops at the first that is granted a class (R52). -/
def arbiterOver (p : Nat) : List Nat → State → State
  | [], s => s
  | r :: rs, s =>
    let classes := eligible (s.lists r)
    match grantRequest r classes s with
    | (some c, s1) => dispatch p r classes c s1
    | (none, s1) => arbiterOver p rs s1

/-- The radios configured on a port that can dispatch, from the first number above the pointer on, wrapping (R52). -/
def arbiterOrder (p : Nat) (s : State) : List Nat :=
  let rs := (s.radios.filter (fun e => decide (e.2.cfg.map RadioCfg.port = some p) && s.canDispatch e.1)).map Prod.fst
  match (s.port p).pointer with
  | none => rs
  | some k => rs.filter (fun r => decide (k < r)) ++ rs.filter (fun r => decide (r ≤ k))

/-- A run of a port's arbiter; a busy port does not run it (R52, R53). -/
def runArbiter (p : Nat) (s : State) : State :=
  match (s.port p).sending with
  | some _ => s
  | none => arbiterOver p (arbiterOrder p s) s

/-- The arbiters asked for in this event run, each once, in order of port number (R53; log entry 7). -/
def runArbiters (s : State) : State :=
  let asked := [0, 1, 2, 3].filter (fun p => s.ev.ask.contains p)
  asked.foldl (fun s p => runArbiter p s) { s with ev := { s.ev with ask := [] } }

/-! ### Seal timers (R49) -/

/-- An OPEN burst whose seal deadline is reached closes by age (R49). -/
def Burst.closeByAge (now : Time) (b : Burst) : Burst :=
  match b.sealAt with
  | some d => if b.state = .opened ∧ reached now d then { b with state := .closed, sealAt := none } else b
  | none => b

/-- The bursts of one class list of a radio close by age, and the head may become eligible. -/
def closeListByAge (r : Nat) (c : Cls) (s : State) : State :=
  let l := s.list r c
  let l' := l.map (Burst.closeByAge s.venueTime)
  if l' = l then s else askIfEligible r c l l' false (s.setList r c l')

/-- Every OPEN burst of a radio past its seal deadline closes (R49). -/
def closeByAge (r : Nat) (s : State) : State := Cls.all.foldl (fun s c => closeListByAge r c s) s

/-- Changes every seal deadline. -/
def State.modSeals (s : State) (f : Time → Time) : State :=
  let g := fun l : List Burst => l.map (fun b => { b with sealAt := b.sealAt.map f })
  { s with
    egress := { s.egress with
      lists := s.egress.lists.mapVals {} (fun l => ⟨g l.admission, g l.fan, g l.visitor, g l.replay⟩) } }

/-- The earliest seal deadline of a radio's OPEN bursts is now: its seal timer expires (R49). -/
def State.sealDue (s : State) (r : Nat) : Bool :=
  Cls.all.any (fun c => (s.list r c).any (fun b => match b.sealAt with
    | some d => decide (b.state = .opened) && reached s.venueTime d
    | none => false))

/-! ### Transmit completion (R56) -/

/-- The TRANSMITTING burst at the head of a class list leaves it, and the egress counts of its frames fall; answers the
burst (R56 steps 1 and 2). -/
def finishBurst (r : Nat) (c : Cls) (s : State) : Option Burst × State :=
  match s.list r c with
  | [] => (none, s)
  | b :: bs =>
    let s1 := b.frames.foldl (fun s f => lowerEgress f.handle s) (s.setList r c bs)
    (some b, { s1 with
      egress := { s1.egress with
        buffers := s1.egress.buffers - b.frames.length
        bursts := s1.egress.bursts - 1 } }.freedRoom |> askIfEligible r c [] bs true)

/-- The transmit completion at a port (R56): steps 1 to 4, the announcement noted and the arbiter asked for. A port that is
sending nothing completes nothing. -/
def completeTransmit (p : Nat) (s : State) : State :=
  match (s.port p).sending with
  | none => s
  | some (r, c) =>
    let (b, s1) := finishBurst r c s
    let n := (b.map (fun b => b.frames.length)).getD 0
    let bytes := (b.map Burst.total).getD 0
    let port := s1.port p
    let s2 := s1.setPort p { port with
      sending := none
      wire := []
      ctrs := { port.ctrs with
        sent := bumpBy port.ctrs.sent n
        burstsSent := bump port.ctrs.burstsSent
        framesSent := bumpBy port.ctrs.framesSent n
        bytesSent := bumpBy port.ctrs.bytesSent bytes } }
    s2.askPort p

end Sys2Proof.Machine
end

