-- ==== Sys2Proof/Machine/RecordMemory.lean ====
section
/-! DEFINITION. The record memory controller (10_record_memory.md): the places of the two areas, the request queues, the
arbiter with its starvation guards, completions, and the check code. -/

namespace Sys2Proof.Machine

/-! ### Places (R160) -/

/-- The first byte of a position's place in the credential area (R160). -/
def credAddr (pos : Nat) : Nat := pos * 64

/-- The byte of the clip area at an offset of a slot's place (R160). -/
def clipAddr (slot offset : Nat) : Nat := slot * Config.slotBytes + offset

/-- Bytes of the credential area (R160). -/
def credAreaBytes : Nat := 4194304

/-! ### The check code (R165) -/

/-- One bit of the cyclic redundancy check with generator x^16 + x^12 + x^5 + 1, most significant bit first. -/
def crcBit (c : Half) : Half := if c.getLsbD 15 then (c <<< 1) ^^^ 0x1021 else c <<< 1

/-- One byte of the check. -/
def crcByte (c : Half) (b : Byte) : Half :=
  crcBit (crcBit (crcBit (crcBit (crcBit (crcBit (crcBit (crcBit (c ^^^ (b.setWidth 16 <<< 8)))))))))

/-- The check code of a list of bytes, with starting value FFFFh (R165). -/
def checkCode (l : List Byte) : Half := l.foldl crcByte 0xFFFF

/-! ### Credential records as bytes (R160, R165; the arrangement is the model's, log entry 6) -/

/-- A gate and time as 8 bytes: presence, gate, time. -/
def GateTime.bytes : Option GateTime → List Byte
  | none => be 8 0
  | some g => [1] ++ be 1 g.gate ++ be 6 g.time.toNat

/-- The 62 bytes of a record before its check code. -/
def Cred.bytes62 (c : Cred) : List Byte :=
  be 8 c.code.toNat ++ be 1 c.tier.code ++ be 8 c.permit.toNat ++ be 1 c.allowance ++ flagByte c.grant
    ++ GateTime.bytes c.first ++ GateTime.bytes c.last ++ List.replicate 27 0

/-- The 64 bytes a credential write-back writes (R165). -/
def Cred.bytes (c : Cred) : List Byte := c.bytes62 ++ be 2 (checkCode c.bytes62).toNat

/-- A gate and time read back. -/
def gateTimeAt (b : List Byte) (at_ : Nat) : Option GateTime :=
  if u8 b at_ = 1 then some ⟨(u8 b (at_ + 1)).toNat, u48 b (at_ + 2)⟩ else none

/-- The record 62 bytes hold. Bytes that no record is written as are read all the same (R165: a changed record whose code
still agrees "is taken as read"), how is log entry 6: another tier byte is GENERAL, another grant byte than 1 is clear, and
another presence byte than 1 is absent. -/
def Cred.ofBytes (b : List Byte) : Cred :=
  { code := u64 b 0
    tier := (tierOf (u8 b 8)).getD .general
    permit := u64 b 9
    allowance := (u8 b 17).toNat % 8
    grant := decide (u8 b 18 = 1)
    first := gateTimeAt b 19
    last := gateTimeAt b 27 }

/-- The record at a position, as read. -/
def State.cred (s : State) (pos : Nat) : Cred := Cred.ofBytes (Memory.readBytes s.mem.cred (credAddr pos) 62)

/-- The check of the record at a position: the code computed over its 62 bytes equals the code read (R165). -/
def State.credPasses (s : State) (pos : Nat) : Bool :=
  decide ((checkCode (Memory.readBytes s.mem.cred (credAddr pos) 62)).toNat
    = beVal (Memory.readBytes s.mem.cred (credAddr pos + 62) 2))

/-! ### Requests and grants (R161 to R163) -/

def State.modMem (s : State) (f : RecMem → RecMem) : State := { s with mem := f s.mem }

/-- The five kinds of request, in the fixed order of priority (R162). -/
inductive ReqKind where
  | fetch | writeBack | chunk | stride | ingest
  deriving DecidableEq, Repr

def Request.kind : Request → ReqKind
  | .fetch _ _ _ => .fetch
  | .writeBack _ _ _ => .writeBack
  | .chunk _ _ _ _ => .chunk
  | .stride _ _ => .stride
  | .ingest _ _ _ _ => .ingest

def RecMem.queue (m : RecMem) : ReqKind → List Tagged
  | .fetch => m.fetchQ
  | .writeBack => m.writeQ
  | .chunk => m.chunkQ
  | .stride => m.strideQ
  | .ingest => m.ingestQ

def RecMem.setQueue (m : RecMem) (k : ReqKind) (q : List Tagged) : RecMem :=
  match k with
  | .fetch => { m with fetchQ := q }
  | .writeBack => { m with writeQ := q }
  | .chunk => { m with chunkQ := q }
  | .stride => { m with strideQ := q }
  | .ingest => { m with ingestQ := q }

/-- The queue the arbiter serves next, and whether by a starvation guard (R162). -/
def RecMem.choice (m : RecMem) : Option (ReqKind × Bool) :=
  if m.ingestQ ≠ [] ∧ m.starveIngest = 16 then some (.ingest, true)
  else if m.strideQ ≠ [] ∧ m.starveStride = 64 then some (.stride, true)
  else if m.fetchQ ≠ [] then some (.fetch, false)
  else if m.writeQ ≠ [] then some (.writeBack, false)
  else if m.chunkQ ≠ [] then some (.chunk, false)
  else if m.strideQ ≠ [] then some (.stride, false)
  else if m.ingestQ ≠ [] then some (.ingest, false)
  else none

/-- The starvation counter of a guarded queue after a grant of kind `k` (R163): the grant of its own head sets it to 0, and
a grant to another kind raises it while its queue holds a request, up to its due value. -/
def starveAfter (own k : ReqKind) (q : List Tagged) (due c : Nat) : Nat :=
  if k = own then 0 else if q = [] then c else min due (c + 1)

/-- The grants counter of a kind (R162). -/
def MemCtrs.granted (c : MemCtrs) : ReqKind → MemCtrs
  | .fetch => { c with fetch := bump c.fetch }
  | .writeBack => { c with writeBack := bump c.writeBack }
  | .chunk => { c with chunk := bump c.chunk }
  | .stride => { c with stride := bump c.stride }
  | .ingest => { c with ingest := bump c.ingest }

/-- The guard-grants counter of a kind granted by a guard (R162). -/
def MemCtrs.guarded (c : MemCtrs) (k : ReqKind) (byGuard : Bool) : MemCtrs :=
  if byGuard then
    match k with
    | .ingest => { c with guardIngest := bump c.guardIngest }
    | .stride => { c with guardStride := bump c.guardStride }
    | _ => c
  else c

/-- The bytes a transfer reads or writes, counted by its length (R161, R162). -/
def MemCtrs.transferred (c : MemCtrs) : Request → MemCtrs
  | .fetch _ _ _ => { c with bytesRead := bumpBy c.bytesRead 256 }
  | .writeBack _ _ _ => { c with bytesWritten := bumpBy c.bytesWritten 64 }
  | .chunk _ _ n _ => { c with bytesRead := bumpBy c.bytesRead n }
  | .stride _ _ => { c with bytesRead := bumpBy c.bytesRead 16384 }
  | .ingest _ _ data _ => { c with bytesWritten := bumpBy c.bytesWritten data.length }

/-- The arbiter grants one request when the memory is free and a queue holds one (R162). -/
def RecMem.grant (m : RecMem) : RecMem :=
  match m.transfer, m.choice with
  | none, some (k, byGuard) =>
    match m.queue k with
    | [] => m
    | t :: q =>
      { m.setQueue k q with
        transfer := some t
        starveIngest := starveAfter .ingest k m.ingestQ 16 m.starveIngest
        starveStride := starveAfter .stride k m.strideQ 64 m.starveStride
        ctrs := ((m.ctrs.granted k).guarded k byGuard).transferred t.req }
  | _, _ => m

/-- A request joins the tail of its queue (R161); as the head of a guarded queue its starvation counter is 0 (R163). When
the memory is free it is granted in the same event (R162). -/
def RecMem.send (m : RecMem) (r : Request) : RecMem :=
  let k := r.kind
  let m1 := m.setQueue k (m.queue k ++ [⟨r, false⟩])
  let m2 :=
    if m.queue k = [] then
      match k with
      | .ingest => { m1 with starveIngest := 0 }
      | .stride => { m1 with starveStride := 0 }
      | _ => m1
    else m1
  m2.grant

def State.sendRequest (s : State) (r : Request) : State := s.modMem (fun m => m.send r)

/-- Every request at the controller: the transfer, then the queues. -/
def RecMem.all (m : RecMem) : List Tagged :=
  m.transfer.toList ++ m.fetchQ ++ m.writeQ ++ m.chunkQ ++ m.strideQ ++ m.ingestQ

/-- A zone restart marks every request at the controller (R166). -/
def RecMem.markAll (m : RecMem) : RecMem :=
  let f := fun q : List Tagged => q.map (fun t => { t with marked := true })
  { m with
    fetchQ := f m.fetchQ, writeQ := f m.writeQ, chunkQ := f m.chunkQ, strideQ := f m.strideQ, ingestQ := f m.ingestQ
    transfer := m.transfer.map (fun t => { t with marked := true }) }

/-- The transfer in progress, when it is of kind `k`: the memory becomes free and the arbiter grants again (R162). -/
def RecMem.complete (m : RecMem) (k : ReqKind) : Option (Tagged × RecMem) :=
  match m.transfer with
  | some t => if t.req.kind = k then some (t, { m with transfer := none }.grant) else none
  | none => none

/-- The bytes a completed write has written (R164). -/
def RecMem.written (m : RecMem) : Request → RecMem
  | .writeBack pos c _ => { m with cred := Memory.writeBytes m.cred (credAddr pos) c.bytes }
  | .ingest slot offset data _ => { m with clip := Memory.writeBytes m.clip (clipAddr slot offset) data }
  | _ => m

/-- The bytes of the credential area a disturbance changed (R165); addresses outside the area do not exist and are left
out. -/
def RecMem.disturb (m : RecMem) (spoilt : List Host.Cell) : RecMem :=
  { m with cred := Memory.spoil m.cred (spoilt.filter (fun c => decide (c.1 < credAreaBytes))) }

/-- The positions of a check set whose record fails its check, each counted (R165). -/
def failedChecks (check : List Nat) (s : State) : List Nat × State :=
  let bad := check.filter (fun p => !s.credPasses p)
  (bad, s.modMem (fun m => { m with ctrs := { m.ctrs with checkFailures := bumpBy m.ctrs.checkFailures bad.length } }))

end Sys2Proof.Machine
end

