-- ==== Sys2Proof/Machine/Replay.lean ====
section
/-! DEFINITION. Replay subscriptions and deliveries (09_replay_subscriptions_and_deliveries.md): seeking, taking a segment,
waiting lists, reading and pacing, the end of a delivery, pausing, resuming and removing. -/

namespace Sys2Proof.Machine

/-! ### The READY segments of a reel (R130) -/

/-- The READY slots of a reel, as sequence and slot. -/
def State.readySegs (s : State) (reel : Nat) : List (Nat × Nat) :=
  s.replay.slots.filterMap (fun e =>
    if e.2.state = .ready ∧ e.2.reel = some reel then e.2.seq.map (fun n => (n, e.1)) else none)

/-- The READY slot holding sequence `n` (R130). -/
def State.readySlot (s : State) (reel n : Nat) : Option Nat :=
  ((s.readySegs reel).find? (fun p => p.1 = n)).map Prod.snd

/-- The least element of a list. -/
def minOf : List Nat → Option Nat
  | [] => none
  | a :: l => some (l.foldl min a)

/-- The greatest element of a list. -/
def maxOf : List Nat → Option Nat
  | [] => none
  | a :: l => some (l.foldl max a)

/-- The first READY sequence from `lo` on, below `hi` when one is given. -/
def State.firstReady (s : State) (reel lo : Nat) (hi : Option Nat) : Option Nat :=
  minOf (((s.readySegs reel).map Prod.fst).filter (fun n =>
    decide (lo ≤ n) && (match hi with
      | some h => decide (n < h)
      | none => true)))

/-- The delivered sequence plus 1; past 2^32 − 1 a free value (R155; log entry 3). -/
def nextSeq (n : Nat) : Nat := if n + 1 < 2 ^ 32 then n + 1 else (Config.seqPastEnd n).toNat

/-! ### Seeking (R150) -/

/-- What a seek gives: the subscription with its cursor and window moved, the sequence found, the sequences skipped. -/
structure Sought where
  sub : Sub
  found : Option Nat
  skips : Nat := 0
  deriving DecidableEq, Repr

def seekOne (s : State) (b : Sub) : Sought :=
  match b.cursor with
  | some c =>
    match s.firstReady b.reel c none with
    | some n => ⟨{ b with cursor := some n }, some n, 0⟩
    | none => ⟨b, none, 0⟩
  | none => ⟨b, none, 0⟩

def seekFollow (applyLag : Bool) (s : State) (newest oldest : Nat) (b : Sub) : Sought :=
  let c0 := b.cursor.getD newest
  let c1 := if c0 < oldest then newest else c0
  let lagging := applyLag && decide (s.gov.activeCtx.lagLimit.toNat < newest - c1)
  let c2 := if lagging then newest else c1
  ⟨{ b with cursor := some c2 }, (s.readySlot b.reel c2).map (fun _ => c2), if lagging then newest - c1 else 0⟩

def seekLoop (s : State) (oldest : Option Nat) (b : Sub) : Sought :=
  match b.window, b.cursor with
  | some (w0, size), some c0 =>
    let w := max w0 (oldest.getD w0)
    let c := max c0 w
    let b1 := { b with window := some (w, size), cursor := some c }
    match s.firstReady b.reel c (some (w + size)) with
    | some n => ⟨{ b1 with cursor := some n }, some n, 0⟩
    | none =>
      match s.firstReady b.reel w (some (c + 1)) with
      | some n => ⟨{ b1 with cursor := some n }, some n, 0⟩
      | none => ⟨b1, none, 0⟩
  | _, _ => ⟨b, none, 0⟩

/-- A seek (R150). `applyLag` is clear at the seek of a CUE, where the lag limit is not applied (R145). -/
def seek (applyLag : Bool) (s : State) (b : Sub) : Sought :=
  match (s.reel b.reel).cfg with
  | none => ⟨b, none, 0⟩
  | some cfg =>
    match b.mode with
    | .one => seekOne s b
    | .follow =>
      match cfg.newest, cfg.oldest with
      | some n, some o => seekFollow applyLag s n o b
      | _, _ => ⟨b, none, 0⟩
    | .loop => seekLoop s cfg.oldest b

/-! ### Deliveries (R149, R151, R153) -/

def State.modSub (s : State) (h : Nat) (f : Sub → Sub) : State :=
  s.modStation h (fun st => { st with sub := st.sub.map f })

def State.setRider (s : State) (h : Nat) (r : Option Rider) : State := s.modSub h (fun b => { b with rider := r })

def State.modDelivery (s : State) (d : Nat) (f : Delivery → Delivery) : State :=
  match s.delivery d with
  | some v => s.setDelivery d (f v)
  | none => s

/-- The delivery of a slot and generation at a radio (R149). -/
def State.deliveryAt (s : State) (r slot : Nat) (gen : Half) : Option Nat :=
  (s.replay.deliveries.find? (fun e => decide (e.2.radio = r ∧ e.2.slot = slot ∧ e.2.generation = gen))).map Prod.fst

/-- The deliveries in use at a radio (R149). -/
def State.deliveriesAt (s : State) (r : Nat) : Nat := (s.replay.deliveries.filter (fun e => decide (e.2.radio = r))).length

/-- A radio place and a part place are free (R149). -/
def State.placeFree (s : State) (r : Nat) : Bool :=
  decide (s.deliveriesAt r < Config.radioDeliveries) && decide (s.replay.deliveries.length < Config.partDeliveries)

/-- A delivery sends the chunk read at its next offset and becomes READING (R153). -/
def readChunk (d : Nat) (s : State) : State :=
  match s.delivery d with
  | none => s
  | some v =>
    let s1 := s.setDelivery d { v with chunk := .reading }
    (s1.modReplayCtrs (fun k => { k with chunkReads := bump k.chunkReads })).sendRequest
      (.chunk v.slot v.nextOffset (min Config.chunkBytes (v.length - v.nextOffset)) d)

/-- A delivery is created at a radio for a READY slot, ridden by one station, and reads its first chunk (R151 step 2). -/
def createDelivery (h r slot n : Nat) (s : State) : State :=
  let sl := s.slot slot
  let d := s.replay.nextId
  let v : Delivery :=
    { radio := r, reel := sl.reel.getD 0, slot := slot, seq := n, generation := sl.generation,
      length := sl.length.getD 0, riders := [h] }
  let s1 := (s.setDelivery d v).modReplay (fun p => { p with nextId := d + 1 })
  let s2 := (s1.modReplayCtrs (fun k => { k with created := bump k.created })).setRider h (some (.riding d))
  readChunk d s2

/-- A station joins the tail of a delivery's riders (R151 step 1). -/
def joinDelivery (h d : Nat) (s : State) : State :=
  (((s.modDelivery d (fun v => { v with riders := v.riders ++ [h] })).setRider h (some (.riding d))).modReplayCtrs
    (fun k => { k with coalesced := bump k.coalesced }))

/-- A station joins the tail of its radio's waiting list (R151 step 3). -/
def joinWaiting (h r : Nat) (s : State) : State :=
  (s.setWaitList r (s.waitList r ++ [h])).setRider h (some (.waiting s.venueTime s.ev.number))

/-- A station that sought a READY sequence takes the segment (R151). -/
def takeSegment (h r reel n : Nat) (s : State) : State :=
  match s.readySlot reel n with
  | none => s.setRider h (some .idle)
  | some slot =>
    match s.deliveryAt r slot (s.slot slot).generation with
    | some d => joinDelivery h d s
    | none =>
      if s.waitList r = [] ∧ s.placeFree r then createDelivery h r slot n s
      else joinWaiting h r s

/-- The subscription of a station takes the cursor and window of a seek, and the skips are counted (R150). -/
def applySought (h : Nat) (x : Sought) (s : State) : State :=
  let s1 := s.modSub h (fun b => { b with cursor := x.sub.cursor, window := x.sub.window })
  if x.skips = 0 then s1 else s1.modReplayCtrs (fun k => { k with lagSkips := bumpBy k.lagSkips x.skips })

/-- An ACTIVE station seeks and takes its segment, or becomes IDLE (R150, R151). -/
def seekAndTake (applyLag : Bool) (h : Nat) (s : State) : State :=
  match s.station h with
  | none => s
  | some st =>
    match st.sub, st.current with
    | some b, some r =>
      let x := seek applyLag s b
      let s1 := applySought h x s
      match x.found with
      | some n => takeSegment h r b.reel n s1
      | none => s1.setRider h (some .idle)
    | _, _ => s

/-! ### Waiting lists (R152) -/

/-- One station of a waiting list is served (R152); one that joins a delivery is counted as coalesced (log entry 23). -/
def serveStation (r h : Nat) (s : State) : State :=
  match s.station h with
  | none => s
  | some st =>
    match st.sub with
    | none => s
    | some b =>
      let x := seek true s b
      let s1 := applySought h x s
      let leave := fun s : State => s.setWaitList r ((s.waitList r).filter (· ≠ h))
      match x.found.bind (s.readySlot b.reel) with
      | none => (leave s1).setRider h (some .idle)
      | some slot =>
        match s1.deliveryAt r slot (s1.slot slot).generation with
        | some d => joinDelivery h d (leave s1)
        | none =>
          if s1.placeFree r then createDelivery h r slot (x.found.getD 0) (leave s1) else s1

/-- A radio's waiting list is served from head to tail (R152). -/
def serveList (r : Nat) (s : State) : State := (s.waitList r).foldl (fun s h => serveStation r h s) s

/-- When the head of a radio's list joined it: the event, then the station handle (R152). -/
def headJoined (s : State) (l : List Nat) : Nat × Nat :=
  match l with
  | [] => (0, 0)
  | h :: _ =>
    match (s.station h).bind Station.sub with
    | some b =>
      match b.rider with
      | some (.waiting _ e) => (e, h)
      | _ => (0, h)
    | none => (0, h)

/-- The other radios whose lists hold stations, the list whose head joined earliest first (R152). -/
def otherLists (r : Nat) (s : State) : List Nat :=
  let ks := (s.replay.waiting.filter (fun e => decide (e.1 ≠ r) && !e.2.isEmpty)).map (fun e => (headJoined s e.2, e.1))
  (sortBy (fun a b => decide (a.1.1 < b.1.1 ∨ (a.1.1 = b.1.1 ∧ a.1.2 < b.1.2))) ks).map Prod.snd

/-- The lists of the other radios are served in turn while the part holds fewer than 1,024 deliveries (R152). -/
def serveOthers (r : Nat) (s : State) : State :=
  (otherLists r s).foldl (fun s q => if s.placeFree q then serveList q s else s) s

/-- The places a delivery frees at its end go to its own radio's list, then to the others (R152). -/
def servePlaces (r : Nat) (s : State) : State := serveOthers r (serveList r s)

/-! ### Abandoning (R157) and leaving (R147) -/

/-- A delivery's record is freed with its places, and it leaves the stalled list (R155 to R157). -/
def freeDelivery (d : Nat) (s : State) : State :=
  s.modReplay (fun p => { p with deliveries := p.deliveries.del d, stalled := p.stalled.filter (· ≠ d) })

/-- A delivery is abandoned: freed, and counted at its radio (R157). -/
def dropDelivery (d : Nat) (s : State) : State :=
  match s.delivery d with
  | none => s
  | some v =>
    (freeDelivery d s).modRadio v.radio (fun x => { x with rep := { x.rep with abandoned := bump x.rep.abandoned } })

/-- A delivery is abandoned and its radio's waiting list served (R157). -/
def abandonDelivery (d : Nat) (s : State) : State :=
  match s.delivery d with
  | none => s
  | some v => servePlaces v.radio (dropDelivery d s)

/-- A station with this rider state leaves the delivery side (R147). -/
def leaveRider (h : Nat) (radio : Option Nat) (rider : Option Rider) (s : State) : State :=
  match rider with
  | some (.riding d) =>
    match s.delivery d with
    | none => s
    | some v =>
      let left := v.riders.filter (· ≠ h)
      let s1 := s.setDelivery d { v with riders := left }
      if left = [] then abandonDelivery d s1 else s1
  | some (.waiting _ _) =>
    match radio with
    | some r => s.setWaitList r ((s.waitList r).filter (· ≠ h))
    | none => s
  | _ => s

/-- A radio's replay subscriber count falls by 1. -/
def lessSubscriber (radio : Option Nat) (s : State) : State :=
  match radio with
  | some r => s.modRadio r (fun x => { x with subscribers := x.subscribers - 1 })
  | none => s

/-- An ACTIVE subscription becomes PAUSED: its radio's subscriber count falls and the station leaves the delivery side
(R147). -/
def pauseSub (h : Nat) (s : State) : State :=
  match s.station h with
  | none => s
  | some st =>
    match st.sub.bind Sub.rider with
    | none => s
    | some rider => leaveRider h st.current (some rider) (lessSubscriber st.current (s.setRider h none))

/-- A subscription is removed (R147): counted, its radio's subscriber count falls when it was ACTIVE, and the station
leaves the delivery side. -/
def removeSub (h : Nat) (s : State) : State :=
  match s.station h with
  | none => s
  | some st =>
    match st.sub with
    | none => s
    | some b =>
      let s1 := (s.setStation h { st with sub := none }).modReplayCtrs (fun k => { k with removed := bump k.removed })
      match b.rider with
      | none => s1
      | some rider => leaveRider h st.current (some rider) (lessSubscriber st.current s1)

/-- A station is entitled to replay: BOUND_IN_ZONE with the replay grant (R124, R143). -/
def Station.entitled (st : Station) : Bool :=
  decide (st.standing = .inZone) && (match st.binding with
    | some b => b.grant
    | none => false)

/-- A PAUSED subscription is handed to the replay engine as its record becomes ATTACHED: it becomes ACTIVE and seeks from
the cursor it kept, or is removed (R148). -/
def resumeSub (h : Nat) (s : State) : State :=
  match s.station h with
  | none => s
  | some st =>
    match st.sub, st.current with
    | some _, some r =>
      if st.state = .attached ∧ st.entitled then
        let s1 := (s.setRider h (some .idle)).modRadio r (fun x => { x with subscribers := x.subscribers + 1 })
        seekAndTake true h (s1.modReplayCtrs (fun k => { k with resumptions := bump k.resumptions }))
      else removeSub h s
    | _, _ => s

/-! ### Replay frames and pacing (R153, R154) -/

/-- The replay group address of a reel: 0B-42-40-00-00-rr (R187). -/
def replayGroup (reel : Nat) : Addr := BitVec.ofNat 48 (0x0B4240000000 + reel % 256)

/-- A replay frame: the replay header, then the data (R154, R187). -/
def replayFrame (src : Addr) (v : Delivery) (offset : Nat) (data : List Byte) : Frame :=
  { kind := .data, dst := replayGroup v.reel, src := src, etype := typeReplay,
    payload := be 1 v.reel ++ be 4 v.seq ++ be 4 v.length ++ be 4 offset ++ data }

/-- Data bytes of a replay frame: its payload less the 13-byte header. -/
def replayData (f : Frame) : Nat := f.payload.length - 13

/-- A chunk is cut into frames of 1,400 bytes of data, the last one shorter (R153). -/
def cutChunk (src : Addr) (v : Delivery) : Nat → Nat → List Byte → List Frame
  | 0, _, _ => []
  | _, _, [] => []
  | k + 1, offset, b :: bs =>
    let data := (b :: bs).take Config.frameData
    replayFrame src v offset data :: cutChunk src v k (offset + data.length) ((b :: bs).drop Config.frameData)

/-- The riders of a completed delivery advance, in the order they joined (R155). -/
def advanceRider (seq h : Nat) (s : State) : State :=
  match (s.station h).bind Station.sub with
  | none => s
  | some b =>
    match b.mode with
    | .one => (removeSub h s).modReplayCtrs (fun k => { k with ended := bump k.ended })
    | .follow => seekAndTake true h (s.modSub h (fun b => { b with cursor := some (nextSeq seq) }))
    | .loop =>
      let next := match b.window with
        | some (w, size) => if w + size - 1 < seq + 1 then w else nextSeq seq
        | none => nextSeq seq
      seekAndTake true h (s.modSub h (fun b => { b with cursor := some next }))

/-- A delivery completes: it is freed, its riders advance, and the places are served (R155). -/
def completeDelivery (d : Nat) (s : State) : State :=
  match s.delivery d with
  | none => s
  | some v =>
    let s1 := (freeDelivery d s).modReplayCtrs (fun k => { k with completed := bump k.completed })
    servePlaces v.radio (v.riders.foldl (fun s h => advanceRider v.seq h s) s1)

/-- Held frames are offered in order until one is declined; answers those left (R154). -/
def offerFrames (d r : Nat) : List Frame → State → List Frame × State
  | [], s => ([], s)
  | f :: fs, s =>
    match offer .declinable r .replay f s with
    | (.accepted, s1) =>
      offerFrames d r fs ((s1.modDelivery d (fun v => { v with nextOffset := v.nextOffset + replayData f })).modReplayCtrs
        (fun k => { k with replayFrames := bump k.replayFrames }))
    | (.refused, s1) =>
      offerFrames d r fs (s1.modDelivery d (fun v => { v with nextOffset := v.nextOffset + replayData f }))
    | (_, s1) => (f :: fs, s1)

/-- A delivery with a held chunk offers its frames; it stalls on a decline, and with none left it reads on or completes
(R154). -/
def offerHeld (d : Nat) (s : State) : State :=
  match s.delivery d with
  | none => s
  | some v =>
    match v.chunk with
    | .reading => s
    | .held frames =>
      let (left, s1) := offerFrames d v.radio frames s
      let s2 := s1.modDelivery d (fun v => { v with chunk := .held left })
      if left ≠ [] then
        if s2.replay.stalled.contains d then s2
        else s2.modReplay (fun p => { p with stalled := p.stalled ++ [d] })
      else
        let s3 := s2.modReplay (fun p => { p with stalled := p.stalled.filter (· ≠ d) })
        match s3.delivery d with
        | none => s3
        | some v' => if v'.nextOffset = v'.length then completeDelivery d s3 else readChunk d s3

/-- The stalled list is served from head to tail (R154). -/
def serveStalled (s : State) : State := s.replay.stalled.foldl (fun s d => offerHeld d s) s

/-! ### Lapping (R156) and the loss of a radio (R157) -/

/-- A rider of a lapped delivery moves its cursor, seeks and takes (R156 step 3). With no READY sequence in the reel the
cursor is kept (log entry 21). -/
def lapRider (reel h : Nat) (s : State) : State :=
  match (s.station h).bind Station.sub, (s.reel reel).cfg with
  | some b, some cfg =>
    let dest := if b.mode = .follow then cfg.newest else cfg.oldest
    let s1 := match dest with
      | some n => s.modSub h (fun b => { b with cursor := some n })
      | none => s
    seekAndTake true h s1
  | _, _ => s

/-- A delivery is lapped (R156). -/
def lapDelivery (d : Nat) (s : State) : State :=
  match s.delivery d with
  | none => s
  | some v =>
    let s1 := (freeDelivery d s).modRadio v.radio (fun x => { x with rep := { x.rep with lapped := bump x.rep.lapped } })
    servePlaces v.radio (v.riders.foldl (fun s h => lapRider v.reel h s) s1)

/-- The deliveries of a radio are abandoned as it leaves service or is reset: its waiting list is emptied first, and the
part places freed go to the other radios (R157). -/
def loseDeliveries (r : Nat) (s : State) : State :=
  let ds := (s.replay.deliveries.filter (fun e => decide (e.2.radio = r))).map Prod.fst
  ds.foldl (fun s d => serveOthers r (dropDelivery d s)) (s.setWaitList r [])

/-! ### Waking (R158) -/

/-- Every IDLE station of a reel seeks again, in order of station handle (R158). -/
def wakeReel (reel : Nat) (s : State) : State :=
  let hs := (s.stations.filter (fun e => match e.2.sub with
    | some b => decide (b.reel = reel ∧ b.rider = some .idle)
    | none => false)).map Prod.fst
  hs.foldl (fun s h =>
    let s1 := seekAndTake true h s
    if ((s1.station h).bind Station.sub).bind Sub.rider = some .idle then s1
    else s1.modReplayCtrs (fun k => { k with wakes := bump k.wakes })) s

end Sys2Proof.Machine
end

