-- ==== Sys2Proof/Machine/Stations.lean ====
section
/-! DEFINITION. Station records (01_station_table.md): standing and class, setting and removing a binding, and the release
marks a record carries in the roam engine. -/

namespace Sys2Proof.Machine

/-! ### Standing and class (R13, R14) -/

/-- The class a record derives (R14). -/
def Station.derived (st : Station) : Cls :=
  if st.pinned then .admission
  else if st.binding.map Binding.tier = some .staff then .admission
  else if st.standing = .inZone then .fan
  else .visitor

/-- The class is derived anew: applied at once while no frame of the station lies in egress, otherwise deferred (R14). -/
def Station.rederive (st : Station) : Station :=
  if st.derived = st.cls then { st with pendingCls := none }
  else if st.egress = 0 then { st with cls := st.derived, pendingCls := none }
  else { st with pendingCls := some st.derived }

/-- The standing of a record that holds a binding or has lost it, from its current radio's zone (R13). -/
def State.standingOf (s : State) (st : Station) : Standing :=
  match st.binding with
  | none => .unbound
  | some b =>
    match st.current.bind (fun r => (s.radio r).cfg) with
    | some c => if permits b.permit c.zone then .inZone else .outOfZone
    | none => .outOfZone

/-- Standing is recomputed; a standing other than BOUND_IN_ZONE removes the subscription; the class is derived anew (R13,
R14). -/
def recompute (h : Nat) (s : State) : State :=
  match s.station h with
  | none => s
  | some st =>
    let standing := s.standingOf st
    let s1 := s.setStation h { st with standing := standing }
    let s2 := if standing = .inZone then s1 else removeSub h s1
    s2.modStation h Station.rederive

/-- A binding is set on a record (R13, R123). -/
def setBinding (h : Nat) (b : Binding) (s : State) : State :=
  recompute h (s.modStation h (fun st => { st with binding := some b }))

/-! ### Unbinding (R120) -/

/-- The record at `h` holds a binding that names the position (R120). -/
def State.holds (s : State) (h bucket way : Nat) : Bool :=
  match (s.station h).bind Station.binding with
  | some b => decide (b.bucket = bucket ∧ b.way = way)
  | none => false

/-- The station table is asked to unbind a handle from a position (R120): with effect only while that record's binding
names the position. -/
def unbind (h bucket way : Nat) (s : State) : State :=
  if s.holds h bucket way then
    recompute h ((s.modStation h (fun st => { st with binding := none })).modAdmCtrs
      (fun k => { k with unbinds := bump k.unbinds }))
  else s.modAdmCtrs (fun k => { k with unbindsNoEffect := bump k.unbindsNoEffect })

/-! ### Release marks (R39) -/

def clearMark (h : Nat) (s : State) : State := s.modRoam (fun m => { m with marks := m.marks.del h })

def setMark (h radio : Nat) (s : State) : State := s.modRoam (fun m => { m with marks := m.marks.put h radio })

/-- The marks naming a radio are cleared as it leaves service or is reset (R39, R42). -/
def clearMarksOf (radio : Nat) (s : State) : State :=
  s.modRoam (fun m => { m with marks := m.marks.filter (fun e => decide (e.2 ≠ radio)) })

/-! ### A radio's station count (R17) -/

def moreStations (r : Nat) (s : State) : State := s.modRadio r (fun x => { x with stations := x.stations + 1 })

def lessStations (r : Nat) (s : State) : State := s.modRadio r (fun x => { x with stations := x.stations - 1 })

end Sys2Proof.Machine
end

