-- ==== Sys2Proof/Machine/Roam.lean ====
section
/-! DEFINITION. The roam engine (02_roaming_and_handoff.md): hold queues, recall and drain, DETACH and KEEP, handoffs and
their ends, ping-pong and damping, joining, parting and the removal of a record. -/

namespace Sys2Proof.Machine

/-! ### Hold queues (R26, R27) -/

/-- A frame dropped from a hold queue: counted, and HOLD_OVERFLOW raised for the station (R26). -/
def holdOverflow (h : Nat) (radio : Option Nat) (f : Frame) (s : State) : State :=
  occur { cls := .holdOverflow, radio := radio, handle := some h, frame := some (f.offered 0) }
    (s.modRoamCtrs (fun k => { k with holdOverflow := bump k.holdOverflow }))

/-- A downstream frame joins the hold queue of the record at `h`, under the limits of R26. -/
def hold (h : Nat) (f : Frame) (s : State) : State :=
  match s.station h with
  | none => s
  | some st =>
    if s.holdUsed < Config.holdPool ∧ st.hold.length < Config.holdLimit then
      s.setStation h { st with hold := st.hold ++ [f] }
    else
      match st.hold with
      | [] => holdOverflow h st.current f s
      | oldest :: rest => holdOverflow h st.current oldest (s.setStation h { st with hold := rest ++ [f] })

/-- Frames are dropped from the head of a hold queue until both limits are met, `n` of them at most (R27). -/
def trimHold (h : Nat) : Nat → State → State
  | 0, s => s
  | n + 1, s =>
    match s.station h with
    | none => s
    | some st =>
      match st.hold with
      | [] => s
      | oldest :: rest =>
        if Config.holdLimit < st.hold.length ∨ Config.holdPool < s.holdUsed then
          trimHold h n (holdOverflow h st.current oldest (s.setStation h { st with hold := rest }))
        else s

/-- A station's unsent frames are recalled from a radio's class lists to the head of its hold queue (R27). -/
def recallFrames (h r : Nat) (s : State) : State :=
  let (fs, s1) := takeFromRadio h r s
  if fs = [] then s1
  else
    let s2 := s1.modStation h (fun st =>
      { st with egress := st.egress - fs.length, hold := fs ++ st.hold }.applyPending)
    let s3 := s2.modRoamCtrs (fun k => { k with recalled := bumpBy k.recalled fs.length })
    trimHold h (((s3.station h).map (fun st => st.hold.length)).getD 0) s3

/-! ### Drains (R28, R29) -/

def leaveDrainList (h : Nat) (s : State) : State := s.modRoam (fun m => { m with drain := m.drain.filter (· ≠ h) })

def joinDrainList (h : Nat) (s : State) : State :=
  if s.roam.drain.contains h then s else s.modRoam (fun m => { m with drain := m.drain ++ [h] })

/-- The frames at the head of a hold queue are offered to the current radio's class list in turn, `n` of them at most; a
declined one stops the drain (R28). A refused one is dropped as R46 says. -/
def drainFrames (h : Nat) : Nat → State → State
  | 0, s => s
  | n + 1, s =>
    match s.station h with
    | none => s
    | some st =>
      match st.hold, st.current with
      | f :: rest, some r =>
        match offer .declinable r st.cls f s with
        | (.declined, s1) => s1
        | (_, s1) => drainFrames h n (s1.modStation h (fun st => { st with hold := rest }))
      | _, _ => s

/-- A drain of an ATTACHED record (R28): a queue left with frames joins the drain list, an emptied one leaves it. -/
def drain (h : Nat) (s : State) : State :=
  match s.station h with
  | none => s
  | some st =>
    if st.state = .attached ∧ st.hold ≠ [] then
      let s1 := drainFrames h st.hold.length s
      if ((s1.station h).map Station.hold).getD [] = [] then leaveDrainList h s1 else joinDrainList h s1
    else s

/-- The drain list is served from head to tail (R29). -/
def serveDrainList (s : State) : State := s.roam.drain.foldl (fun s h => drain h s) s

/-! ### DETACH and KEEP (R30) -/

/-- DETACH or KEEP is sent to a radio; answers whether egress accepted it, a lost one being counted (R30, R46). -/
def sendRoam (code : Byte) (station : Addr) (r : Nat) (s : State) : Bool × State :=
  match offerService r station code [] s with
  | (.accepted, s1) => (true, s1)
  | (_, s1) => (false, s1.modRoamCtrs (fun k => { k with lostMessages := bump k.lostMessages }))

/-! ### Handoffs (R31 to R38) -/

/-- The detach timer stops and the roam context is dropped. -/
def dropContext (h : Nat) (s : State) : State := s.modRoam (fun m => { m with ctxs := m.ctxs.del h })

/-- An UNATTACHED record without a pin has a linger deadline of now plus the linger time (R8). -/
def State.lingerFrom (s : State) (st : Station) : Option Time :=
  if st.pinned then none else some (s.venueTime + s.lingerUs)

/-- A ping-pong raises the count; at the threshold the station is damped and the count is 0 again (R40). -/
def countPingPong (h : Nat) (s : State) : State :=
  match s.station h with
  | none => s
  | some st =>
    if s.roam.settings.threshold ≤ st.pingPong + 1 then
      (s.setStation h { st with
        pingPong := 0, damped := some (s.venueTime + usec (s.roam.settings.dampingS * 1000000)) }).modRoamCtrs
        (fun k => { k with damped := bump k.damped })
    else s.setStation h { st with pingPong := st.pingPong + 1 }

/-- Now minus a time is at most the ping-pong window (R40). -/
def State.withinWindow (s : State) (since : Time) : Bool :=
  decide (elapsed s.venueTime since ≤ s.roam.settings.windowS * 1000000)

/-- The ping-pong rule at a completion on radio `y` (R40). -/
def pingPongAtCompletion (h y : Nat) (s : State) : State :=
  match s.station h with
  | none => s
  | some st =>
    match st.previous, st.lastRoam with
    | some p, some t => if p = y ∧ s.withinWindow t then countPingPong h s else s.setStation h { st with pingPong := 0 }
    | _, _ => s.setStation h { st with pingPong := 0 }

/-- The ping-pong rule at a cancellation of the handoff that began at `start` (R40). -/
def pingPongAtCancel (h : Nat) (start : Time) (s : State) : State :=
  if s.withinWindow start then countPingPong h s else s

/-- A handoff begins with a JOIN from `y` for a record ATTACHED to `x` (R31). -/
def beginHandoff (h x y : Nat) (s : State) : State :=
  match s.station h with
  | none => s
  | some st =>
    let now := s.venueTime
    let s1 := s.setStation h { st with state := .handoff, target := some y }
    let (sent, s2) := sendRoam codeDetach st.addr x s1
    let s3 := s2.modRoam (fun m => { m with
      ctxs := m.ctxs.put h
        { old := x, target := y, start := now, deadline := now + usec (m.settings.detachMs * 1000), sent := sent }
      ctrs := { m.ctrs with started := bump m.ctrs.started } })
    clearMark h (pauseSub h (recallFrames h x (leaveDrainList h s3)))

/-- A damped station's JOIN from another radio is declined (R32). -/
def declineRoam (h y : Nat) (s : State) : State :=
  match s.station h with
  | none => s
  | some st =>
    (setMark h y (sendRoam codeDetach st.addr y s).2).modRoamCtrs (fun k => { k with declined := bump k.declined })

/-- A handoff from `x` to `y` completes (R33). -/
def completeHandoff (h x y : Nat) (s : State) : State :=
  let s1 := pingPongAtCompletion h y (dropContext h s)
  let s2 := s1.modStation h (fun st => { st with
    previous := some x, lastRoam := some s.venueTime, current := some y, target := none, state := .attached })
  drain h (resumeSub h (recompute h (moreStations y (lessStations x s2))))

/-- A JOIN from the old radio `x` cancels the handoff (R37). -/
def cancelHandoff (h x y : Nat) (s : State) : State :=
  match s.station h, s.roam.ctxs.find h with
  | some st, some ctx =>
    let s1 := pingPongAtCancel h ctx.start (sendRoam codeKeep st.addr x (dropContext h s)).2
    let s2 := s1.modStation h (fun st => { st with
      previous := some y, lastRoam := some s.venueTime, target := none, state := .attached })
    (drain h (resumeSub h (setMark h x s2))).modRoamCtrs (fun k => { k with cancelled := bump k.cancelled })
  | _, _ => s

/-- A JOIN from a third radio makes it the target (R37). -/
def retarget (h z : Nat) (s : State) : State :=
  (s.modStation h (fun st => { st with target := some z })).modRoam (fun m => { m with
    ctxs := match m.ctxs.find h with
      | some ctx => m.ctxs.put h { ctx with target := z }
      | none => m.ctxs
    ctrs := { m.ctrs with retargeted := bump m.ctrs.retargeted } })

/-- A record in HANDOFF is left on no radio: its old radio's station count falls and its linger runs unless pinned (R38,
R42). -/
def endUnattached (h x : Nat) (s : State) : State :=
  lessStations x ((dropContext h s).modStation h (fun st => { st with
    state := .unattached, current := none, target := none, linger := s.lingerFrom st }))

/-- A PART from the target ends the handoff (R38). -/
def endByTargetPart (h x : Nat) (s : State) : State :=
  (setMark h x (endUnattached h x s)).modRoamCtrs (fun k => { k with endedByTargetPart := bump k.endedByTargetPart })

/-- A handoff is ended on its old radio `x` by the loss of its target (R42). -/
def endOnOld (h x : Nat) (s : State) : State :=
  match s.station h with
  | none => s
  | some st =>
    let s1 := setMark h x (sendRoam codeKeep st.addr x (dropContext h s)).2
    let s2 := s1.modStation h (fun st => { st with target := none, state := .attached })
    drain h (resumeSub h (recompute h s2))

/-- One handoff in which the lost radio takes part is resolved (R42). -/
def resolveOne (lost h : Nat) (s : State) : State :=
  match s.station h with
  | none => s
  | some st =>
    match st.state, st.current, st.target with
    | .handoff, some x, some t =>
      let counted := s.modRoamCtrs (fun k => { k with resolvedByLoss := bump k.resolvedByLoss })
      if lost = x then
        if s.inService t then completeHandoff h x t counted else endUnattached h x counted
      else if lost = t then
        if s.inService x then endOnOld h x counted else endUnattached h x counted
      else s
    | _, _, _ => s

/-- Every handoff in which a lost radio takes part is resolved, in order of station handle, and the marks naming the radio
are cleared (R42). -/
def resolveHandoffs (lost : Nat) (s : State) : State :=
  clearMarksOf lost ((s.roam.ctxs.map Prod.fst).foldl (fun s h => resolveOne lost h s) s)

/-! ### Joining and parting (R5 to R7) -/

/-- A new record ATTACHED to radio `r` (R5), or UNATTACHED and pinned (R11). -/
def createStation (a : Addr) (h : Nat) (r : Nat) (s : State) : State :=
  (moreStations r (s.setStation h { addr := a, state := .attached, current := some r })).modStationCtrs
    (fun k => { k with created := bump k.created })

/-- An UNATTACHED record is attached by a JOIN (R5). -/
def attach (h r : Nat) (s : State) : State :=
  let s1 := s.modStation h (fun st => { st with state := .attached, current := some r, linger := none })
  resumeSub h (drain h (recompute h (moreStations r (clearMark h s1))))

/-- A PART from the current radio of an ATTACHED record (R7). -/
def detachStation (h r : Nat) (s : State) : State :=
  let s1 := pauseSub h (recallFrames h r (leaveDrainList h s))
  lessStations r (s1.modStation h (fun st => { st with
    state := .unattached, current := none, linger := s.lingerFrom st }))

/-- A JOIN for the record at `h` from the IN_SERVICE radio `y` (R5, R6, R31, R32, R37). -/
def joinRecord (h y : Nat) (s : State) : State :=
  match s.station h with
  | none => s
  | some st =>
    match st.state, st.current with
    | .unattached, _ => attach h y s
    | .attached, some x =>
      if x = y then s
      else if st.damped.isSome then declineRoam h y s
      else beginHandoff h x y s
    | .handoff, some x =>
      if st.target = some y then s
      else if x = y then cancelHandoff h x (st.target.getD y) s
      else retarget h y s
    | _, none => s

/-! ### Removal of a record (R9) -/

/-- A record is removed (R9): by linger, or under CLEAR_FANS, where `keep` has KEEP sent to the old radio of a record in
HANDOFF. -/
def removeRecord (keep : Bool) (h : Nat) (s : State) : State :=
  match s.station h with
  | none => s
  | some st =>
    let s1 := match st.state, st.current with
      | .handoff, some x =>
        let s1 := dropContext h s
        if keep then (sendRoam codeKeep st.addr x s1).2 else s1
      | _, _ => s
    let s2 := match st.current with
      | some x => lessStations x s1
      | none => s1
    let s3 := clearMark h (leaveDrainList h (removeSub h s2))
    let (n, s4) := discardQueued h s3
    (s4.delStation h).modStationCtrs (fun k => { k with
      queuedDiscarded := bumpBy k.queuedDiscarded n
      heldDiscarded := bumpBy k.heldDiscarded st.hold.length })

end Sys2Proof.Machine
end

