-- ==== Sys2Proof/Machine/Service.lean ====
section
/-! DEFINITION. A radio leaving service (R20, R21), strikes and quarantine (R178 step 5, R179), and the error every block
raises. -/

namespace Sys2Proof.Machine

/-- A record ATTACHED to a lost radio becomes UNATTACHED; its subscription, if ACTIVE, becomes PAUSED, and its part in the
radio's deliveries ends with them (R20, R157). -/
def Station.loseRadio (linger : Option Time) (st : Station) : Station :=
  { st with
    state := .unattached, current := none, linger := linger
    sub := st.sub.map (fun b => { b with rider := none }) }

/-- The handles of the records ATTACHED to a radio. -/
def State.attachedTo (s : State) (r : Nat) : List Nat :=
  (s.stations.filter (fun e => decide (e.2.state = .attached ∧ e.2.current = some r))).map Prod.fst

/-- The stations ATTACHED to a radio are detached as it is lost; a drain stops and leaves the drain list (R20, R28). -/
def detachAll (r : Nat) (s : State) : State :=
  (s.attachedTo r).foldl (fun s h =>
    (leaveDrainList h s).modStation h (fun st => st.loseRadio (s.lingerFrom st))) s

/-- The counts of a lost radio become 0 (R20). -/
def zeroCounts (r : Nat) (s : State) : State := s.modRadio r (fun x => { x with stations := 0, subscribers := 0 })

/-- What R20 and R21 share: stations detached, handoffs resolved, counts 0, class lists purged, deliveries abandoned. -/
def detachRadio (r : Nat) (s : State) : State :=
  loseDeliveries r (purge r (zeroCounts r (resolveHandoffs r (detachAll r s))))

/-- A radio goes from IN_SERVICE to QUARANTINED or DISABLED (R20); the governor removes its waiting classes and wake time
(R61). -/
def leaveService (r : Nat) (new : RadioState) (s : State) : State :=
  (detachRadio r (s.modRadio r (fun x => { x with state := new, noted := false }))).modRadio r
    (fun x => { x with waiting := [], wake := none })

/-- The QUARANTINE notice: the radio, the class that reached the threshold, the strike count, the venue time (R179). -/
def quarantineNotice (r : Nat) (c : ErrClass) (s : State) : State :=
  notice .quarantine (be 1 r ++ be 1 c.code ++ be 2 (s.radio r).strikes ++ be 6 s.venueTime.toNat) s

/-- A radio is quarantined (R179): the occurrences its steps raise are taken after it has been made. -/
def quarantine (r : Nat) (c : ErrClass) (s : State) : State :=
  let s1 := leaveService r .quarantined { s with ev := { s.ev with deferring := true } }
  let s2 := quarantineNotice r c s1
  let s3 := { s2 with err := { s2.err with quarantines := bump s2.err.quarantines } }
  let late := s3.ev.deferred
  late.foldl (fun s o => takeOccurrence o s) { s3 with ev := { s3.ev with deferring := false, deferred := [] } }

/-- A strike against radio `r` for class `c` (R179). -/
def strike (r : Nat) (c : ErrClass) (s : State) : State :=
  if s.inService r then
    let n := min ((s.radio r).strikes + 1) 255
    let s1 := s.modRadio r (fun x => { x with strikes := n })
    if s.err.threshold ≤ n then quarantine r c s1 else s1
  else s

/-- An occurrence of an error class, with the strike it charges (R178 steps 1 to 5). -/
def raiseError (o : Occurrence) (s : State) : State :=
  let e := s.errState o.cls
  let s1 := occur o s
  match o.radio with
  | some r => if !e.masked && o.cls.quarantinable && e.quarantine then strike r o.cls s1 else s1
  | none => s1

/-- RADIO_RESET of a radio that is not ABSENT (R21); its governor counters are cleared too (04, table of
counters). A QUARANTINED radio becomes IN_SERVICE, so its port's arbiter is asked
to run (R53). -/
def resetRadio (r : Nat) (s : State) : State :=
  let was := (s.radio r).state
  let s1 := detachRadio r s
  let s2 := s1.modRadio r (fun x =>
    { s1.gov.initCredit s1.venueTime x with
      strikes := 0
      drops := {}
      gov := {}
      noted := false
      state := if was = .disabled then .disabled else .inService })
  if was = .quarantined then s2.askRadio r else s2

end Sys2Proof.Machine
end

