-- ==== Sys2Proof/Machine/Replies.lean ====
section
/-! DEFINITION. Replies (R170, R171): the reply frame of the directive at the head, which leaves the queue as it is sent. -/

namespace Sys2Proof.Machine

def State.modMgmt (s : State) (f : Mgmt → Mgmt) : State := { s with mgmt := f s.mgmt }

def State.modMgmtCtrs (s : State) (f : MgmtCtrs → MgmtCtrs) : State :=
  { s with mgmt := { s.mgmt with ctrs := f s.mgmt.ctrs } }

/-- The replies counter of a status (R171, R176). -/
def MgmtCtrs.replied (k : MgmtCtrs) : Status → MgmtCtrs
  | .done => { k with done := bump k.done }
  | .accepted => { k with accepted := bump k.accepted }
  | .busy => { k with busy := bump k.busy }
  | .state => { k with state := bump k.state }
  | .range => { k with range := bump k.range }
  | .frozen => { k with frozen := bump k.frozen }
  | .invalidContext => { k with invalidContext := bump k.invalidContext }
  | .unknownDirective => { k with unknownDirective := bump k.unknownDirective }

/-- What a directive's owner answers it with. -/
structure Answer where
  status : Status
  body : List Byte := []
  deriving DecidableEq, Repr

/-- The reply to the directive at the head of the queue is sent from the management address in force, and the directive
leaves the queue (R170, R171). -/
def reply (a : Answer) (s : State) : State :=
  match s.mgmt.queue with
  | [] => s
  | e :: rest =>
    let s1 := s.sendUplink (.reply e.src s.mgmt.address e.dir.kind e.tag a.status a.body)
    s1.modMgmt (fun m => { m with queue := rest, started := false, ctrs := m.ctrs.replied a.status })

end Sys2Proof.Machine
end

