-- ==== Sys2Proof/Machine/Admission.lean ====
section
/-! DEFINITION. The admission engine (05, 06 and 07): the redemption map and occupancy, the scan queue, fetch slots and busy
buckets, deciding scans and check-ins, the operations of the credential directives, and the void sweep. -/

namespace Sys2Proof.Machine

/-! ### Positions, occupancy and bindings (R84 to R89) -/

/-- The position of a bucket and way (R84). -/
def posOf (bucket way : Nat) : Nat := bucket * 4 + way

def raiseOccupancy (z : Nat) (s : State) : State := s.setOccupancy z (s.occupancy z + 1)

def lowerOccupancy (z : Nat) (s : State) : State := s.setOccupancy z (s.occupancy z - 1)

def State.modEntry (s : State) (p : Nat) (f : MapEntry → MapEntry) : State := s.setEntry p (f (s.entry p))

/-- The bound handle of an entry that leaves ADMITTED is removed and the record at it asked to unbind (R89). -/
def releaseBinding (p : Nat) (s : State) : State :=
  match (s.entry p).bound with
  | none => s
  | some h => unbind h (p / 4) (p % 4) (s.modEntry p (fun e => { e with bound := none }))

/-- An entry in ADMITTED takes another state: the occupancy of its home zone falls and its binding is released (R88, R89). -/
def leaveAdmitted (p : Nat) (new : EntryState) (s : State) : State :=
  releaseBinding p (lowerOccupancy (s.entry p).home (s.modEntry p (fun e => { e with state := new })))

/-- An entry becomes VOID (R97, R109). -/
def voidEntry (p : Nat) (s : State) : State :=
  if (s.entry p).state = .admitted then leaveAdmitted p .void s else s.modEntry p (fun e => { e with state := .void })

/-- The entry of a position becomes ADMITTED (R99). -/
def admitIn (p : Nat) (s : State) : State :=
  raiseOccupancy (s.entry p).home (s.modEntry p (fun e => { e with state := .admitted }))

/-! ### Checks and matching (R86, R87) -/

/-- The positions of `n` buckets from `bucket` on. -/
def positionsFrom (bucket n : Nat) : List Nat := (List.range (4 * n)).map (fun i => 4 * bucket + i)

/-- The check set: the positions whose entry is neither FREE nor faulty (R87, R161). -/
def State.checkSet (s : State) (ps : List Nat) : List Nat :=
  ps.filter (fun p => decide ((s.entry p).state ≠ .free) && !(s.entry p).faulty)

/-- A way whose record failed its check becomes faulty, and RECORD_FAULT is raised (R87). -/
def markFaulty (p : Nat) (s : State) : State :=
  occur { cls := .recordFault, place := some (p / 4, p % 4) }
    ((s.modEntry p (fun e => { e with faulty := true })).modAdmCtrs (fun k => { k with faultyFound := bump k.faultyFound }))

/-- The check results of a completed read are applied (R87, R109), in order of position (log entry 28). -/
def applyChecks (check : List Nat) (s : State) : State :=
  let (bad, s1) := failedChecks check s
  bad.foldl (fun s p => markFaulty p s) s1

/-- The result of a match (R86). -/
inductive Match where
  | found (way : Nat)
  | fault
  | unknown
  deriving DecidableEq, Repr

/-- The credential sought among the ways of its bucket (R86). -/
def State.matchCode (s : State) (bucket : Nat) (code : Word64) : Match :=
  let ways := [0, 1, 2, 3]
  match ways.find? (fun w =>
    let e := s.entry (posOf bucket w)
    decide (e.state ≠ .free) && !e.faulty && decide ((s.cred (posOf bucket w)).code = code)) with
  | some w => .found w
  | none => if ways.any (fun w => (s.entry (posOf bucket w)).faulty) then .fault else .unknown

/-! ### Busy buckets, pending lists, fetch slots (R91, R92) -/

def ItemStage.slot : ItemStage → Option Nat
  | .waiting => none
  | .fetching k => some k
  | .writing k => some k

/-- A request at the controller covers a bucket (R91). -/
def Request.covers (r : Request) (b : Nat) : Bool :=
  match r with
  | .fetch b' _ _ => decide (b' = b)
  | .writeBack p _ _ => decide (p / 4 = b)
  | .stride b' _ => decide (b' ≤ b ∧ b < b' + Config.strideBuckets)
  | _ => false

/-- The stride in flight covers a bucket (R106). -/
def Sweep.covers (w : Sweep) (b : Nat) : Bool :=
  w.stride.isSome && decide (w.pointer ≤ b ∧ b < w.pointer + Config.strideBuckets)

/-- A work item or the directive operation has taken a bucket (R91). -/
def Admission.holdsBucket (a : Admission) (b : Nat) : Bool :=
  a.items.any (fun i => i.stage.slot.isSome && decide (i.bucket = b))
    || (match a.op with
      | some o => decide (o.stage ≠ .waiting ∧ o.bucket = b)
      | none => false)

/-- A bucket is busy (R91). -/
def State.bucketBusy (s : State) (b : Nat) : Bool :=
  s.adm.holdsBucket b || s.adm.sweep.covers b || s.mem.all.any (fun t => t.marked && t.req.covers b)

/-- The serial of the head of a bucket's pending list: the earliest of its WAITING items and its waiting operation (R91). -/
def Admission.pendingHead (a : Admission) (b : Nat) : Option Nat :=
  let items := (a.items.filter (fun i => decide (i.stage = .waiting ∧ i.bucket = b))).map WorkItem.serial
  let op := match a.op with
    | some o => if o.stage = .waiting ∧ o.bucket = b then [o.serial] else []
    | none => []
  minOf (items ++ op)

/-- The fetch slots in use (R92). -/
def Admission.slotsInUse (a : Admission) : List Nat := a.items.filterMap (fun i => i.stage.slot)

/-- The lowest-numbered free fetch slot. -/
def Admission.freeSlot (a : Admission) : Option Nat :=
  (List.range Config.fetchSlots).find? (fun k => !a.slotsInUse.contains k)

/-- A work item may take a slot: WAITING, at the head of its pending list, its bucket not busy (R92). -/
def State.mayFetch (s : State) (i : WorkItem) : Bool :=
  decide (i.stage = .waiting) && decide (s.adm.pendingHead i.bucket = some i.serial) && !s.bucketBusy i.bucket

/-- Changes the item with a serial. -/
def Admission.modItem (a : Admission) (n : Nat) (f : WorkItem → WorkItem) : Admission :=
  { a with items := a.items.map (fun i => if i.serial = n then f i else i) }

/-- A work item takes a fetch slot and its fetch is sent (R92). -/
def takeSlot (i : WorkItem) (k : Nat) (s : State) : State :=
  let s1 := s.modAdm (fun a => a.modItem i.serial (fun i => { i with stage := .fetching k }))
  (s1.modAdmCtrs (fun c => { c with fetches := bump c.fetches })).sendRequest
    (.fetch i.bucket (s.checkSet (positionsFrom i.bucket 1)) (.item i.serial))

/-- While a slot is free and items may take one, the oldest takes it (R92). -/
def grantSlots : Nat → State → State
  | 0, s => s
  | n + 1, s =>
    match s.adm.freeSlot, s.adm.items.find? s.mayFetch with
    | some k, some i => grantSlots n (takeSlot i k s)
    | _, _ => s

/-- An item completes: it leaves the queue, and its place, slot and bucket are freed (R90). -/
def completeItem (n : Nat) (s : State) : State :=
  (s.modAdm (fun a => { a with items := a.items.filter (fun i => decide (i.serial ≠ n)) })).lookForSlot

/-! ### Answers (R102, R122) -/

def VerdictCtrs.raised (k : VerdictCtrs) : Verdict → VerdictCtrs
  | .admitIn => { k with admitIn := bump k.admitIn }
  | .readmit => { k with readmit := bump k.readmit }
  | .duplicate => { k with duplicate := bump k.duplicate }
  | .wrongGate => { k with wrongGate := bump k.wrongGate }
  | .void => { k with void := bump k.void }
  | .unknown => { k with unknown := bump k.unknown }
  | .exitOk => { k with exitOk := bump k.exitOk }
  | .notInside => { k with notInside := bump k.notInside }
  | .fault => { k with fault := bump k.fault }
  | .retry => { k with retry := bump k.retry }
  | .closed => { k with closed := bump k.closed }

/-- A VERDICT's body: scanner, verdict, code, first-entry presence, gate and time (R102, R185). -/
def verdictBody (scanner : Byte) (v : Verdict) (code : Word64) (first : Option GateTime) : List Byte :=
  scanner :: (be 1 v.code ++ be 8 code.toNat ++ GateTime.bytes first)

/-- A VERDICT is made and offered to the gate radio (R102). -/
def sendVerdict (radio : Nat) (station : Addr) (scanner : Byte) (code : Word64) (v : Verdict) (first : Option GateTime)
    (s : State) : State :=
  (offerService radio station codeVerdict (verdictBody scanner v code first)
    (s.modAdmCtrs (fun k => { k with verdicts := k.verdicts.raised v }))).2

def AdmCtrs.checkinResult (k : AdmCtrs) : CheckinResult → AdmCtrs
  | .accepted => { k with ciAccepted := bump k.ciAccepted }
  | .notInside => { k with ciNotInside := bump k.ciNotInside }
  | .unknown => { k with ciUnknown := bump k.ciUnknown }
  | .boundElsewhere => { k with ciElsewhere := bump k.ciElsewhere }
  | .fault => { k with ciFault := bump k.ciFault }
  | .retry => { k with ciRetry := bump k.ciRetry }

/-- A CHECKIN_REPLY is made and offered to the radio the CHECKIN came through (R118, R122). -/
def sendCheckinReply (radio : Nat) (station : Addr) (r : CheckinResult) (s : State) : State :=
  (offerService radio station codeCheckinReply (be 1 r.code) (s.modAdmCtrs (fun k => k.checkinResult r))).2

/-! ### Deciding a scan (R98 to R101) -/

/-- What the evaluation of a found scan gives: the verdict, the record written back and the state with the entry changed. -/
structure Evaluated where
  verdict : Verdict
  cred : Cred
  state : State

/-- An ENTRY scan whose credential is found (R99). -/
def evaluateEntry (p zone : Nat) (at_ : GateTime) (s : State) : Evaluated :=
  let r := { s.cred p with last := some at_ }
  let e := s.entry p
  if !permits r.permit zone then ⟨.wrongGate, r, s⟩
  else
    match e.state with
    | .issued => ⟨.admitIn, { r with first := some at_ }, admitIn p s⟩
    | .admitted => ⟨.duplicate, r, s⟩
    | .exited =>
      if e.used < r.allowance then ⟨.readmit, r, admitIn p (s.modEntry p (fun e => { e with used := e.used + 1 }))⟩
      else ⟨.duplicate, r, s⟩
    | .void | .free => ⟨.void, r, s⟩

/-- An EXIT scan whose credential is found (R100). -/
def evaluateExit (p : Nat) (at_ : GateTime) (s : State) : Evaluated :=
  let r := { s.cred p with last := some at_ }
  match (s.entry p).state with
  | .admitted => ⟨.exitOk, r, leaveAdmitted p .exited s⟩
  | .issued | .exited => ⟨.notInside, r, s⟩
  | .void | .free => ⟨.void, r, s⟩

/-- The item of an evaluated scan becomes WRITING in its slot, and the write-back is sent (R98, R101). -/
def writeBackItem (i : WorkItem) (p : Nat) (r : Cred) (s : State) : State :=
  let s1 := s.modAdm (fun a => a.modItem i.serial (fun i => { i with stage := .writing (i.stage.slot.getD 0) }))
  (s1.modAdmCtrs (fun c => { c with writeBacks := bump c.writeBacks })).sendRequest (.writeBack p r (.item i.serial))

/-- A scan item is decided at its fetch's completion, the checks having been made (R98). -/
def decideScan (i : WorkItem) (dir : Direction) (scanner : Byte) (s : State) : State :=
  let answer := fun v => completeItem i.serial (sendVerdict i.radio i.station scanner i.code v none s)
  if dir = .entry ∧ s.adm.closed then answer .closed
  else
    match s.matchCode i.bucket i.code with
    | .fault => answer .fault
    | .unknown => answer .unknown
    | .found w =>
      let p := posOf i.bucket w
      let at_ : GateTime := ⟨i.radio, s.venueTime⟩
      let x := match dir with
        | .entry => evaluateEntry p i.zone at_ s
        | .exit => evaluateExit p at_ s
      let first := if x.verdict = .duplicate then x.cred.first else none
      writeBackItem i p x.cred (sendVerdict i.radio i.station scanner i.code x.verdict first x.state)

/-! ### Deciding a check-in (R118 to R123) -/

/-- Who holds the credential at a position (R119). -/
def State.holder (s : State) (p : Nat) : Option Nat :=
  match (s.entry p).bound with
  | some h => if s.holds h (p / 4) (p % 4) then some h else none
  | none => none

/-- The bound handle of another position that the requesting record's binding names is removed (R123 step 2). -/
def dropOldBound (h p : Nat) (s : State) : State :=
  match (s.station h).bind Station.binding with
  | some b =>
    let q := posOf b.bucket b.way
    if q ≠ p ∧ (s.entry q).bound = some h then s.modEntry q (fun e => { e with bound := none }) else s
  | none => s

/-- An ACCEPTED check-in binds the record at `h` to position `p`, whose record reads `r` (R123). -/
def bindStation (h p : Nat) (r : Cred) (s : State) : State :=
  let renewal := decide (s.holder p = some h)
  let s1 := match s.holder p with
    | some h' =>
      if h' = h then s
      else (unbind h' (p / 4) (p % 4) s).modAdmCtrs (fun k => { k with takeovers := bump k.takeovers })
    | none => s
  let s2 := (dropOldBound h p s1).modEntry p (fun e => { e with bound := some h })
  let s3 := setBinding h ⟨p / 4, p % 4, r.tier, r.permit, r.grant⟩ s2
  let s4 := if r.grant then s3 else removeSub h s3
  if renewal then s4 else s4.modAdmCtrs (fun k => { k with bindings := bump k.bindings })

/-- The holder of a position bars the requesting record: another record, ATTACHED or in HANDOFF (R118). -/
def State.heldElsewhere (s : State) (h p : Nat) : Bool :=
  match s.holder p with
  | some h' => decide (h' ≠ h ∧ (s.station h').map Station.state ≠ some .unattached)
  | none => false

/-- A check-in item is decided at its fetch's completion, the checks having been made (R118, R121). -/
def decideCheckin (i : WorkItem) (h : Nat) (s : State) : State :=
  if (s.station h).map Station.addr = some i.station then
    let answer := fun r s => completeItem i.serial (sendCheckinReply i.radio i.station r s)
    match s.matchCode i.bucket i.code with
    | .fault => answer .fault s
    | .unknown => answer .unknown s
    | .found w =>
      let p := posOf i.bucket w
      if (s.entry p).state ≠ .admitted then answer .notInside s
      else if s.heldElsewhere h p then answer .boundElsewhere s
      else answer .accepted (bindStation h p (s.cred p) s)
  else completeItem i.serial (s.modAdmCtrs (fun k => { k with abandoned := bump k.abandoned }))

/-- The fetch of a work item has completed (R98, R118). -/
def itemFetched (n : Nat) (check : List Nat) (s : State) : State :=
  match s.adm.items.find? (fun i => decide (i.serial = n)) with
  | none => s
  | some i =>
    let s1 := applyChecks check s
    match i.kind with
    | .scan dir scanner => decideScan i dir scanner s1
    | .checkin h => decideCheckin i h s1

/-! ### Arrival of scans and check-ins (R93, R117) -/

/-- A work item joins the scan queue WAITING, and a fetch slot is looked for (R90). -/
def addItem (kind : ItemKind) (code : Word64) (radio : Nat) (station : Addr) (s : State) : State :=
  let i : WorkItem :=
    { serial := s.adm.serial, kind := kind, code := code, bucket := credBucket code, radio := radio,
      zone := (((s.radio radio).cfg).map RadioCfg.zone).getD 0, station := station, time := s.venueTime, stage := .waiting }
  (s.modAdm (fun a => { a with items := a.items ++ [i], serial := a.serial + 1 })).lookForSlot

/-- The radio's role allows a direction (R93). -/
def State.roleAllows (s : State) (r : Nat) (d : Direction) : Bool :=
  match (s.radio r).cfg with
  | some c => c.role.allows d
  | none => false

/-- Steps 2 to 5 of R93 for a scan that passes step 1. -/
def takeScan (radio : Nat) (station : Addr) (code : Word64) (dir : Direction) (scanner : Byte) (frame : List Byte)
    (s : State) : State :=
  if !s.roleAllows radio dir then raiseError { cls := .gateRole, radio := some radio, frame := some frame } s
  else if dir = .entry ∧ s.adm.closed then sendVerdict radio station scanner code .closed none s
  else if Config.scanQueue ≤ s.adm.items.length then
    sendVerdict radio station scanner code .retry none (s.modAdmCtrs (fun k => { k with queueFull := bump k.queueFull }))
  else addItem (.scan dir scanner) code radio station s

/-- Steps 4 and 5 of R117 for a check-in whose sender has passed. -/
def takeCheckin (radio h : Nat) (station : Addr) (code : Word64) (s : State) : State :=
  if Config.scanQueue ≤ s.adm.items.length then
    sendCheckinReply radio station .retry (s.modAdmCtrs (fun k => { k with checkinsFull := bump k.checkinsFull }))
  else addItem (.checkin h) code radio station s

/-! ### Credential directives (R94 to R97) -/

/-- A position as an optional field: presence, bucket, way. -/
def placeBytes : Option Nat → List Byte
  | none => [0, 0, 0, 0]
  | some p => 1 :: (be 2 (p / 4) ++ be 1 (p % 4))

/-- A map entry: state, faulty, re-entries used, home zone, bound handle (R85, R96). -/
def MapEntry.bytes (e : MapEntry) : List Byte :=
  be 1 e.state.code ++ flagByte e.faulty ++ be 2 e.used ++ be 1 e.home ++ optField 2 e.bound

/-- Every field of a record except the check code (R96): 35 bytes. -/
def Cred.fields (c : Cred) : List Byte :=
  be 8 c.code.toNat ++ be 1 c.tier.code ++ be 8 c.permit.toNat ++ be 1 c.allowance ++ flagByte c.grant
    ++ GateTime.bytes c.first ++ GateTime.bytes c.last

/-- A directive operation is given a place in its bucket's pending list (R94). -/
def startOp (bucket : Nat) (job : CredJob) (s : State) : State :=
  (s.modAdm (fun a => { a with op := some ⟨a.serial, bucket, job, .waiting⟩, serial := a.serial + 1 })).lookForSlot

/-- The directive operation ends and frees its bucket (R92, R94). -/
def endOp (s : State) : State := (s.modAdm (fun a => { a with op := none })).lookForSlot

/-- The last operation of a directive ends, and its reply is sent (R94, R170). -/
def finishOp (a : Answer) (s : State) : State := reply a (endOp s)

/-- The CRED_LOAD reply: each record's status, and its position when LOADED or UPDATED (R95). -/
def loadReply (done : List (LoadStatus × Option Nat)) : Answer :=
  ⟨.done, be 1 done.length ++ done.flatMap (fun d => be 1 d.1.code ++ placeBytes d.2)⟩

def AdmCtrs.loadStatus (k : AdmCtrs) : LoadStatus → AdmCtrs
  | .updated => { k with updated := bump k.updated }
  | .fault => { k with loadFault := bump k.loadFault }
  | .loaded => { k with loaded := bump k.loaded }
  | .bucketFull => { k with bucketFull := bump k.bucketFull }

/-- The operation of one load record has ended: the next record's begins, or the reply is sent (R95). -/
def nextLoad (rest : List LoadRec) (done : List (LoadStatus × Option Nat)) (s : State) : State :=
  match rest with
  | [] => finishOp (loadReply done) s
  | r :: rs => startOp (credBucket r.code) (.load r rs done) (endOp s)

/-- The record CRED_LOAD writes for a new credential (R95). -/
def LoadRec.fresh (r : LoadRec) : Cred :=
  { code := r.code, tier := r.tierVal, permit := r.permit, allowance := r.allowance.toNat, grant := decide (r.grant = 1) }

/-- The record CRED_LOAD writes back for a credential found (R95). -/
def LoadRec.update (r : LoadRec) (c : Cred) : Cred :=
  { c with tier := r.tierVal, permit := r.permit, allowance := r.allowance.toNat, grant := decide (r.grant = 1) }

/-- The home zone of an UPDATED entry, with the occupancy of an ADMITTED one (R88, R95). -/
def moveHome (p home : Nat) (s : State) : State :=
  let e := s.entry p
  let s1 := s.modEntry p (fun e => { e with home := home })
  if e.state = .admitted then raiseOccupancy home (lowerOccupancy e.home s1) else s1

/-- The binding of the record that holds an UPDATED credential takes the new values; standing and class follow, and a grant
now clear removes the subscription (R95, R124). Without a current radio the standing is kept (R13). -/
def updateBinding (p : Nat) (c : Cred) (s : State) : State :=
  match s.holder p with
  | none => s
  | some h =>
    let s1 := s.modStation h (fun st => { st with
      binding := some ⟨p / 4, p % 4, c.tier, c.permit, c.grant⟩ })
    let s2 :=
      if ((s.station h).bind Station.current).isSome then recompute h s1 else s1.modStation h Station.rederive
    if c.grant then s2 else removeSub h s2

/-- The lowest-numbered FREE way of a bucket (R95). -/
def State.freeWay (s : State) (bucket : Nat) : Option Nat :=
  [0, 1, 2, 3].find? (fun w => decide ((s.entry (posOf bucket w)).state = .free))

/-- The operation writes its record back (R94). -/
def writeOp (p : Nat) (c : Cred) (job : CredJob) (s : State) : State :=
  (s.modAdm (fun a => { a with op := a.op.map (fun o => { o with job := job, stage := .writing }) })).sendRequest
    (.writeBack p c .op)

/-- A load record is decided on its bucket (R95). -/
def decideLoad (bucket : Nat) (r : LoadRec) (rest : List LoadRec) (done : List (LoadStatus × Option Nat)) (s : State) :
    State :=
  let counted := fun st => s.modAdmCtrs (fun k => k.loadStatus st)
  match s.matchCode bucket r.code with
  | .found w =>
    let p := posOf bucket w
    let c := r.update (s.cred p)
    writeOp p c (.load r rest (done ++ [(.updated, some p)]))
      (updateBinding p c (moveHome p r.home.toNat (counted .updated)))
  | .fault => nextLoad rest (done ++ [(.fault, none)]) (counted .fault)
  | .unknown =>
    match s.freeWay bucket with
    | some w =>
      let p := posOf bucket w
      writeOp p r.fresh (.load r rest (done ++ [(.loaded, some p)]))
        ((counted .loaded).setEntry p { state := .issued, home := r.home.toNat })
    | none => nextLoad rest (done ++ [(.bucketFull, none)]) (counted .bucketFull)

/-- CRED_READ by code is answered (R96): 1 found, 2 fault, 3 not found; then the position, an optional field (R190), which only a
credential found has, and for that one the map entry and the record's fields. -/
def readCodeAnswer (bucket : Nat) (code : Word64) (s : State) : Answer :=
  match s.matchCode bucket code with
  | .found w =>
    let p := posOf bucket w
    ⟨.done, [1] ++ placeBytes (some p) ++ (s.entry p).bytes ++ (s.cred p).fields⟩
  | .fault => ⟨.done, 2 :: placeBytes none⟩
  | .unknown => ⟨.done, 3 :: placeBytes none⟩

/-- CRED_READ by position is answered (R96): the entry, then the record's fields unless the entry is FREE or faulty. -/
def readPosAnswer (p : Nat) (s : State) : Answer :=
  let e := s.entry p
  if e.state = .free ∨ e.faulty then ⟨.done, e.bytes ++ be 36 0⟩ else ⟨.done, e.bytes ++ [1] ++ (s.cred p).fields⟩

/-- CRED_VOID is decided on its bucket (R97): 1 VOIDED, 2 VOIDED_INSIDE, 3 ALREADY_VOID, 4 FAULT, 5 NOT_FOUND. -/
def decideVoid (bucket : Nat) (code : Word64) (s : State) : State :=
  let counted := s.modAdmCtrs (fun k => { k with voids := bump k.voids })
  match s.matchCode bucket code with
  | .fault => finishOp ⟨.done, 4 :: placeBytes none⟩ s
  | .unknown => finishOp ⟨.done, 5 :: placeBytes none⟩ s
  | .found w =>
    let p := posOf bucket w
    match (s.entry p).state with
    | .admitted => finishOp ⟨.done, 2 :: placeBytes (some p)⟩ (voidEntry p counted)
    | .issued | .exited => finishOp ⟨.done, 1 :: placeBytes (some p)⟩ (voidEntry p counted)
    | .void | .free => finishOp ⟨.done, 3 :: placeBytes (some p)⟩ s

/-- CRED_ERASE_WAY takes its bucket and ends (R97). -/
def eraseWay (p : Nat) (s : State) : State :=
  let e := s.entry p
  let s1 := if e.state = .admitted then leaveAdmitted p .free s else s
  finishOp ⟨.done, e.bytes⟩ ((s1.setEntry p {}).modAdmCtrs (fun k => { k with erases := bump k.erases }))

/-- The directive operation's fetch has completed (R87, R95 to R97). -/
def opFetched (check : List Nat) (s : State) : State :=
  match s.adm.op with
  | none => s
  | some o =>
    let s1 := applyChecks check s
    match o.job with
    | .load r rest done => decideLoad o.bucket r rest done s1
    | .readCode code => finishOp (readCodeAnswer o.bucket code s1) s1
    | .readPos way => finishOp (readPosAnswer (posOf o.bucket way) s1) s1
    | .void code => decideVoid o.bucket code s1
    | .erase way => eraseWay (posOf o.bucket way) s1

/-- The directive operation's write-back has completed (R95). -/
def opWritten (s : State) : State :=
  match s.adm.op with
  | some ⟨_, _, .load _ rest done, _⟩ => nextLoad rest done s
  | _ => s

/-- The waiting operation takes its bucket when it is at the head of the pending list and the bucket is not busy (R92, R94). -/
def takeBucket (s : State) : State :=
  match s.adm.op with
  | none => s
  | some o =>
    if o.stage = .waiting ∧ s.adm.pendingHead o.bucket = some o.serial ∧ s.bucketBusy o.bucket = false then
      match o.job with
      | .erase way => eraseWay (posOf o.bucket way) s
      | _ =>
        (s.modAdm (fun a => { a with op := some { o with stage := .fetching } })).sendRequest
          (.fetch o.bucket (s.checkSet (positionsFrom o.bucket 1)) .op)
    else s

/-! ### The void sweep (R106 to R115) -/

/-- The claimed stride sends its read once no bucket of its range is held by an item or an operation and no stride request
is at the controller (R108, R161). -/
def sendStride (s : State) : State :=
  let w := s.adm.sweep
  if w.stride = some .claimed
      ∧ (List.range Config.strideBuckets).all (fun i => !s.adm.holdsBucket (w.pointer + i))
      ∧ s.mem.all.all (fun t => decide (t.req.kind ≠ .stride)) then
    (s.modSweep (fun w => { w with stride := some .reading })).sendRequest
      (.stride w.pointer (s.checkSet (positionsFrom w.pointer Config.strideBuckets)))
  else s

/-- The next stride is claimed (R108). -/
def claimStride (s : State) : State := (s.modSweep (fun w => { w with stride := some .claimed })).lookForSlot

/-- A selector matches an entry that is not faulty and its record (R109). -/
def Selector.matches (sel : Option Selector) (e : MapEntry) (tier : Tier) : Bool :=
  match sel with
  | some (.zone z) => decide (e.home = z)
  | some (.tier t) => decide (tier = t)
  | some .all => true
  | none => false

def EntryState.swept : EntryState → Bool
  | .issued | .admitted | .exited => true
  | _ => false

/-- One way of a stride: passed over, counted as faulty, voided, or left (R109 steps 2 and 3). -/
def sweepWay (p : Nat) (s : State) : State :=
  let e := s.entry p
  if !e.state.swept then s
  else if e.faulty then s.modSweep (fun w => { w with faultyPassed := w.faultyPassed + 1 })
  else if Selector.matches s.adm.sweep.selector e (s.cred p).tier then
    (voidEntry p s).modSweep (fun w => { w with
      voided := w.voided + 1
      voidedInside := if e.state = .admitted then w.voidedInside + 1 else w.voidedInside })
  else s

def SweepState.code : SweepState → Nat
  | .idle => 1 | .running => 2 | .suspended => 3

/-- A selector: its kind, then its value, 0 for ALL (R107). -/
def Selector.bytes : Selector → List Byte
  | .zone z => 1 :: be 1 z
  | .tier t => 2 :: be 1 t.code
  | .all => [3, 0]

/-- The three counts of a sweep. -/
def Sweep.counts (w : Sweep) : List Byte := be 4 w.voided ++ be 4 w.voidedInside ++ be 4 w.faultyPassed

/-- A SWEEP_SUSPEND reply: the sweep state, the pointer and the three counts (R112). -/
def Sweep.suspendBody (w : Sweep) : List Byte := be 1 w.state.code ++ be 2 w.pointer ++ w.counts

/-- The SWEEP_DONE notice (R110). -/
def sweepDone (s : State) : State :=
  let w := s.adm.sweep
  notice .sweepDone
    (((w.selector.map Selector.bytes).getD [0, 0]) ++ w.counts ++ be 6 w.startTime.toNat
      ++ be 6 ((w.endTime.map BitVec.toNat).getD 0)) s

/-- The sweep after a stride has ended: it ends, is suspended, or claims the next stride (R109 step 5, R110, R112). -/
def afterStride (s : State) : State :=
  let w := s.adm.sweep
  if w.pointer = Config.credBuckets then
    let s1 := s.modSweep (fun w => { w with state := .idle, endTime := some s.venueTime, suspendRequested := false })
    let s2 := sweepDone (s1.modAdmCtrs (fun k => { k with sweepsCompleted := bump k.sweepsCompleted }))
    if w.suspendRequested then reply ⟨.state, s2.adm.sweep.suspendBody⟩ s2 else s2
  else if w.suspendRequested then
    let s1 := s.modSweep (fun w => { w with state := .suspended, suspendRequested := false })
    reply ⟨.done, s1.adm.sweep.suspendBody⟩ s1
  else claimStride s

/-- A stride's read completes (R109): the ways are taken in order of position (log entry 28). -/
def strideRead (bucket : Nat) (check : List Nat) (s : State) : State :=
  let s1 := (positionsFrom bucket Config.strideBuckets).foldl (fun s p => sweepWay p s) (applyChecks check s)
  let s2 := s1.modSweep (fun w => { w with stride := none, pointer := w.pointer + Config.strideBuckets })
  afterStride ((s2.modAdmCtrs (fun k => { k with strides := bump k.strides })).lookForSlot)

/-! ### Looking for what can go on (R92, R94, R108) -/

/-- What a freed bucket or slot, or an arrival, lets go on: the claimed stride sends its read, the waiting operation takes its
bucket, and items take fetch slots (R92, R108). -/
def settle (s : State) : State :=
  if s.ev.look then
    let s1 := takeBucket (sendStride { s with ev := { s.ev with look := false } })
    grantSlots Config.fetchSlots s1
  else s

/-! ### Completions of the record memory (R164) -/

/-- The positions whose records a read checks: its check set (R161). -/
def Request.checked : Request → List Nat
  | .fetch _ check _ => check
  | .stride _ check => check
  | _ => []

/-- A marked read completes: the controller has checked its records and counted the failures, and the admission engine
discards the result, whose buckets become free (R105, R115, R165, R166; log entry 22). -/
def markedRead (t : Tagged) (s : State) : State := (failedChecks t.req.checked s).2.lookForSlot

/-- A credential fetch completes (R87, R98, R105, R118). -/
def fetchCompleted (t : Tagged) (s : State) : State :=
  if t.marked then markedRead t s
  else
    match t.req with
    | .fetch _ check (.item n) => itemFetched n check s
    | .fetch _ check .op => opFetched check s
    | _ => s

/-- A credential write-back completes (R95, R101, R105). -/
def writeBackCompleted (t : Tagged) (s : State) : State :=
  if t.marked then s.lookForSlot
  else
    match t.req with
    | .writeBack _ _ (.item n) => completeItem n s
    | .writeBack _ _ .op => opWritten s
    | _ => s

/-- A sweep stride read completes (R109, R115). -/
def strideCompleted (t : Tagged) (s : State) : State :=
  if t.marked then markedRead t s
  else
    match t.req with
    | .stride bucket check => strideRead bucket check s
    | _ => s

/-! ### Clearing redemptions and the zone restart (R105, R115, R116) -/

/-- An entry after CLEAR_REDEMPTIONS (R116 steps 1 and 2). -/
def MapEntry.cleared (e : MapEntry) : MapEntry :=
  if e.state = .admitted ∨ e.state = .exited then { e with state := .issued, used := 0, bound := none }
  else { e with bound := none }

/-- A bound record loses its binding at CLEAR_REDEMPTIONS (R116 step 4, R120). -/
def clearBinding (h : Nat) (s : State) : State :=
  recompute h ((s.modStation h (fun st => { st with binding := none })).modAdmCtrs
    (fun k => { k with unbinds := bump k.unbinds }))

/-- An accepted CLEAR_REDEMPTIONS, with its reply (R116): the bound stations are unbound one by one, in order of handle (log
entry 28). -/
def clearAll (s : State) : Answer × State :=
  let n := (s.adm.map.filter (fun e => decide (e.2.state = .admitted ∨ e.2.state = .exited))).length
  let hs := (s.stations.filter (fun e => e.2.binding.isSome)).map Prod.fst
  let s1 := s.modAdm (fun a => { a with map := a.map.mapVals {} MapEntry.cleared, occupancy := [] })
  let s2 := hs.foldl (fun s h => clearBinding h s) s1
  (⟨.done, be 4 n ++ be 2 hs.length⟩,
   s2.modAdmCtrs (fun k => { k with clears := bump k.clears, returned := bumpBy k.returned n }))

/-- A work item taken out by a zone restart is answered RETRY unless it is WRITING (R105). -/
def retryItem (i : WorkItem) (s : State) : State :=
  match i.stage, i.kind with
  | .writing _, _ => s
  | _, .scan _ scanner => sendVerdict i.radio i.station scanner i.code .retry none s
  | _, .checkin _ => sendCheckinReply i.radio i.station .retry s

/-- The sweep record at a zone restart (R115). -/
def Sweep.restarted (w : Sweep) : Sweep :=
  { w with
    state := if w.state = .running then .suspended else w.state
    stride := none
    suspendRequested := false }

end Sys2Proof.Machine
end

