-- ==== Sys2Proof/Machine/Ingest.lean ====
section
/-! DEFINITION. The clip store and reel ingest (08_clip_store_and_reel_ingest.md): slots and their generations, the three
reel frames, writes and their completions, and a reel's slots freed. -/

namespace Sys2Proof.Machine

/-! ### Slots and sequences (R129, R130) -/

def State.modSlot (s : State) (n : Nat) (f : Slot → Slot) : State := s.setSlot n (f (s.slot n))

/-- A slot's content is discarded: FREE, its generation up by 1, its other fields but the reel removed (R129). -/
def Slot.discarded (x : Slot) : Slot := { state := .free, reel := x.reel, generation := x.generation + 1 }

/-- A slot is discarded. -/
def discardSlot (n : Nat) (s : State) : State := s.modSlot n Slot.discarded

/-- The newest and oldest READY sequences are recomputed (R130). -/
def recomputeSeqs (reel : Nat) (s : State) : State :=
  let ns := (s.readySegs reel).map Prod.fst
  s.modReelCfg reel (fun c => { c with newest := maxOf ns, oldest := minOf ns })

/-- Two keys before another pair, in order. -/
def pairLt (a b : (Nat × Nat) × Nat) : Bool := decide (a.1.1 < b.1.1 ∨ (a.1.1 = b.1.1 ∧ a.1.2 < b.1.2))

/-- The deliveries a test picks out, in order of radio number and, at one radio, of slot number (R134, R140). -/
def State.deliveriesWhere (s : State) (f : Delivery → Bool) : List Nat :=
  (sortBy pairLt ((s.replay.deliveries.filter (fun e => f e.2)).map (fun e => ((e.2.radio, e.2.slot), e.1)))).map Prod.snd

/-! ### Opening (R132 to R134) -/

/-- INGEST_INCOMPLETE and the reel's incomplete counter (R133, R137). -/
def ingestIncomplete (reel : Nat) (frame : Option (List Byte)) (s : State) : State :=
  occur { cls := .ingestIncomplete, frame := frame }
    (s.modReelCtrs reel (fun k => { k with incomplete := bump k.incomplete }))

/-- The REEL_LAPPED notice (R134). -/
def reelLapped (reel slot seq : Nat) (gen : Half) (n : Nat) (s : State) : State :=
  notice .reelLapped (be 1 reel ++ be 2 slot ++ be 4 seq ++ be 2 gen.toNat ++ be 2 n) s

/-- A READY slot is overwritten: its deliveries are lapped (R134). -/
def overwriteSlot (reel slot : Nat) (s : State) : State :=
  let x := s.slot slot
  let s1 := recomputeSeqs reel (discardSlot slot s)
  let ds := s1.deliveriesWhere (fun v => decide (v.slot = slot ∧ v.generation = x.generation))
  let s2 := ds.foldl (fun s d => lapDelivery d s) s1
  let s3 := s2.modReelCtrs reel (fun k => { k with
    overwrites := bump k.overwrites, lapped := bumpBy k.lapped ds.length })
  if ds = [] then s3 else reelLapped reel slot (x.seq.getD 0) (s3.slot slot).generation ds.length s3

/-- The slot at the write position is taken (R133 step 2). INGEST_INCOMPLETE for a WRITING slot carries no frame (log entry
36). -/
def takeWriteSlot (reel slot : Nat) (s : State) : State :=
  match (s.slot slot).state with
  | .ready => overwriteSlot reel slot s
  | .writing => ingestIncomplete reel none (discardSlot slot s)
  | .free | .filling => s

/-- The slot after one of a range, the first after the last (R133). -/
def ReelCfg.next (c : ReelCfg) : Nat := if c.writePos + 1 < c.first + c.count then c.writePos + 1 else c.first

/-- An accepted SEGMENT_OPEN takes its slot (R133). -/
def takeSlotFor (reel seq len : Nat) (s : State) : State :=
  match (s.reel reel).cfg with
  | none => s
  | some cfg =>
    let s1 := match cfg.filling with
      | some f => ingestIncomplete reel none ((discardSlot f s).modReelCfg reel (fun c => { c with filling := none }))
      | none => s
    let s2 := (takeWriteSlot reel cfg.writePos s1).modSlot cfg.writePos (fun x =>
      { x with state := .filling, seq := some seq, length := some len, received := some 0, outstanding := 0 })
    (s2.modReelCfg reel (fun c => { c with
      filling := some cfg.writePos, lastOpened := some seq, writePos := c.next })).modReelCtrs reel
      (fun k => { k with opens := bump k.opens })

/-- INGEST_SEQUENCE (R132). -/
def ingestSequence (frame : List Byte) (s : State) : State := occur { cls := .ingestSequence, frame := some frame } s

/-- A SEGMENT_OPEN for a configured reel, checked against the last opened sequence (R132). -/
def segmentOpen (reel seq len : Nat) (frame : List Byte) (s : State) : State :=
  match ((s.reel reel).cfg.bind ReelCfg.lastOpened) with
  | none => takeSlotFor reel seq len s
  | some l =>
    if seq ≤ l then
      ingestSequence frame (s.modReelCtrs reel (fun k => { k with refusedOpens := bump k.refusedOpens }))
    else if seq = l + 1 then takeSlotFor reel seq len s
    else
      takeSlotFor reel seq len (ingestSequence frame
        (s.modReelCtrs reel (fun k => { k with missing := bumpBy k.missing (seq - l - 1) })))

/-! ### Becoming READY (R138) and writes (R135, R136) -/

/-- The INGEST_DONE notice (R138). -/
def ingestDone (reel slot : Nat) (s : State) : State :=
  let x := s.slot slot
  notice .ingestDone
    (be 1 reel ++ be 4 (x.seq.getD 0) ++ be 2 slot ++ be 2 x.generation.toNat ++ be 4 (x.length.getD 0)
      ++ be 6 s.venueTime.toNat) s

/-- A slot becomes READY (R138): its count of writes outstanding, "removed" there, is 0 (R129; log entry 37). -/
def slotReady (reel slot : Nat) (s : State) : State :=
  let x := s.slot slot
  let s1 := s.modSlot slot (fun x => { x with state := .ready, received := none, outstanding := 0, readyTime := some s.venueTime })
  let s2 := s1.modReelCfg reel (fun c => { c with
    newest := x.seq, oldest := if c.oldest = none then x.seq else c.oldest })
  let s3 := s2.modReelCtrs reel (fun k => { k with
    ready := bump k.ready, readyBytes := bumpBy k.readyBytes (x.length.getD 0) })
  wakeReel reel (ingestDone reel slot s3)

/-- The FILLING slot of a reel that holds a sequence (R135, R137). -/
def State.fillingFor (s : State) (reel seq : Nat) : Option Nat :=
  match (s.reel reel).cfg.bind ReelCfg.filling with
  | some f => if (s.slot f).seq = some seq then some f else none
  | none => none

/-- A SEGMENT_DATA for a configured reel (R135). -/
def segmentData (reel seq offset : Nat) (data : List Byte) (s : State) : State :=
  match s.fillingFor reel seq with
  | none => s.modReelCtrs reel (fun k => { k with noFilling := bump k.noFilling })
  | some f =>
    let x := s.slot f
    if some offset ≠ x.received then s.modReelCtrs reel (fun k => { k with outOfOrder := bump k.outOfOrder })
    else if x.length.getD 0 < offset + data.length then
      s.modReelCtrs reel (fun k => { k with outOfBounds := bump k.outOfBounds })
    else if Config.ingestLimit ≤ s.replay.outstanding then
      s.modReelCtrs reel (fun k => { k with overrun := bump k.overrun })
    else
      let s1 := s.modSlot f (fun x => { x with received := some (offset + data.length), outstanding := x.outstanding + 1 })
      ((s1.modReplay (fun p => { p with outstanding := p.outstanding + 1 })).modReelCtrs reel
        (fun k => { k with accepted := bump k.accepted })).sendRequest (.ingest f offset data x.generation)

/-- A SEGMENT_CLOSE for a configured reel (R137). -/
def segmentClose (reel seq : Nat) (frame : List Byte) (s : State) : State :=
  match s.fillingFor reel seq with
  | none => s.modReelCtrs reel (fun k => { k with strayCloses := bump k.strayCloses })
  | some f =>
    let x := s.slot f
    let s1 := s.modReelCfg reel (fun c => { c with filling := none })
    if x.received.getD 0 < x.length.getD 0 then ingestIncomplete reel (some frame) (discardSlot f s1)
    else
      let s2 := s1.modSlot f (fun x => { x with state := .writing })
      if x.outstanding = 0 then slotReady reel f s2 else s2

/-- An ingest write completes (R136). -/
def ingestCompleted (t : Tagged) (s : State) : State :=
  match t.req with
  | .ingest f _ _ gen =>
    let s1 := s.modReplay (fun p => { p with outstanding := p.outstanding - 1 })
    if (s1.slot f).generation ≠ gen then
      s1.modReplayCtrs (fun k => { k with discardedWrites := bump k.discardedWrites })
    else
      let s2 := s1.modSlot f (fun x => { x with outstanding := x.outstanding - 1 })
      let x := s2.slot f
      if x.state = .writing ∧ x.outstanding = 0 then slotReady (x.reel.getD 0) f s2 else s2
  | _ => s

/-- A clip chunk read completes (R153): its data is what the slot holds (R164). -/
def chunkCompleted (t : Tagged) (s : State) : State :=
  match t.req with
  | .chunk slot offset len d =>
    match s.delivery d with
    | none => s.modReplayCtrs (fun k => { k with discardedChunks := bump k.discardedChunks })
    | some v =>
      if (s.slot slot).generation ≠ v.generation then lapDelivery d s
      else
        let data := Memory.readBytes s.mem.clip (clipAddr slot offset) len
        offerHeld d (s.setDelivery d { v with chunk := .held (cutChunk s.ingestAddr v len offset data) })
  | _ => s

/-! ### Reel frames (R131) -/

/-- The bytes of a frame to the ingest address. -/
def State.ingestFrame (s : State) (src : Addr) (etype : Half) (content : List Byte) : List Byte :=
  etherBytes s.ingestAddr src etype content

/-- A malformed reel frame is counted (R131). -/
def malformedReel (s : State) : State := s.modReplayCtrs (fun k => { k with malformed := bump k.malformed })

/-- A frame of an unconfigured reel is counted (R131). -/
def unconfiguredReel (s : State) : State := s.modReplayCtrs (fun k => { k with unconfigured := bump k.unconfigured })

/-- A reel frame that passes the format checks of R188 (R131, R132). -/
def takeReelMsg (frame : List Byte) (m : ReelMsg) (s : State) : State :=
  let guarded := fun (reel : Byte) (bad : Bool) (go : State) =>
    if 15 < reel.toNat ∨ bad then malformedReel s
    else if (s.reel reel.toNat).cfg = none then unconfiguredReel s
    else go
  match m with
  | .segOpen reel seq len =>
    guarded reel (decide (len.toNat = 0 ∨ Config.slotBytes < len.toNat))
      (segmentOpen reel.toNat seq.toNat len.toNat frame s)
  | .segData reel seq offset data => guarded reel false (segmentData reel.toNat seq.toNat offset.toNat data s)
  | .segClose reel seq => guarded reel false (segmentClose reel.toNat seq.toNat frame s)

/-- A frame to the ingest address (R131, R188). -/
def takeReelFrame (src : Addr) (etype : Half) (content : List Byte) (s : State) : State :=
  match parseReel etype content with
  | none => malformedReel s
  | some m => takeReelMsg (s.ingestFrame src etype content) m s

/-! ### A reel's slots (R139, R140, R142) -/

/-- The slots of a reel's range. -/
def ReelCfg.slots (c : ReelCfg) : List Nat := (List.range c.count).map (fun i => c.first + i)

/-- The deliveries of a reel's slots are abandoned in order (R139, R140). -/
def abandonReel (reel : Nat) (s : State) : State :=
  (s.deliveriesWhere (fun v => decide (v.reel = reel))).foldl (fun s d => abandonDelivery d s) s

/-- The stations that hold a subscription to a reel. -/
def State.subscribersOf (s : State) (reel : Nat) : List Nat :=
  (s.stations.filter (fun e => decide (e.2.sub.map Sub.reel = some reel))).map Prod.fst

/-- A slot descriptor after a zone restart: FILLING and WRITING slots are abandoned (R142). -/
def Slot.restarted (x : Slot) : Slot :=
  match x.state with
  | .filling | .writing => x.discarded
  | _ => x

/-- The clip store at a zone restart (R142). -/
def restartClips (s : State) : State :=
  let n := (s.replay.slots.filter (fun e => decide (e.2.state = .filling ∨ e.2.state = .writing))).length
  s.modReplay (fun p => { p with
    slots := p.slots.mapVals {} Slot.restarted
    reels := p.reels.mapVals {} (fun r => { r with cfg := r.cfg.map (fun c => { c with filling := none }) })
    ctrs := { p.ctrs with restartAbandoned := bumpBy p.ctrs.restartAbandoned n } })

end Sys2Proof.Machine
end

