-- ==== Sys2Proof/Machine/Reports.lean ====
section
/-! DEFINITION. What the part reports: the bodies of the replies that read state, field by field at the widths of R190 (R12,
R141, R172, R174, R180, R181, R183), and the clearing of the counters COUNTER_READ reads. Where R190 fixes no arrangement, the
arrangement is the model's (log entry 14). -/

namespace Sys2Proof.Machine

/-- Event counters, 4 bytes each. -/
def ctrs (l : List Ctr) : List Byte := l.flatMap (fun c => be 4 c.toNat)

/-- A set of classes, class k in bit k − 1. -/
def clsSet (l : List Cls) : List Byte := be 1 ((Cls.all.filter (fun c => l.contains c)).map (fun c => 2 ^ (c.code - 1))).sum

/-! ### STATION_READ (R12) -/

def Binding.bytes (b : Binding) : List Byte :=
  be 2 b.bucket ++ be 1 b.way ++ be 1 b.tier.code ++ be 8 b.permit.toNat ++ flagByte b.grant

/-- A subscription as its reel, mode and ACTIVE (1) or PAUSED (2) (R12). -/
def Sub.bytes (b : Sub) : List Byte := be 1 b.reel ++ be 1 b.mode.code ++ be 1 (if b.rider.isSome then 1 else 2)

/-- A presence byte and a field, zeros when absent (R190; R185 for the zeros): of its width `n`, and for a field of varying
length of its length byte and what stands before it (log entry 14). -/
def optBytes (n : Nat) : Option (List Byte) → List Byte
  | none => 0 :: be n 0
  | some l => 1 :: l

/-- Every field of a record (R1), and at the end, as one optional field, its current radio's two counts (R17; log entry 14). -/
def stationBytes (s : State) (h : Nat) (st : Station) : List Byte :=
  be 6 st.addr.toNat ++ be 2 h ++ be 1 st.state.code ++ optField 1 st.current ++ optField 1 st.target
    ++ optField 1 st.previous ++ optField 6 (st.lastRoam.map BitVec.toNat) ++ be 2 st.pingPong
    ++ optField 6 (st.damped.map BitVec.toNat) ++ flagByte st.pinned ++ optBytes 13 (st.binding.map Binding.bytes)
    ++ be 1 st.standing.code ++ be 1 st.cls.code ++ optField 1 (st.pendingCls.map Cls.code) ++ be 2 st.egress
    ++ be 2 st.hold.length ++ optBytes 3 (st.sub.map Sub.bytes) ++ optField 6 (st.linger.map BitVec.toNat)
    ++ optBytes 4 (st.current.map (fun r => be 2 (s.radio r).stations ++ be 2 (s.radio r).subscribers))

/-- The STATION_READ reply for a handle (R12). -/
def stationAnswer (s : State) (h : Option Nat) : Answer :=
  match h.bind (fun h => (s.station h).map (fun st => (h, st))) with
  | some (h, st) => ⟨.done, 1 :: stationBytes s h st⟩
  | none => ⟨.done, [0]⟩

/-! ### DESCRIBE (R172) -/

/-- One capability record: kind, version 1, its counts as a list, the offset of the next record. -/
def capRecord (kind count : Nat) (counts : List Byte) (next : Nat) : List Byte :=
  be 1 kind ++ [1] ++ be 1 count ++ counts ++ be 4 next

/-- Counts, 2 bytes each. -/
def halves (l : List Nat) : List Byte := l.flatMap (be 2)

/-- The counts of the seven capability records, with how many each lists (R172). -/
def capabilities (s : State) : List (Nat × List Byte) :=
  [ (4, be 6 s.factory.toNat ++ be 6 s.mgmt.address.toNat ++ be 6 s.ingestAddr.toNat ++ be 2 4240),
    (11, halves [1, 4, 256, 64, 8, Config.frameBuffers, Config.burstRecords,
      Config.frameBuffers - Config.sharedBuffers, Config.burstRecords - Config.sharedBursts, Config.burstFrames,
      Config.burstBytes]),
    (6, halves [8192, Config.stationBuckets, 4, Config.pinnedLimit, Config.holdPool, Config.holdLimit]),
    (6, be 4 65536 ++ halves [Config.credBuckets, 4, Config.scanQueue, Config.fetchSlots, Config.strideBuckets]),
    (7, halves [16, Config.clipSlots] ++ be 4 Config.slotBytes ++ halves [Config.chunkBytes, Config.radioDeliveries,
      Config.partDeliveries, Config.replayBursts]),
    (5, halves [2, 8, 16, 8, 3]),
    (5, halves [14, 16, 8, Config.mgmtQueue, 4]) ]

/-- The chain from a record on: its kind number and its offset in the body; the last record's next offset is 0. -/
def capChain : Nat → Nat → List (Nat × List Byte) → List Byte
  | _, _, [] => []
  | kind, _, [c] => capRecord kind c.1 c.2 0
  | kind, at_, c :: cs =>
    let next := at_ + 7 + c.2.length
    capRecord kind c.1 c.2 next ++ capChain (kind + 1) next cs

/-- The DESCRIBE reply (R172, R190): a list, so the number of records in 1 byte and then the chain, whose first record therefore
stands at offset 1 of the body. -/
def describeAnswer (s : State) : Answer :=
  ⟨.done, be 1 (capabilities s).length ++ capChain 1 1 (capabilities s)⟩

/-! ### COUNTER_READ (R174) -/

/-- The groups of R174. -/
inductive Group where
  | ports | stations | radio (r : Nat) | egress | governor | admission | reel (r : Nat) | replay | recordMemory | management
  deriving DecidableEq, Repr

/-- The group a number names, with the index given; none is answered RANGE (R174, R190), also for a group that takes an index and
is given none (log entry 38). -/
def groupOf (n : Nat) (index : Option Nat) : Option Group :=
  match n, index with
  | 1, none => some .ports
  | 2, none => some .stations
  | 3, some r => some (.radio r)
  | 4, none => some .egress
  | 5, none => some .governor
  | 6, none => some .admission
  | 7, some r => if r < 16 then some (.reel r) else none
  | 8, none => some .replay
  | 9, none => some .recordMemory
  | 10, none => some .management
  | _, _ => none

def portsReport (s : State) : List Byte :=
  let u := s.uplink.ctrs
  let ps := [0, 1, 2, 3].map (fun p => (s.port p).ctrs)
  ctrs [u.received, u.sent] ++ ps.flatMap (fun k => ctrs [k.received, k.sent])
    ++ ctrs [u.broadcast, u.multicast, u.oversize, u.unknown]
    ++ ps.flatMap (fun k => ctrs [k.unlisted, k.absentDrops, k.burstsSent, k.framesSent, k.bytesSent, k.burstsCut])

def stationsReport (s : State) : List Byte :=
  let k := s.stationCtrs
  let m := s.roam.ctrs
  ctrs [k.created, k.lingeredOut, k.queuedDiscarded, k.heldDiscarded, k.stray]
    ++ ctrs [m.started, m.byRelease, m.byPart, m.byTimeout, m.cancelled, m.retargeted, m.endedByTargetPart,
      m.resolvedByLoss, m.declined, m.damped, m.recalled, m.radioDiscarded, m.holdOverflow, m.lostMessages,
      m.strayReleases]
    ++ halves [s.holdUsed, s.roam.drain.length]

/-- A radio's group: a field that R174 names twice, in the radio record and by itself, is sent once, and the last refill time
stands beside the credit (log entry 14). -/
def radioReport (s : State) (r : Nat) : List Byte :=
  let x := s.radio r
  let l := s.lists r
  be 1 r ++ be 1 x.state.code ++ optField 1 (x.cfg.map (fun c => c.role.code)) ++ optField 1 (x.cfg.map RadioCfg.zone)
    ++ optField 1 (x.cfg.map RadioCfg.group) ++ optField 1 (x.cfg.map RadioCfg.port) ++ be 1 x.rate
    ++ be 2 x.strikes ++ flagByte x.noted ++ halves [x.stations, x.subscribers]
    ++ ctrs [x.drops.notInService, x.drops.overflow, x.drops.purge]
    ++ halves [l.admission.length, l.fan.length, l.visitor.length, l.replay.length]
    ++ be 4 (BitVec.ofInt 32 x.credit).toNat ++ be 2 x.remainder ++ be 6 x.lastRefill.toNat ++ clsSet x.waiting
    ++ optField 6 (x.wake.map BitVec.toNat)
    ++ ctrs [x.gov.airtime, x.gov.dispAdmission, x.gov.dispFan, x.gov.dispVisitor, x.gov.dispReplay, x.gov.withheld,
      x.gov.statusMessages, x.gov.rateChanges]
    ++ be 2 (s.deliveriesAt r) ++ ctrs [x.rep.lapped, x.rep.abandoned] ++ be 2 (s.waitList r).length

def egressReport (s : State) : List Byte :=
  halves [s.egress.buffers, s.egress.bursts] ++ ctrs [s.egress.accepted, s.egress.declined]

def governorReport (s : State) : List Byte :=
  let g := s.gov
  be 1 g.active.code ++ be 1 g.surge.code ++ optField 1 g.surge.stage ++ be 1 g.surgePart ++ be 1 g.capPart
    ++ be 1 g.throttle
    ++ ctrs [g.ctrs.throttleChanges, g.ctrs.surgeOnsets, g.ctrs.phaseChanges, g.ctrs.phaseRefusals]

/-- The work items in each stage (R90). -/
def Admission.stages (a : Admission) : List Nat :=
  let count := fun f : ItemStage → Bool => (a.items.filter (fun i => f i.stage)).length
  [ count (fun g => match g with
      | .waiting => true
      | _ => false),
    count (fun g => match g with
      | .fetching _ => true
      | _ => false),
    count (fun g => match g with
      | .writing _ => true
      | _ => false) ]

def admissionReport (s : State) : List Byte :=
  let k := s.adm.ctrs
  let v := k.verdicts
  ctrs [k.scans, k.queueFull, v.admitIn, v.readmit, v.duplicate, v.wrongGate, v.void, v.unknown, v.exitOk, v.notInside,
      v.fault, v.retry, v.closed, k.fetches, k.writeBacks, k.faultyFound, k.loaded, k.updated, k.bucketFull, k.loadFault,
      k.voids, k.erases]
    ++ ctrs [k.checkins, k.checkinsFull, k.ciAccepted, k.ciNotInside, k.ciUnknown, k.ciElsewhere, k.ciFault, k.ciRetry,
      k.abandoned, k.bindings, k.takeovers, k.unbinds, k.unbindsNoEffect]
    ++ ctrs [k.sweepsStarted, k.sweepsCompleted, k.strides, k.clears, k.returned]
    ++ (List.range 64).flatMap (fun z => be 4 (s.occupancy z))
    ++ halves s.adm.stages ++ be 2 s.adm.slotsInUse.length ++ flagByte s.adm.frozen ++ flagByte s.adm.closed

/-- A reel's counters, in the order of the table of chapter 08. -/
def ReelCtrs.bytes (k : ReelCtrs) : List Byte :=
  ctrs [k.opens, k.refusedOpens, k.missing, k.incomplete, k.accepted, k.noFilling, k.outOfOrder, k.outOfBounds, k.overrun,
    k.strayCloses, k.ready, k.readyBytes, k.overwrites, k.lapped, k.resetRemoved]

def replayReport (s : State) : List Byte :=
  let k := s.replay.ctrs
  ctrs [k.malformed, k.unconfigured, k.discardedWrites, k.restartAbandoned]
    ++ ctrs [k.cueAccepted, k.cueReplaced, k.cueNotEntitled, k.cueNoReel, k.cueEmpty, k.halts, k.haltsNoSub, k.removed,
      k.ended, k.resumptions, k.lagSkips, k.coalesced, k.created, k.completed, k.chunkReads, k.discardedChunks,
      k.replayFrames, k.wakes]
    ++ halves [s.replay.deliveries.length, s.replay.stalled.length, s.replay.outstanding]

/-- The number of a request kind, in the order of R161's table. -/
def ReqKind.code : ReqKind → Nat
  | .fetch => 1 | .writeBack => 2 | .chunk => 3 | .stride => 4 | .ingest => 5

def memoryReport (s : State) : List Byte :=
  let m := s.mem
  let k := m.ctrs
  ctrs [k.fetch, k.writeBack, k.chunk, k.stride, k.ingest, k.guardIngest, k.guardStride, k.checkFailures, k.bytesRead,
      k.bytesWritten]
    ++ halves [m.fetchQ.length, m.writeQ.length, m.chunkQ.length, m.strideQ.length, m.ingestQ.length, m.starveIngest,
      m.starveStride]
    ++ optField 1 (m.transfer.map (fun t => t.req.kind.code))

def managementReport (s : State) : List Byte :=
  let k := s.mgmt.ctrs
  ctrs [k.received, k.done, k.accepted, k.busy, k.state, k.range, k.frozen, k.invalidContext, k.unknownDirective,
      k.refusedSources, k.queueFull, k.short, k.nonManagement]
    ++ be 2 s.mgmt.queue.length

/-- What COUNTER_READ reports for a group (R174). -/
def groupReport (s : State) : Group → List Byte
  | .ports => portsReport s
  | .stations => stationsReport s
  | .radio r => radioReport s r
  | .egress => egressReport s
  | .governor => governorReport s
  | .admission => admissionReport s
  | .reel r => (s.reel r).ctrs.bytes
  | .replay => replayReport s
  | .recordMemory => memoryReport s
  | .management => managementReport s

/-- The event counters of a group are set to 0 (R174). -/
def clearGroup (g : Group) (s : State) : State :=
  match g with
  | .ports =>
    { s with
      uplink := { s.uplink with ctrs := {} }
      ports := s.ports.mapVals {} (fun p => { p with ctrs := {} }) }
  | .stations => (s.modStationCtrs (fun _ => {})).modRoamCtrs (fun _ => {})
  | .radio r => s.modRadio r (fun x => { x with drops := {}, gov := {}, rep := {} })
  | .egress => { s with egress := { s.egress with accepted := 0, declined := 0 } }
  | .governor => s.modGovCtrs (fun _ => {})
  | .admission => s.modAdmCtrs (fun _ => {})
  | .reel r => s.modReelCtrs r (fun _ => {})
  | .replay => s.modReplayCtrs (fun _ => {})
  | .recordMemory => s.modMem (fun m => { m with ctrs := {} })
  | .management => s.modMgmtCtrs (fun _ => {})

/-! ### REEL_STATUS (R141) -/

def Slot.bytes (x : Slot) : List Byte :=
  be 1 x.state.code ++ optField 1 x.reel ++ optField 4 x.seq ++ optField 4 x.length ++ optField 4 x.received
    ++ be 2 x.outstanding ++ be 2 x.generation.toNat ++ optField 6 (x.readyTime.map BitVec.toNat)

/-- The descriptor of a reel: configured, then its optional fields (R128). -/
def Reel.bytes (r : Reel) : List Byte :=
  flagByte r.cfg.isSome ++ optField 2 (r.cfg.map ReelCfg.first) ++ optField 2 (r.cfg.map ReelCfg.count)
    ++ optField 2 (r.cfg.map ReelCfg.writePos) ++ optField 4 (r.cfg.bind ReelCfg.lastOpened)
    ++ optField 4 (r.cfg.bind ReelCfg.newest) ++ optField 4 (r.cfg.bind ReelCfg.oldest)
    ++ optField 2 (r.cfg.bind ReelCfg.filling)

/-- The number of a reel's slots in a state. -/
def State.slotsIn (s : State) (r : Reel) (st : SlotState) : Nat :=
  match r.cfg with
  | none => 0
  | some c => (c.slots.filter (fun n => decide ((s.slot n).state = st))).length

/-- The REEL_STATUS report (R141); the slot descriptor is an optional field of 29 bytes, present when a slot is given (R190). -/
def reelStatusBody (s : State) (reel : Nat) (slot : Option Nat) : List Byte :=
  let r := s.reel reel
  r.bytes ++ halves [s.slotsIn r .free, s.slotsIn r .filling, s.slotsIn r .writing, s.slotsIn r .ready,
      (s.subscribersOf reel).length, (s.replay.deliveries.filter (fun e => decide (e.2.reel = reel))).length]
    ++ r.ctrs.bytes
    ++ optBytes 29 (slot.map (fun n => (s.slot n).bytes))

/-! ### Errors and notices (R180, R181, R183) -/

/-- A class's severity: 1 LOGGED, 2 QUARANTINE; 0 where the class has none (R177). -/
def severityByte (c : ErrClass) (e : ErrState) : Byte :=
  if c.quarantinable then (if e.quarantine then 2 else 1) else 0

/-- The first-error record with its valid and overflow flags (R178, R181); the frame is an optional field, a list of bytes (R190).
Nothing follows the flags of an invalid record (log entry 14). -/
def firstErrorBytes (s : State) : List Byte :=
  flagByte s.err.first.isSome ++ flagByte s.err.overflow ++ (match s.err.first with
    | none => []
    | some f =>
      be 1 f.occ.cls.code ++ optField 1 f.occ.radio ++ optField 2 f.occ.handle ++ optField 2 (f.occ.place.map Prod.fst)
        ++ optField 1 (f.occ.place.map Prod.snd) ++ be 6 f.time.toNat
        ++ optBytes 1 (f.occ.frame.map (fun b => be 1 b.length ++ b)))

/-- One entry of the notice table, its fields in the order of R182; the last notice held, its kind and body, is an optional field
(R190), present while pending. Its body follows a length of 1 byte (log entry 14). -/
def NoticeEntry.bytes (e : NoticeEntry) : List Byte :=
  be 6 e.dest.toNat ++ flagByte e.enable ++ flagByte e.mask ++ flagByte e.held.isSome
    ++ be 4 ((e.held.map Held.count).getD 0).toNat
    ++ optBytes 2 (e.held.map (fun h => be 1 h.kind.code ++ be 1 h.body.length ++ h.body))

/-- The notice table and the mapping of every kind (R181, R183). -/
def noticeTableBytes (s : State) : List Byte :=
  (List.range 16).flatMap (fun n => (s.noticeEntry n).bytes) ++ NoticeKind.all.flatMap (fun k => be 1 (s.noticeEntryOf k))

/-- The ERROR_READ reply, in the order of R181: the classes, the first-error record, the threshold, the quarantines counter, the
notice table with the mapping, and the two counters of each entry. -/
def errorReadBody (s : State) : List Byte :=
  ErrClass.all.flatMap (fun c =>
      let e := s.errState c
      flagByte e.status ++ be 4 e.count.toNat ++ flagByte e.masked ++ [severityByte c e])
    ++ firstErrorBytes s ++ be 2 s.err.threshold ++ be 4 s.err.quarantines.toNat ++ noticeTableBytes s
    ++ (List.range 16).flatMap (fun n => ctrs [(s.noticeEntry n).sent, (s.noticeEntry n).discarded])

/-- The ERROR_CLEAR reply: the status flag of each class and the first-error record (R181). -/
def errorClearBody (s : State) : List Byte :=
  ErrClass.all.flatMap (fun c => flagByte (s.errState c).status) ++ firstErrorBytes s

/-- The ERROR_CONFIG reply: the mask and severity of every class and the threshold (R180). -/
def errorConfigBody (s : State) : List Byte :=
  ErrClass.all.flatMap (fun c => flagByte (s.errState c).masked ++ [severityByte c (s.errState c)])
    ++ be 2 s.err.threshold

end Sys2Proof.Machine
end

