-- ==== Sys2Proof/Machine/CarrierFrames.lean ====
section
/-! DEFINITION. Frames from the downlink ports (R23) and what each message does: JOIN, PART, RELEASE, RADIO_STATUS, SCAN,
CHECKIN, CUE, HALT, and a station's data frame. -/

namespace Sys2Proof.Machine

/-! ### Errors of a message -/

/-- CARRIER_MALFORMED raised for a radio, or with none (R6, R23, R34, R63, R93, R117, R144). -/
def carrierMalformed (radio : Option Nat) (frame : List Byte) (s : State) : State :=
  raiseError { cls := .carrierMalformed, radio := radio, frame := some frame } s

/-- SERVICE_UNEXPECTED raised for the sending radio (R7, R23, R34, R36, R117, R144). -/
def serviceUnexpected (radio : Nat) (frame : List Byte) (s : State) : State :=
  raiseError { cls := .serviceUnexpected, radio := some radio, frame := some frame } s

/-- The stray-service counter of the station table rises (R7, R34, R117, R144, R146). -/
def strayService (s : State) : State := s.modStationCtrs (fun k => { k with stray := bump k.stray })

/-! ### JOIN, PART and RELEASE (R4 to R7, R34, R36) -/

/-- A JOIN from an IN_SERVICE radio (R4, R5, R6). -/
def takeJoin (r : Nat) (a : Addr) (frame : List Byte) (s : State) : State :=
  if noStation a then carrierMalformed (some r) frame s
  else
    match s.lookup a with
    | some h => joinRecord h r s
    | none =>
      match s.freeHandle a with
      | some h => createStation a h r s
      | none => raiseError { cls := .stationTableFull, radio := some r, frame := some frame } s

/-- A PART for the record at `h` (R7, R36, R38). -/
def partRecord (h r : Nat) (frame : List Byte) (s : State) : State :=
  match s.station h with
  | none => s
  | some st =>
    match st.state, st.current, st.target with
    | .attached, some x, _ => if x = r then detachStation h r s else serviceUnexpected r frame s
    | .handoff, some x, some t =>
      if x = r then
        (completeHandoff h x t s).modRoamCtrs (fun k => { k with byPart := bump k.byPart })
      else if t = r then endByTargetPart h x s
      else serviceUnexpected r frame s
    | _, _, _ => serviceUnexpected r frame s

/-- A PART (R7). -/
def takePart (r : Nat) (a : Addr) (frame : List Byte) (s : State) : State :=
  match s.lookup a with
  | some h => partRecord h r frame s
  | none => strayService s

/-- A RELEASE for the record at `h` (R34). -/
def releaseRecord (h r : Nat) (discarded : Nat) (frame : List Byte) (s : State) : State :=
  match s.station h with
  | none => s
  | some st =>
    match st.state, st.current, st.target with
    | .handoff, some x, some t =>
      if x = r then
        (completeHandoff h x t s).modRoamCtrs (fun k => { k with
          radioDiscarded := bumpBy k.radioDiscarded discarded, byRelease := bump k.byRelease })
      else serviceUnexpected r frame s
    | _, _, _ =>
      if s.roam.marks.find h = some r then
        (clearMark h s).modRoamCtrs (fun k => { k with strayReleases := bump k.strayReleases })
      else raiseError { cls := .lateRelease, radio := some r, handle := some h, frame := some frame } s

/-- A RELEASE (R34). -/
def takeRelease (r : Nat) (a : Addr) (discarded : Nat) (frame : List Byte) (s : State) : State :=
  if noStation a then carrierMalformed (some r) frame s
  else
    match s.lookup a with
    | some h => releaseRecord h r discarded frame s
    | none => strayService s

/-! ### RADIO_STATUS (R63) -/

def takeRadioStatus (r : Nat) (cls : Byte) (frame : List Byte) (s : State) : State :=
  if 15 < cls.toNat then carrierMalformed (some r) frame s
  else if (s.radio r).rate = cls.toNat then
    s.modRadio r (fun x => { x with gov := { x.gov with statusMessages := bump x.gov.statusMessages } })
  else
    (s.modRadio r (fun x => { x with
      rate := cls.toNat
      gov := { x.gov with
        statusMessages := bump x.gov.statusMessages, rateChanges := bump x.gov.rateChanges } })).askRadio r

/-! ### SCAN and CHECKIN (R93, R117) -/

def takeScanMsg (r : Nat) (a : Addr) (code : Word64) (dir scanner : Byte) (frame : List Byte) (s : State) : State :=
  match directionOf dir with
  | none => carrierMalformed (some r) frame s
  | some d =>
    if code = 0 then carrierMalformed (some r) frame s
    else takeScan r a code d scanner frame (s.modAdmCtrs (fun k => { k with scans := bump k.scans }))

/-- The sending radio is the record's current radio or its target (R117, R144). -/
def Station.isOn (st : Station) (r : Nat) : Bool := decide (st.current = some r ∨ st.target = some r)

def takeCheckinMsg (r : Nat) (a : Addr) (code : Word64) (frame : List Byte) (s : State) : State :=
  if code = 0 ∨ noStation a then carrierMalformed (some r) frame s
  else
    let s1 := s.modAdmCtrs (fun k => { k with checkins := bump k.checkins })
    match s1.lookup a with
    | none => strayService s1
    | some h =>
      if ((s1.station h).map (fun st => st.isOn r)).getD false then takeCheckin r h a code s1
      else serviceUnexpected r frame s1

/-! ### CUE and HALT (R144 to R146) -/

/-- The fields of a CUE in their ranges (R144 step 1): mode, and for LOOP the window size. -/
def cueFields (reel mode : Byte) (start : Half) (window : Byte) : Option (Mode × Nat × Option Nat) :=
  match modeOf mode, startOf start with
  | some m, some k =>
    if 15 < reel.toNat then none
    else if m = .loop then (windowOf window).map (fun w => (m, k, some w))
    else some (m, k, none)
  | _, _ => none

/-- The result of a CUE (R145), and the start sequence of a reel that is not empty. -/
def cueResult (st : Station) (reel : Nat) (mode : Mode) (back : Nat) (s : State) : CueResult × Option Nat :=
  if ¬ (st.state = .attached ∧ st.entitled) then (.notEntitled, none)
  else
    match (s.reel reel).cfg with
    | none => (.noReel, none)
    | some cfg =>
      match cfg.newest with
      | none => if mode = .follow then (if st.sub.isSome then .replaced else .accepted, none) else (.empty, none)
      | some n => (if st.sub.isSome then .replaced else .accepted, s.firstReady reel (n - back) none)

def ReplayCtrs.cued (k : ReplayCtrs) : CueResult → ReplayCtrs
  | .accepted => { k with cueAccepted := bump k.cueAccepted }
  | .replaced => { k with cueReplaced := bump k.cueReplaced }
  | .notEntitled => { k with cueNotEntitled := bump k.cueNotEntitled }
  | .noReel => { k with cueNoReel := bump k.cueNoReel }
  | .empty => { k with cueEmpty := bump k.cueEmpty }

/-- The subscription a CUE creates, which seeks its first segment unless the reel is empty (R145). -/
def createSub (h reel : Nat) (mode : Mode) (start : Option Nat) (window : Option Nat) (s : State) : State :=
  let count := (((s.reel reel).cfg).map ReelCfg.count).getD 0
  let win := match start, window with
    | some n, some w => some (n, min w count)
    | _, _ => none
  let s1 := removeSub h s
  match s1.station h with
  | none => s1
  | some st =>
    let b : Sub := { reel := reel, mode := mode, cursor := start, window := win, rider := some .idle }
    let s2 := s1.setStation h { st with sub := some b }
    let s3 := match st.current with
      | some r => s2.modRadio r (fun x => { x with subscribers := x.subscribers + 1 })
      | none => s2
    if start = none then s3 else seekAndTake false h s3

/-- The CUE_REPLY (R145). -/
def sendCueReply (r : Nat) (a : Addr) (res : CueResult) (reel : Nat) (start : Option Nat) (s : State) : State :=
  (offerService r a codeCueReply (be 1 res.code ++ be 1 reel ++ optField 4 start) s).2

/-- A CUE that passes R144 is decided (R145). -/
def decideCue (h r : Nat) (a : Addr) (reel : Nat) (mode : Mode) (back : Nat) (window : Option Nat) (s : State) : State :=
  match s.station h with
  | none => s
  | some st =>
    let (res, start) := cueResult st reel mode back s
    let s1 := match res with
      | .accepted | .replaced => createSub h reel mode start window s
      | _ => s
    sendCueReply r a res reel start (s1.modReplayCtrs (fun k => k.cued res))

/-- Steps 2 and 3 of R144, then what the message does to the record. -/
def fromStation (r : Nat) (a : Addr) (frame : List Byte) (go : Nat → State) (s : State) : State :=
  match s.lookup a with
  | none => strayService s
  | some h =>
    if ((s.station h).map (fun st => st.isOn r)).getD false then go h else serviceUnexpected r frame s

def takeCue (r : Nat) (a : Addr) (reel mode : Byte) (start : Half) (window : Byte) (frame : List Byte) (s : State) :
    State :=
  match cueFields reel mode start window with
  | none => carrierMalformed (some r) frame s
  | some (m, k, w) =>
    if noStation a then carrierMalformed (some r) frame s
    else fromStation r a frame (fun h => decideCue h r a reel.toNat m k w s) s

/-- A HALT for the record at `h` (R146). -/
def haltRecord (h : Nat) (s : State) : State :=
  if ((s.station h).bind Station.sub).isSome then
    (removeSub h s).modReplayCtrs (fun k => { k with halts := bump k.halts })
  else s.modReplayCtrs (fun k => { k with haltsNoSub := bump k.haltsNoSub })

def takeHalt (r : Nat) (a : Addr) (frame : List Byte) (s : State) : State :=
  if noStation a then carrierMalformed (some r) frame s
  else fromStation r a frame (fun h => haltRecord h s) s

/-! ### A station's data frame (R23) -/

/-- The frame goes to the uplink; a source that is not in the table is counted at the arrival port (R23). -/
def forwardUpstream (port : Nat) (src dst : Addr) (etype : Half) (payload : List Byte) (s : State) : State :=
  let s1 := s.sendUplink (.data { kind := .data, dst := dst, src := src, etype := etype, payload := payload })
  if (s1.lookup src).isSome then s1 else s1.modPortCtrs port (fun k => { k with unlisted := bump k.unlisted })

/-! ### The carrier checks (R23) -/

/-- A frame of a radio that is not IN_SERVICE is dropped (R23 step 4). -/
def dropNotInService (port r : Nat) (frame : List Byte) (s : State) : State :=
  let x := s.radio r
  let s1 :=
    if x.state = .absent then s.modPortCtrs port (fun k => { k with absentDrops := bump k.absentDrops })
    else s.modRadio r (fun x => { x with drops := { x.drops with notInService := bump x.drops.notInService } })
  if x.noted then s1
  else raiseError { cls := .radioNotInService, radio := some r, frame := some frame }
    (s1.modRadio r (fun x => { x with noted := true }))

/-- Steps 2 to 4 of R23: `go` is taken for a frame that passes. -/
def carrierChecks (port r : Nat) (frame : List Byte) (go : State → State) (s : State) : State :=
  match (s.radio r).state with
  | .absent => dropNotInService port r frame s
  | st =>
    if (s.radio r).cfg.map RadioCfg.port ≠ some port then carrierMalformed none frame s
    else if st = .inService then go s
    else dropNotInService port r frame s

/-- A frame taken from a downlink port is counted (R174). -/
def fromPort (port : Nat) (s : State) : State := s.modPortCtrs port (fun k => { k with received := bump k.received })

/-- A frame that fails the format checks (R23 step 1): byte 0 names the radio. -/
def takeMalformed (bytes : List Byte) (s : State) : State :=
  let radio := match bytes with
    | [] => none
    | b :: _ => if (s.radio b.toNat).state = .absent then none else some b.toNat
  carrierMalformed radio bytes s

/-- What a message does once its frame has passed the carrier checks (R23). -/
def takeCarrierMsg (port r : Nat) (a : Addr) (m : CarrierMsg) (frame : List Byte) (s : State) : State :=
  match m with
  | .data dst etype payload => forwardUpstream port a dst etype payload s
  | .join => takeJoin r a frame s
  | .part => takePart r a frame s
  | .release n => takeRelease r a n.toNat frame s
  | .radioStatus k => takeRadioStatus r k frame s
  | .scan code dir scanner => takeScanMsg r a code dir scanner frame s
  | .checkin code => takeCheckinMsg r a code frame s
  | .cue reel mode start window => takeCue r a reel mode start window frame s
  | .halt => takeHalt r a frame s
  | .toRadio _ _ => serviceUnexpected r frame s

/-- A frame from a downlink port that passes the format checks: `bytes` are the bytes it came as (R23). -/
def takeCarrierFrame (port : Nat) (f : CarrierFrame) (bytes : List Byte) (s : State) : State :=
  carrierChecks port f.radio.toNat bytes (takeCarrierMsg port f.radio.toNat f.station f.msg bytes) (fromPort port s)

/-- A frame from a downlink port, byte for byte (R23, R186). -/
def takeCarrierBytes (port : Nat) (bytes : List Byte) (s : State) : State :=
  match parseCarrier bytes with
  | some f => takeCarrierFrame port f bytes s
  | none => takeMalformed bytes (fromPort port s)

end Sys2Proof.Machine
end

