-- ==== Sys2Proof/Machine/Timers.lean ====
section
/-! DEFINITION. The timers (R8, R35, R41, R49, R71, R75): which are due, and what their expiry does. An expiry of a timer
that is not due does nothing (log entry 9). -/

namespace Sys2Proof.Machine

/-- A deadline, when there is one, is reached. -/
def State.due (s : State) (t : Option Time) : Bool :=
  match t with
  | some d => reached s.venueTime d
  | none => false

/-- A record's linger deadline is reached (R8). -/
def lingerDue (h : Nat) (s : State) : Bool := s.due ((s.station h).bind Station.linger)

/-- A roam context's detach deadline is reached (R35). -/
def detachDue (h : Nat) (s : State) : Bool := s.due ((s.roam.ctxs.find h).map RoamCtx.deadline)

/-- A record's damped-until time is reached (R41). -/
def dampingDue (h : Nat) (s : State) : Bool := s.due ((s.station h).bind Station.damped)

/-- A radio's wake time is reached (R71). -/
def wakeDue (r : Nat) (s : State) : Bool := s.due (s.radio r).wake

/-- The stage timer's deadline, while RAMPING. -/
def Surge.deadline : Surge → Option Time
  | .ramping _ d => some d
  | _ => none

/-- The ramp's stage timer is due (R75). -/
def stageDue (s : State) : Bool := s.due s.gov.surge.deadline

/-- The linger timer expires (R8). -/
def lingerExpire (h : Nat) (s : State) : State :=
  if lingerDue h s then
    (removeRecord false h s).modStationCtrs (fun k => { k with lingeredOut := bump k.lingeredOut })
  else s

/-- HANDOFF_TIMEOUT for the old radio, a cause that carries no frame (R35). -/
def handoffTimeout (x h : Nat) (s : State) : State :=
  raiseError { cls := .handoffTimeout, radio := some x, handle := some h } s

/-- The detach timer expires (R35). -/
def detachExpire (h : Nat) (s : State) : State :=
  if detachDue h s then
    match s.roam.ctxs.find h with
    | none => s
    | some ctx =>
      let s1 := (completeHandoff h ctx.old ctx.target s).modRoamCtrs (fun k => { k with byTimeout := bump k.byTimeout })
      if ctx.sent then handoffTimeout ctx.old h s1 else s1
  else s

/-- The damping of a record expires (R41). -/
def dampingExpire (h : Nat) (s : State) : State :=
  if dampingDue h s then s.modStation h (fun st => { st with damped := none }) else s

/-- A radio's seal timer expires (R49). -/
def sealExpire (r : Nat) (s : State) : State := if s.sealDue r then closeByAge r s else s

/-- A radio's wake timer expires (R71). -/
def wakeExpire (r : Nat) (s : State) : State :=
  if wakeDue r s then
    (s.modRadio r (fun x => { s.gov.refill s.venueTime x with wake := none })).askRadio r
  else s

/-- The stage timer expires (R75). -/
def stageExpire (s : State) : State :=
  if stageDue s then
    match s.gov.surge with
    | .ramping k _ => stageExpired k s
    | _ => s
  else s

/-- The radios that have a record or bursts, in order. -/
def State.sealRadios (s : State) : List Nat := s.egress.lists.map Prod.fst

/-- Every timer that is due expires, those of records before those of radios, the ramp's last (log entry 9). -/
def expireDue (s : State) : State :=
  let hs := s.stations.map Prod.fst
  let s1 := hs.foldl (fun s h => lingerExpire h s) s
  let s2 := hs.foldl (fun s h => detachExpire h s) s1
  let s3 := hs.foldl (fun s h => dampingExpire h s) s2
  let s4 := s3.sealRadios.foldl (fun s r => sealExpire r s) s3
  let s5 := (s4.radios.map Prod.fst).foldl (fun s r => wakeExpire r s) s4
  stageExpire s5

end Sys2Proof.Machine
end

