-- ==== Sys2Proof/Machine/Management.lean ====
section
/-! DEFINITION. The management unit (11_management_frames_and_directives.md): the filter and the queue, and what each
directive does when it reaches the head. A directive's owner answers it at once, or leaves it waiting (`none`). -/

namespace Sys2Proof.Machine

/-- What running a directive gives: its answer, unless it waits, and the state. -/
abbrev Run := Option Answer × State

/-- A directive answered with a status and no body, changing nothing. -/
def answered (st : Status) (s : State) : Run := (some ⟨st, []⟩, s)

/-! ### Management unit: DESCRIBE, SET_TIME, COUNTER_READ, MGMT_FILTER (R169, R172 to R174) -/

/-- SET_TIME moves a station record's deadlines and its last roam time (R1, R173). -/
def Station.moved (old new : Time) (st : Station) : Station :=
  { st with
    linger := st.linger.map (moveDeadline old new), damped := st.damped.map (moveDeadline old new)
    lastRoam := st.lastRoam.map (moveTime old new) }

/-- SET_TIME moves a roam context's detach deadline and handoff start (R24, R173). -/
def RoamCtx.moved (old new : Time) (c : RoamCtx) : RoamCtx :=
  { c with start := moveTime old new c.start, deadline := moveDeadline old new c.deadline }

/-- SET_TIME moves a radio's last refill time and wake time (R61, R173). -/
def Radio.moved (old new : Time) (r : Radio) : Radio :=
  { r with lastRefill := moveTime old new r.lastRefill, wake := r.wake.map (moveDeadline old new) }

/-- SET_TIME moves the stage timer's deadline (R75, R173). -/
def Surge.moved (old new : Time) : Surge → Surge
  | .ramping k d => .ramping k (moveDeadline old new d)
  | x => x

/-- Venue time becomes `t` and every deadline R173 names moves with it. -/
def setVenueTime (t : Time) (s : State) : State :=
  let now := s.venueTime
  let s1 := { s with
    venueTime := t
    stations := s.stations.map (fun (e : Nat × Station) => (e.1, e.2.moved now t))
    roam := { s.roam with ctxs := s.roam.ctxs.map (fun (e : Nat × RoamCtx) => (e.1, e.2.moved now t)) }
    gov := { s.gov with surge := s.gov.surge.moved now t } }
  (s1.modPresentRadios (Radio.moved now t)).modSeals (moveDeadline now t)

/-- SET_TIME (R173). The timers the move leaves due expire in its event. DESIGN CHOICE (log entry 42): the notices of those
expiries go to the uplink before the reply, as R173 names no order between them. -/
def runSetTime (t : Time) (s : State) : Run :=
  (some ⟨.done, be 6 s.venueTime.toNat ++ be 6 t.toNat⟩, expireDue (setVenueTime t s))

/-- An optional byte: its presence byte, then the byte (R190). -/
def optByteOf (present b : Byte) : Option (Option Nat) :=
  match flagOf present with
  | some true => some (some b.toNat)
  | some false => some none
  | none => none

/-- COUNTER_READ (R174). -/
def runCounterRead (group present index clear : Byte) (s : State) : Run :=
  match (optByteOf present index).bind (groupOf group.toNat), flagOf clear with
  | some g, some c => (some ⟨.done, groupReport s g⟩, if c then clearGroup g s else s)
  | _, _ => answered .range s

/-- DESIGN CHOICE (log entry 44): the filter as stored: each address once (R169), at the place of its first occurrence. -/
def dedup : List Addr → List Addr
  | [] => []
  | a :: as => a :: (dedup as).filter (· ≠ a)

/-- The MGMT_FILTER reply: the filter as stored and the management address in force (R169). -/
def filterBody (s : State) : List Byte :=
  be 1 s.mgmt.filter.length ++ s.mgmt.filter.flatMap (fun a => be 6 a.toNat) ++ be 6 s.mgmt.address.toNat

/-- MGMT_FILTER (R169). An answer of RANGE carries no body (log entry 39). -/
def runMgmtFilter (addrs : List Addr) (present : Byte) (new : Addr) (s : State) : Run :=
  match flagOf present with
  | none => answered .range s
  | some p =>
    if 4 < addrs.length ∨ addrs.any noStation ∨ (p ∧ (noStation new ∨ new = s.ingestAddr)) then answered .range s
    else
      let s1 := s.modMgmt (fun m => { m with filter := dedup addrs, address := if p then new else m.address })
      (some ⟨.done, filterBody s1⟩, s1)

/-! ### Station table: radios (R18, R19, R21) -/

/-- RADIO_CONFIG's fields in their ranges: the configuration and the remove flag (R16, R18). -/
def configOf (role zone group port remove : Byte) : Option (RadioCfg × Bool) :=
  match roleOf role, flagOf remove with
  | some r, some rm =>
    if zone.toNat < 64 ∧ group.toNat < 8 ∧ port.toNat < 4 then some (⟨r, zone.toNat, group.toNat, port.toNat⟩, rm)
    else none
  | _, _ => none

/-- An ABSENT radio is configured (R18, R61). -/
def configureAbsent (r : Nat) (c : RadioCfg) (s : State) : State :=
  s.modRadio r (fun x => s.gov.initCredit s.venueTime { x with
    state := .disabled, cfg := some c, rate := 0, noted := false })

/-- A DISABLED radio takes another configuration; a credit above the new group's ceiling is set to it (R18, R67). -/
def reconfigure (r : Nat) (c : RadioCfg) (s : State) : State :=
  s.modRadio r (fun x => s.gov.clampCredit { x with cfg := some c })

/-- A DISABLED radio's configuration is removed, and the governor's fields return to an ABSENT radio's (R18, R61). -/
def unconfigure (r : Nat) (s : State) : State :=
  s.modRadio r (fun x => { x with
    state := .absent, cfg := none, noted := false
    credit := 0, remainder := 0, lastRefill := 0, waiting := [], wake := none })

/-- RADIO_CONFIG (R18). -/
def runRadioConfig (radio role zone group port remove : Byte) (s : State) : Run :=
  let r := radio.toNat
  match configOf role zone group port remove with
  | none => answered .range s
  | some (c, rm) =>
    match (s.radio r).state, rm with
    | .absent, false => answered .done (configureAbsent r c s)
    | .absent, true => answered .done s
    | .disabled, false => answered .done (reconfigure r c s)
    | .disabled, true => answered .done (unconfigure r s)
    | .inService, _ | .quarantined, _ => answered .state s

/-- RADIO_STATE (R19). -/
def runRadioState (radio new : Byte) (s : State) : Run :=
  let r := radio.toNat
  match newStateOf new with
  | none => answered .range s
  | some serve =>
    match (s.radio r).state, serve with
    | .absent, _ => answered .state s
    | .disabled, true =>
      answered .done ((s.modRadio r (fun x => { x with state := .inService, noted := false })).askRadio r)
    | .disabled, false => answered .done s
    | .inService, true => answered .done s
    | .inService, false => answered .done (leaveService r .disabled s)
    | .quarantined, true =>
      answered .done ((s.modRadio r (fun x => { x with state := .inService, noted := false, strikes := 0 })).askRadio r)
    | .quarantined, false =>
      answered .done (s.modRadio r (fun x => { x with state := .disabled, noted := false }))

/-- RADIO_RESET (R21). -/
def runRadioReset (radio : Byte) (s : State) : Run :=
  if (s.radio radio.toNat).state = .absent then answered .state s else answered .done (resetRadio radio.toNat s)

/-! ### Station table: stations (R10 to R12, R25) -/

/-- STATION_READ (R12). -/
def runStationRead (ref : StationRef) (s : State) : Run :=
  match ref with
  | .address a => (some (stationAnswer s (s.lookup a)), s)
  | .handle h => if h.toNat < 8192 then (some (stationAnswer s (some h.toNat)), s) else answered .range s
  | .badForm _ _ => answered .range s

/-- STATION_PIN (R11). -/
def runStationPin (a : Addr) (s : State) : Run :=
  match s.lookup a with
  | some h =>
    match s.station h with
    | none => answered .done s
    | some st =>
      if st.pinned then answered .done s
      else if s.pinnedCount < Config.pinnedLimit then
        answered .done (s.setStation h { st with pinned := true, linger := none }.rederive)
      else answered .range s
  | none =>
    if s.pinnedCount < Config.pinnedLimit then
      match s.freeHandle a with
      | some h =>
        answered .done ((s.setStation h { addr := a, state := .unattached, pinned := true, cls := .admission }).modStationCtrs
          (fun k => { k with created := bump k.created }))
      | none => answered .range (occur { cls := .stationTableFull } s)
    else answered .range s

/-- STATION_UNPIN (R11). -/
def runStationUnpin (a : Addr) (s : State) : Run :=
  match s.lookup a with
  | none => answered .state s
  | some h =>
    match s.station h with
    | none => answered .state s
    | some st =>
      if st.pinned then
        let linger := if st.state = .unattached then some (s.venueTime + s.lingerUs) else st.linger
        answered .done (s.setStation h { st with pinned := false, linger := linger }.rederive)
      else answered .done s

/-- Freed room is announced: the drain list is served, then the stalled list (R29, R57, R154). That a REPLAY list has fallen
below 4 is told by the same announcement, which serves the stalled list once (log entry 7). -/
def announce (s : State) : State :=
  if s.ev.roomFreed then
    serveStalled (serveDrainList { s with ev := { s.ev with roomFreed := false } })
  else s

/-- CLEAR_FANS (R10): the records go one by one, in ascending order of handle (log entry 28), and the room each removal frees is
announced before the next (log entry 7). -/
def runClearFans (s : State) : Run :=
  let hs := (s.stations.filter (fun e => !e.2.pinned)).map Prod.fst
  (some ⟨.done, be 2 hs.length⟩, hs.foldl (fun s h => announce (removeRecord true h s)) s)

/-- The five settings (R25). -/
def Settings.bytes (x : Settings) : List Byte := halves [x.detachMs, x.lingerS, x.windowS, x.threshold, x.dampingS]

/-- STATION_SETTINGS (R25). -/
def runStationSettings (detach linger window threshold damping : Half) (s : State) : Run :=
  if settingBad detach 1 255 || settingBad linger 1 600 || settingBad window 1 60 || settingBad threshold 1 15
      || settingBad damping 1 120 then answered .range s
  else
    let old := s.roam.settings
    let new : Settings :=
      ⟨settingNew detach old.detachMs, settingNew linger old.lingerS, settingNew window old.windowS,
       settingNew threshold old.threshold, settingNew damping old.dampingS⟩
    (some ⟨.done, new.bytes⟩, s.modRoam (fun m => { m with settings := new }))

/-! ### Admission engine (R94 to R97, R103, R104, R107, R112 to R114, R116) -/

/-- CRED_LOAD (R95). -/
def runCredLoad (recs : List LoadRec) (s : State) : Run :=
  if s.adm.sweep.state = .running then answered .busy s
  else
    match recs with
    | [] => answered .range s
    | r :: rs =>
      if 16 < recs.length ∨ !recs.all LoadRec.valid then answered .range s
      else (none, startOp (credBucket r.code) (.load r rs []) s)

/-- A position named by bucket and way is in the table (R96, R97). -/
def placeInRange (bucket : Half) (way : Byte) : Bool := decide (bucket.toNat < Config.credBuckets ∧ way.toNat < 4)

/-- CRED_READ (R96). -/
def runCredRead (ref : CredRef) (s : State) : Run :=
  match ref with
  | .code c => (none, startOp (credBucket c) (.readCode c) s)
  | .position b w => if placeInRange b w then (none, startOp b.toNat (.readPos w.toNat) s) else answered .range s
  | .badForm _ _ => answered .range s

/-- CRED_VOID (R97). -/
def runCredVoid (code : Word64) (s : State) : Run := (none, startOp (credBucket code) (.void code) s)

/-- CRED_ERASE_WAY (R97, R103). -/
def runCredEraseWay (bucket : Half) (way : Byte) (s : State) : Run :=
  if !placeInRange bucket way then answered .range s
  else if s.adm.frozen ∧ (s.entry (posOf bucket.toNat way.toNat)).faulty = false then answered .frozen s
  else (none, startOp bucket.toNat (.erase way.toNat) s)

/-- ADMISSION_FREEZE (R103). -/
def runAdmissionFreeze (s : State) : Run := answered .done (s.modAdm (fun a => { a with frozen := true, closed := false }))

/-- A radio of a gate role is IN_SERVICE (R104). -/
def State.gateInService (s : State) : Bool :=
  s.radios.any (fun e => decide (e.2.state = .inService) && ((e.2.cfg.map (fun c => c.role.isGate)).getD false))

/-- EVENT_CLOSE (R104). -/
def runEventClose (s : State) : Run :=
  if s.gateInService then answered .state s
  else answered .done (s.modAdm (fun a => { a with frozen := false, closed := true }))

/-- VOID_SWEEP (R107). -/
def runVoidSweep (kind value : Byte) (s : State) : Run :=
  if s.adm.sweep.state ≠ .idle then answered .busy s
  else
    match selectorOf kind value with
    | none => answered .range s
    | some sel =>
      let s1 := s.modSweep (fun _ =>
        { state := .running, selector := some sel, pointer := 0, startTime := s.venueTime })
      (some ⟨.accepted, sel.bytes⟩,
       claimStride (s1.modAdmCtrs (fun k => { k with sweepsStarted := bump k.sweepsStarted })))

/-- SWEEP_SUSPEND (R112). -/
def runSweepSuspend (s : State) : Run :=
  let w := s.adm.sweep
  if w.state ≠ .running then (some ⟨.state, w.suspendBody⟩, s)
  else if w.stride = some .reading then (none, s.modSweep (fun w => { w with suspendRequested := true }))
  else
    let s1 := (s.modSweep (fun w => { w with state := .suspended, stride := none })).lookForSlot
    (some ⟨.done, s1.adm.sweep.suspendBody⟩, s1)

/-- SWEEP_RESUME (R113). -/
def runSweepResume (s : State) : Run :=
  if s.adm.sweep.state ≠ .suspended then answered .state s
  else (some ⟨.done, be 2 s.adm.sweep.pointer⟩, claimStride (s.modSweep (fun w => { w with state := .running })))

def Stride.code : Stride → Nat
  | .claimed => 1 | .reading => 2

/-- The SWEEP_STATUS reply: every field of the sweep record (R114). -/
def Sweep.statusBody (w : Sweep) : List Byte :=
  be 1 w.state.code ++ optBytes 2 (w.selector.map Selector.bytes) ++ be 2 w.pointer
    ++ optField 1 (w.stride.map Stride.code) ++ flagByte w.suspendRequested ++ w.counts ++ be 6 w.startTime.toNat
    ++ optField 6 (w.endTime.map BitVec.toNat)

/-- SWEEP_STATUS (R114). -/
def runSweepStatus (s : State) : Run := (some ⟨.done, s.adm.sweep.statusBody⟩, s)

/-- CLEAR_REDEMPTIONS (R116). -/
def runClearRedemptions (s : State) : Run :=
  if s.adm.sweep.state ≠ .idle then answered .busy s
  else if s.adm.frozen then answered .frozen s
  else
    let (a, s1) := clearAll s
    (some a, s1)

/-! ### Replay engine (R139 to R141) -/

/-- The range of another configured reel shares a slot with this one (R139). -/
def State.rangeTaken (s : State) (reel first count : Nat) : Bool :=
  s.replay.reels.any (fun e => decide (e.1 ≠ reel) && (match e.2.cfg with
    | some c => decide (first < c.first + c.count ∧ c.first < first + count)
    | none => false))

/-- A slot is freed from its reel, its generation up by 1 (R139). -/
def freeSlotOf (n : Nat) (s : State) : State := s.modSlot n (fun x => { x.discarded with reel := none })

/-- The old range of a reel is freed (R139). -/
def freeRange (reel : Nat) (s : State) : State :=
  match (s.reel reel).cfg with
  | none => s
  | some c =>
    let s1 := c.slots.foldl (fun s n => freeSlotOf n s) (abandonReel reel s)
    s1.setReel reel { s1.reel reel with cfg := none }

/-- The new range of a reel is taken (R139). -/
def takeRange (reel first count : Nat) (s : State) : State :=
  let c : ReelCfg := { first := first, count := count, writePos := first }
  let s1 := c.slots.foldl (fun s n => s.modSlot n (fun x => { x with reel := some reel })) s
  s1.setReel reel { s1.reel reel with cfg := some c }

/-- REEL_CONFIG (R139). -/
def runReelConfig (reel : Byte) (first count : Half) (remove : Byte) (s : State) : Run :=
  let r := reel.toNat
  match flagOf remove with
  | none => answered .range s
  | some rm =>
    if 15 < r ∨ (rm = false ∧ (4095 < first.toNat ∨ count.toNat < 8 ∨ 1024 < count.toNat ∨ 4096 < first.toNat + count.toNat))
    then answered .range s
    else if rm = false ∧ s.rangeTaken r first.toNat count.toNat then answered .range s
    else
      let x := s.reel r
      if x.cfg.isSome ∧ s.subscribersOf r ≠ [] then answered .state s
      else if 0 < s.slotsIn x .filling + s.slotsIn x .writing then answered .state s
      else
        let s1 := freeRange r s
        answered .done (if rm then s1 else takeRange r first.toNat count.toNat s1)

/-- REEL_RESET of a configured reel (R140). -/
def resetReel (reel : Nat) (c : ReelCfg) (s : State) : State :=
  let hs := s.subscribersOf reel
  let s1 := abandonReel reel (hs.foldl (fun s h => removeSub h s) s)
  let s2 := c.slots.foldl (fun s n => discardSlot n s) s1
  s2.setReel reel
    { cfg := some { first := c.first, count := c.count, writePos := c.first }
      ctrs := { (s2.reel reel).ctrs with resetRemoved := bumpBy (s2.reel reel).ctrs.resetRemoved hs.length } }

/-- REEL_RESET (R140). -/
def runReelReset (reel : Byte) (s : State) : Run :=
  let r := reel.toNat
  if 15 < r then answered .range s
  else
    match (s.reel r).cfg with
    | none => answered .state s
    | some c =>
      (some ⟨.done, be 2 (s.subscribersOf r).length ++ be 2 (s.slotsIn (s.reel r) .ready)⟩, resetReel r c s)

/-- A slot number lies in a reel's range. -/
def Reel.holdsSlot (x : Reel) (n : Nat) : Bool :=
  match x.cfg with
  | some c => decide (c.first ≤ n ∧ n < c.first + c.count)
  | none => false

/-- REEL_STATUS (R141). -/
def runReelStatus (reel present : Byte) (slot : Half) (s : State) : Run :=
  let r := reel.toNat
  match flagOf present with
  | none => answered .range s
  | some p =>
    if 15 < r ∨ (p ∧ (s.reel r).holdsSlot slot.toNat = false) then answered .range s
    else (some ⟨.done, reelStatusBody s r (if p then some slot.toNat else none)⟩, s)

/-! ### Governor (R62, R74, R78 to R82) -/

/-- PROFILE_ACCESS (R78). -/
def runProfileAccess (ctx : Byte) (s : State) : Run :=
  match phaseOf ctx with
  | none => answered .range s
  | some p =>
    let c := s.gov.ctx p
    (some ⟨.done, c.bytes ++ flagByte c.valid ++ be 1 s.gov.active.code⟩, s.modGov (fun g => { g with access := p }))

/-- PROFILE_WRITE (R79). -/
def runProfileWrite (part : ProfilePart) (s : State) : Run :=
  match part with
  | .badPart _ _ => answered .range s
  | _ =>
    if s.gov.access = s.gov.active then answered .state s
    else answered .done (s.modGov (fun g => g.setCtx g.access ((g.ctx g.access).write part)))

/-- PROFILE_VALIDATE (R80): RANGE names the first failing field and its group. -/
def runProfileValidate (s : State) : Run :=
  let c := s.gov.ctx s.gov.access
  match c.failing with
  | some (field, group) => (some ⟨.range, be 1 field ++ optField 1 group⟩, s)
  | none => answered .done (s.modGov (fun g => g.setCtx g.access { c with valid := true }))

/-- The PHASE_CHANGED notice (R82): the new context, the previous one, the new p. -/
def phaseChanged (c a : Phase) (s : State) : State :=
  notice .phaseChanged (be 1 c.code ++ be 1 a.code ++ be 1 s.gov.throttle) s

/-- An OPEN burst past its seal deadline closes, on every radio (R49). -/
def closeAllByAge (s : State) : State := s.sealRadios.foldl (fun s r => closeByAge r s) s

/-- The phase change to context `c` (R82). A change of p here is not counted among the throttle changes of R76, which R82 does not
name (log entry 43). -/
def changePhase (c : Phase) (s : State) : State :=
  let a := s.gov.active
  let old := s.gov
  let now := s.venueTime
  let s1 := (s.modPresentRadios (old.refill now)).modGov (fun g => { g with active := c })
  let s2 := s1.modPresentRadios s1.gov.clampCredit
  let ramping := s2.gov.surge.stage.isSome
  let s3 := if ramping then s2.modGov (fun g => { g with surge := .off }) else s2
  let s4 := s3.modPresentRadios (s3.gov.rewait now)
  let age : Int := (s4.gov.activeCtx.sealAge.toNat : Int) - old.activeCtx.sealAge.toNat
  let s5 := closeAllByAge (s4.modSeals (fun d => d + BitVec.ofInt 48 age))
  let s6 := phaseChanged c a s5
  let s7 := if ramping then surgeNotice s6 else s6
  (s7.modGovCtrs (fun k => { k with phaseChanges := bump k.phaseChanges })).askAll

/-- PHASE_SET (R81). R82 has the reply DONE sent after the notices of the change; that PHASE_REFUSED too comes before its reply
is log entry 42. -/
def runPhaseSet (ctx : Byte) (s : State) : Run :=
  match phaseOf ctx with
  | none => answered .range s
  | some c =>
    if c = s.gov.active then answered .done s
    else if (s.gov.ctx c).valid = false then
      answered .invalidContext (notice .phaseRefused (be 1 c.code)
        (s.modGovCtrs (fun k => { k with phaseRefusals := bump k.phaseRefusals })))
    else answered .done (changePhase c s)

/-- The SURGE_SET reply: the flag, the line, the surge state, the stage, p (R74). -/
def surgeBody (s : State) : List Byte :=
  flagByte s.gov.surgeFlag ++ flagByte s.surgeLine ++ be 1 s.gov.surge.code ++ optField 1 s.gov.surge.stage
    ++ be 1 s.gov.throttle

/-- SURGE_SET (R73, R74), whose SURGE_CHANGED notice comes before the reply (log entry 42). -/
def runSurgeSet (flag : Byte) (s : State) : Run :=
  match flagOf flag with
  | none => answered .range s
  | some b =>
    let s1 := takeSurge s.surgeAsserted (s.modGov (fun g => { g with surgeFlag := b }))
    (some ⟨.done, surgeBody s1⟩, s1)

/-- The rate table with the values carried: a value of 0 keeps its entry (R62). -/
def newRates (old : List Nat) (vals : List Half) : List Nat :=
  List.zipWith (fun v o => if v = (0 : Half) then o else v.toNat) vals old

/-- RATE_TABLE (R62). -/
def runRateTable (vals : List Half) (s : State) : Run :=
  if vals.any (fun v => decide (4095 < v.toNat)) then answered .range s
  else
    let new := newRates s.gov.rates vals
    (some ⟨.done, halves new⟩, s.modGov (fun g => { g with rates := new }))

/-! ### Error and notice unit (R180, R181, R183) -/

/-- ERROR_READ (R181). -/
def runErrorRead (clear : Byte) (s : State) : Run :=
  match flagOf clear with
  | none => answered .range s
  | some c =>
    (some ⟨.done, errorReadBody s⟩,
     if c then ErrClass.all.foldl (fun s k => s.setErrState k { s.errState k with count := 0 }) s else s)

/-- ERROR_CLEAR (R181). -/
def runErrorClear (classes : Half) (record : Byte) (s : State) : Run :=
  match flagOf record with
  | none => answered .range s
  | some r =>
    if 2 ^ 14 ≤ classes.toNat then answered .range s
    else
      let picked := ErrClass.all.filter (fun c => classes.getLsbD (c.code - 1))
      let s1 := picked.foldl (fun s k => s.setErrState k { s.errState k with status := false }) s
      (some ⟨.done, errorClearBody s⟩,
       if r then { s1 with err := { s1.err with first := none, overflow := false } } else s1)

/-- A threshold from 1 to 255, or KEEP (R180). -/
def thresholdOf (t : Half) : Option (Option Nat) :=
  if t = 0xFFFF then some none else if 1 ≤ t.toNat ∧ t.toNat ≤ 255 then some (some t.toNat) else none

/-- The classes ERROR_CONFIG names: one, or every class with ALL (R180, R190). -/
def classesOf (cls : Byte) : Option (List ErrClass) :=
  if cls = 0 then some ErrClass.all else (errClassOf cls.toNat).map (fun c => [c])

/-- A class's mask and severity replaced by the values given; a severity is kept by quarantinable classes only (R177,
R180). -/
def configClass (mask sev : Option Bool) (c : ErrClass) (s : State) : State :=
  let e := s.errState c
  s.setErrState c { e with
    masked := mask.getD e.masked
    quarantine := if c.quarantinable then sev.getD e.quarantine else e.quarantine }

/-- ERROR_CONFIG (R180). -/
def runErrorConfig (cls mask severity : Byte) (threshold : Half) (s : State) : Run :=
  match classesOf cls, keepFlagOf mask, severityOf severity, thresholdOf threshold with
  | some cs, some m, some sev, some t =>
    if cls ≠ 0 ∧ sev = some true ∧ !cs.all ErrClass.quarantinable then answered .range s
    else
      let s1 := cs.foldl (fun s c => configClass m sev c s) s
      let s2 := { s1 with err := { s1.err with threshold := t.getD s1.err.threshold } }
      (some ⟨.done, errorConfigBody s2⟩, s2)
  | _, _, _, _ => answered .range s

/-- The held notice of an entry that is now enabled and unmasked is sent, and counted as one notice sent (log entry 23); that of a
disabled entry is discarded (R182). -/
def settleEntry (n : Nat) (s : State) : State :=
  let e := s.noticeEntry n
  match e.held with
  | none => s
  | some h =>
    if e.enable = false then
      s.setNoticeEntry n { e with held := none, discarded := bumpBy e.discarded h.count.toNat }
    else if e.mask then s
    else (s.setNoticeEntry n { e with held := none, sent := bump e.sent }).sendNotice e.dest h.kind h.count h.body

/-- The kinds of a set, kind k in bit k − 1 (R190). -/
def kindsOf (set : Byte) : List NoticeKind := NoticeKind.all.filter (fun k => set.getLsbD (k.code - 1))

/-- A kind maps to an entry; the mapping of cold reset is not listed (R182). -/
def mapKind (n : Nat) (k : NoticeKind) (s : State) : State :=
  { s with err := { s.err with
    mapping := if n = k.home then s.err.mapping.del k.code else s.err.mapping.put k.code n } }

/-- NOTICE_CONFIG (R183), whose held notice is sent before the reply (log entry 42). -/
def runNoticeConfig (entry : Byte) (dest : Addr) (enable mask kinds : Byte) (s : State) : Run :=
  let n := entry.toNat
  match keepFlagOf enable, keepFlagOf mask with
  | some en, some mk =>
    let e := s.noticeEntry n
    let d := if dest = BitVec.allOnes 48 then e.dest else dest
    let on := en.getD e.enable
    if 15 < n ∨ (on ∧ noStation d) then answered .range s
    else
      let s1 := s.setNoticeEntry n { e with dest := d, enable := on, mask := mk.getD e.mask }
      let s2 := (kindsOf kinds).foldl (fun s k => mapKind n k s) s1
      let s3 := settleEntry n s2
      (some ⟨.done, noticeTableBytes s3⟩, s3)
  | _, _ => answered .range s

/-! ### Zone restart (R175) -/

/-- A pinned record after a zone restart (R2). -/
def Station.restarted (st : Station) : Station :=
  { st with
    state := .unattached, current := none, target := none, previous := none, lastRoam := none
    pingPong := 0, damped := none
    cls := st.pendingCls.getD st.cls, pendingCls := none, egress := 0, hold := [], sub := none, linger := none }

/-- The station and radio tables and the roam engine at a zone restart (R2, R16, R24). -/
def restartStations (s : State) : State :=
  { s with
    stations := (s.stations.filter (fun e => e.2.pinned)).map (fun (e : Nat × Station) => (e.1, e.2.restarted))
    radios := s.radios.mapVals {} (fun r => { r with stations := 0, subscribers := 0 })
    roam := { s.roam with ctxs := [], marks := [], drain := [] } }

/-- A port at a zone restart (R60, R175): its receive FIFO is cleared, and it finishes the frame it is sending. How many frames
of a burst cut off had left before is a free value (log entry 4). -/
def Port.restarted (k : Nat) (p : Port) : Port :=
  match p.sending with
  | none => { p with rx := [], pointer := none, wire := [] }
  | some _ =>
    { rx := [], pointer := none, sending := none, wire := []
      ctrs := { p.ctrs with
        sent := bumpBy p.ctrs.sent (1 + Config.cutFrames k % p.wire.length)
        burstsCut := bump p.ctrs.burstsCut } }

/-- The uplink port at a zone restart (R175): its receive FIFO is cleared, it finishes the frame it is sending, and the rest of
its transmit FIFO is lost. -/
def Uplink.restarted (u : Uplink) : Uplink :=
  match u.tx with
  | [] => { u with rx := [] }
  | _ :: _ => { rx := [], tx := [], ctrs := { u.ctrs with sent := bump u.ctrs.sent } }

/-- The port complex and the egress buffer at a zone restart (R60, R175). -/
def restartEgress (s : State) : State :=
  let s1 := [0, 1, 2, 3].foldl (fun s p => s.setPort p ((s.port p).restarted (s.draws + p))) s
  { s1 with
    uplink := s1.uplink.restarted
    draws := s1.draws + 4
    egress := { s1.egress with lists := [], buffers := 0, bursts := 0 } }

/-- The governor at a zone restart (R83), without its notice. A change of p that the end of a ramp makes here is not counted among
the throttle changes of R76: R83 has the counters kept (log entry 43). -/
def restartGovernor (s : State) : State :=
  let s1 := s.modGov (fun g => { g with
    surge := match g.surge with
      | .ramping _ _ => if s.surgeAsserted then .on else .off
      | x => x })
  s1.modPresentRadios (s1.gov.initCredit s1.venueTime)

/-- The replay engine at a zone restart (R142, R159). -/
def restartReplay (s : State) : State :=
  restartClips (s.modReplay (fun p => { p with deliveries := [], waiting := [], stalled := [] }))

/-- ZONE_RESTART (R175): the port complex, each owner, then the answers the owners make. -/
def zoneRestart (s : State) : State :=
  let ramped := s.gov.surge.stage.isSome
  let items := s.adm.items
  let s1 := restartGovernor (restartEgress (restartStations s))
  let s2 := (s1.modAdm (fun a => { a with items := [], sweep := a.sweep.restarted })).lookForSlot
  let s3 := (restartReplay s2).modMem RecMem.markAll
  let s4 := items.foldl (fun s i => retryItem i s) s3
  if ramped then surgeNotice s4 else s4

/-! ### Running a directive (R170) -/

/-- What each directive does when it reaches the head of the queue. -/
def runDirective (d : Directive) (s : State) : Run :=
  match d with
  | .describe => (some (describeAnswer s), s)
  | .setTime t => runSetTime t s
  | .counterRead group present index clear => runCounterRead group present index clear s
  | .zoneRestart => answered .done (zoneRestart s)
  | .mgmtFilter addrs present new => runMgmtFilter addrs present new s
  | .radioConfig radio role zone group port remove => runRadioConfig radio role zone group port remove s
  | .radioState radio new => runRadioState radio new s
  | .radioReset radio => runRadioReset radio s
  | .stationRead ref => runStationRead ref s
  | .stationPin a => runStationPin a s
  | .stationUnpin a => runStationUnpin a s
  | .clearFans => runClearFans s
  | .stationSettings detach linger window threshold damping => runStationSettings detach linger window threshold damping s
  | .credLoad recs => runCredLoad recs s
  | .credRead ref => runCredRead ref s
  | .credVoid code => runCredVoid code s
  | .credEraseWay bucket way => runCredEraseWay bucket way s
  | .admissionFreeze => runAdmissionFreeze s
  | .eventClose => runEventClose s
  | .voidSweep kind value => runVoidSweep kind value s
  | .sweepSuspend => runSweepSuspend s
  | .sweepResume => runSweepResume s
  | .sweepStatus => runSweepStatus s
  | .clearRedemptions => runClearRedemptions s
  | .reelConfig reel first count remove => runReelConfig reel first count remove s
  | .reelReset reel => runReelReset reel s
  | .reelStatus reel present slot => runReelStatus reel present slot s
  | .profileAccess ctx => runProfileAccess ctx s
  | .profileWrite part => runProfileWrite part s
  | .profileValidate => runProfileValidate s
  | .phaseSet ctx => runPhaseSet ctx s
  | .surgeSet flag => runSurgeSet flag s
  | .rateTable rates => runRateTable rates s
  | .errorRead clear => runErrorRead clear s
  | .errorClear classes record => runErrorClear classes record s
  | .errorConfig cls mask severity threshold => runErrorConfig cls mask severity threshold s
  | .noticeConfig entry dest enable mask kinds => runNoticeConfig entry dest enable mask kinds s
  | .unknown _ _ => answered .unknownDirective s

/-- The directive at the head is handed to its owner: answered, or left waiting there (R170). -/
def startHead (s : State) : State :=
  match s.mgmt.queue with
  | [] => s
  | e :: _ =>
    match runDirective e.dir s with
    | (some a, s1) => reply a s1
    | (none, s1) => s1.modMgmt (fun m => { m with started := true })

/-! ### Frames to the management address (R167, R168) -/

/-- The bytes of a frame to the management address. -/
def State.managementBytes (s : State) (src : Addr) (etype : Half) (content : List Byte) : List Byte :=
  etherBytes s.mgmt.address src etype content

/-- The source filter and the queue (R168). -/
def takeDirective (e : MgmtEntry) (frame : List Byte) (s : State) : State :=
  if s.mgmt.filter ≠ [] ∧ !s.mgmt.filter.contains e.src then
    occur { cls := .mgmtSourceRefused, frame := some frame }
      (s.modMgmtCtrs (fun k => { k with refusedSources := bump k.refusedSources }))
  else if Config.mgmtQueue ≤ s.mgmt.queue.length then
    occur { cls := .mgmtQueueFull, frame := some frame }
      (s.modMgmtCtrs (fun k => { k with queueFull := bump k.queueFull }))
  else s.modMgmt (fun m => { m with queue := m.queue ++ [e], ctrs := { m.ctrs with received := bump m.ctrs.received } })

/-- The directive a frame's content holds: header and body; a body length beyond the bytes present makes it unknown (R189,
R190), also where the first byte of the body would be answered RANGE (log entry 41). -/
def parseContent (src : Addr) (content : List Byte) : MgmtEntry :=
  let k := u16 content 0
  let n := fieldAt content 5 2
  let rest := content.drop 7
  ⟨src, u16 content 2, if rest.length < n then .unknown k rest else parseDirective k (rest.take n)⟩

/-- A frame to the management address (R167). -/
def takeManagementFrame (src : Addr) (etype : Half) (content : List Byte) (s : State) : State :=
  if etype ≠ typeManagement then s.modMgmtCtrs (fun k => { k with nonManagement := bump k.nonManagement })
  else if content.length < 7 then s.modMgmtCtrs (fun k => { k with short := bump k.short })
  else takeDirective (parseContent src content) (s.managementBytes src etype content) s

/-! ### Frames from the uplink (R22, R167) -/

/-- A frame taken from the uplink is counted (R174). -/
def fromUplink (s : State) : State := s.modUplinkCtrs (fun k => { k with received := bump k.received })

/-- A station's downstream frame (R22). -/
def takeDownstream (dst src : Addr) (etype : Half) (payload : List Byte) (s : State) : State :=
  if 1500 < payload.length then s.modUplinkCtrs (fun k => { k with oversize := bump k.oversize })
  else if dst = BitVec.allOnes 48 then s.modUplinkCtrs (fun k => { k with broadcast := bump k.broadcast })
  else if isGroup dst then s.modUplinkCtrs (fun k => { k with multicast := bump k.multicast })
  else
    match s.lookup dst with
    | none => s.modUplinkCtrs (fun k => { k with unknown := bump k.unknown })
    | some h =>
      match s.station h with
      | none => s
      | some st =>
        let f : Frame := { kind := .data, dst := dst, src := src, etype := etype, payload := payload, handle := some h }
        match st.state, st.current, st.hold with
        | .attached, some r, [] => (offer .droppable r st.cls f s).2
        | _, _, _ => hold h f s

/-- A frame from the uplink, sorted by its destination address (R22, R131, R167). One for the part itself is not dropped for
its length: R22 sets its limit for the frames it looks up (log entry 32). -/
def takeUplinkFrame (dst src : Addr) (etype : Half) (content : List Byte) (s : State) : State :=
  if dst = s.ingestAddr then takeReelFrame src etype content s
  else if dst = s.mgmt.address then takeManagementFrame src etype content s
  else takeDownstream dst src etype content s

end Sys2Proof.Machine
end

