-- ==== Sys2Proof/Machine/Event.lean ====
section
/-! DEFINITION. One event of the part: a command's own effect, then all that follows from it in the same event — freed room
announced (R57), fetch slots looked for (R92), arbiters run (R53), and the directives that reach the head (R170). -/

namespace Sys2Proof.Machine

/-- What follows in the same event: freed room is announced, what waits for a bucket or slot goes on, and the arbiters asked
for run (log entry 7). -/
def flush (s : State) : State := runArbiters (settle (announce s))

/-- The directives that reach the head are run in turn, `n` of them at most (R170). -/
def runQueue : Nat → State → State
  | 0, s => s
  | n + 1, s =>
    if s.mgmt.queue = [] ∨ s.mgmt.started then s else runQueue n (flush (startHead s))

/-- The event's bookkeeping is put away. -/
def closeEvent (s : State) : State := { s with ev := { number := s.ev.number + 1 } }

/-- The rest of an event after a command's own effect. -/
def finish (s : State) : State := closeEvent (runQueue ((flush s).mgmt.queue.length + 1) (flush s))

/-- A command whose own effect is `f`. -/
def event (f : State → State) (s : State) : Outcome := .next (finish (f s))

end Sys2Proof.Machine
end

