-- ==== Sys2Proof/Machine/CarrierCommands.lean ====
section
/-! DEFINITION. The commands that are frames from the downlink ports. -/

namespace Sys2Proof.Machine

/-- A frame of this radio, station and message arrives at a port. -/
def arrive (port : Fin 4) (radio : Byte) (station : Addr) (m : CarrierMsg) (s : State) : State :=
  takeCarrierFrame port.val ⟨radio, station, m⟩ (CarrierFrame.bytes ⟨radio, station, m⟩) s

/-- MALFORMED_CARRIER_FRAME (R23, R186): bytes that pass the checks are taken as the frame they are. -/
def execMalformedCarrierFrame (port : Fin 4) (bytes : List Byte) (s : State) : Outcome :=
  event (takeCarrierBytes port.val bytes) s

/-- UPSTREAM_DATA_FRAME (R23): a payload of no bytes, or of more than 1,500, fails the format checks (R186). -/
def execUpstreamDataFrame (port : Fin 4) (radio : Byte) (station dst : Addr) (etype : Half) (payload : List Byte)
    (s : State) : Outcome :=
  event (fun s =>
    if payload = [] ∨ 1500 < payload.length then
      takeMalformed (CarrierFrame.bytes ⟨radio, station, .data dst etype payload⟩) (fromPort port.val s)
    else arrive port radio station (.data dst etype payload) s) s

/-- JOIN (R4 to R6, R31, R32, R37). -/
def execJoin (port : Fin 4) (radio : Byte) (station : Addr) (s : State) : Outcome :=
  event (arrive port radio station .join) s

/-- PART (R7, R36, R38). -/
def execPart (port : Fin 4) (radio : Byte) (station : Addr) (s : State) : Outcome :=
  event (arrive port radio station .part) s

/-- RELEASE (R34). -/
def execRelease (port : Fin 4) (radio : Byte) (station : Addr) (discarded : Half) (s : State) : Outcome :=
  event (arrive port radio station (.release discarded)) s

/-- RADIO_STATUS (R63): its header carries a station address of all zeros (R185). -/
def execRadioStatus (port : Fin 4) (radio rateClass : Byte) (s : State) : Outcome :=
  event (arrive port radio 0 (.radioStatus rateClass)) s

/-- SCAN (R93). -/
def execScan (port : Fin 4) (radio : Byte) (station : Addr) (code : Word64) (direction scanner : Byte) (s : State) :
    Outcome :=
  event (arrive port radio station (.scan code direction scanner)) s

/-- CHECKIN (R117). -/
def execCheckin (port : Fin 4) (radio : Byte) (station : Addr) (code : Word64) (s : State) : Outcome :=
  event (arrive port radio station (.checkin code)) s

/-- CUE (R144, R145). -/
def execCue (port : Fin 4) (radio : Byte) (station : Addr) (reel mode : Byte) (start : Half) (window : Byte) (s : State) :
    Outcome :=
  event (arrive port radio station (.cue reel mode start window)) s

/-- HALT (R146). -/
def execHalt (port : Fin 4) (radio : Byte) (station : Addr) (s : State) : Outcome :=
  event (arrive port radio station .halt) s

/-- PART_TO_RADIO_SERVICE_FRAME (R23): a code and body are checked as R186 says, and taken as the message they are. -/
def execPartToRadioServiceFrame (port : Fin 4) (radio : Byte) (station : Addr) (code : Byte) (body : List Byte)
    (s : State) : Outcome :=
  event (takeCarrierBytes port.val (serviceBytes radio.toNat station code body)) s

end Sys2Proof.Machine
end

