-- ==== Sys2Proof/Machine/Completions.lean ====
section
/-! DEFINITION. The commands that are completions: of a burst on a port (R56), and of a transfer of the record memory
(R164). A completion of what is not under way does nothing (log entry 9). -/

namespace Sys2Proof.Machine

/-- TRANSMIT_COMPLETION (R56). -/
def execTransmitCompletion (port : Fin 4) (s : State) : Outcome := event (completeTransmit port.val) s

/-- The transfer under way, when it is of kind `k`, completes: the arbiter grants again (R162), `spoilt` bytes stand in the
credential area (R165), a write has written its bytes (R164), and the requester's rule is taken. -/
def completeTransfer (k : ReqKind) (spoilt : List Host.Cell) (rule : Tagged → State → State) (s : State) : State :=
  match s.mem.complete k with
  | none => s
  | some (t, m) => rule t { s with mem := (m.disturb spoilt).written t.req }

/-- CREDENTIAL_FETCH_COMPLETION (R87, R94 to R100, R118). -/
def execCredentialFetchCompletion (spoilt : List Host.Cell) (s : State) : Outcome :=
  event (completeTransfer .fetch spoilt fetchCompleted) s

/-- CREDENTIAL_WRITE_BACK_COMPLETION (R95, R101). -/
def execCredentialWriteBackCompletion (s : State) : Outcome := event (completeTransfer .writeBack [] writeBackCompleted) s

/-- SWEEP_STRIDE_COMPLETION (R109). -/
def execSweepStrideCompletion (spoilt : List Host.Cell) (s : State) : Outcome :=
  event (completeTransfer .stride spoilt strideCompleted) s

/-- CLIP_CHUNK_READ_COMPLETION (R153). -/
def execClipChunkReadCompletion (s : State) : Outcome := event (completeTransfer .chunk [] chunkCompleted) s

/-- CLIP_INGEST_WRITE_COMPLETION (R136). -/
def execClipIngestWriteCompletion (s : State) : Outcome := event (completeTransfer .ingest [] ingestCompleted) s

end Sys2Proof.Machine
end

