-- ==== Sys2Proof/Machine/Directives.lean ====
section
/-! DEFINITION. The commands that are directives: each is the directive arriving as a well-formed management frame from `src`
with its tag (R167, R168); it joins the queue and, in the event in which it reaches the head, is run (R170; log entry 8). -/

namespace Sys2Proof.Machine

/-- A directive arrives (R167, R168). -/
def directiveArrives (src : Addr) (tag : Half) (d : Directive) (s : State) : State :=
  takeDirective ⟨src, tag, d⟩ (s.managementBytes src typeManagement (directiveContent tag d)) (fromUplink s)

/-- The directive the part reads from a body (R190): that of a row whose operands spell another one, or none, is what it
spells. -/
def Directive.readBack (d : Directive) : Directive := parseDirective d.kind d.body

/-- A directive of a body that may be read as another arrives; a body longer than its 2-byte length counts is no frame. -/
def spelledArrives (src : Addr) (tag : Half) (d : Directive) (s : State) : Outcome :=
  if 65535 < d.body.length then .fault .notAFrame else event (directiveArrives src tag d.readBack) s

/-- DESCRIBE (R172). -/
def execDescribe (src : Addr) (tag : Half) (s : State) : Outcome :=
  event (directiveArrives src tag .describe) s

/-- SET_TIME (R173). -/
def execSetTime (src : Addr) (tag : Half) (t : Time) (s : State) : Outcome :=
  event (directiveArrives src tag (.setTime t)) s

/-- COUNTER_READ (R174). -/
def execCounterRead (src : Addr) (tag : Half) (group present index clear : Byte) (s : State) : Outcome :=
  event (directiveArrives src tag (.counterRead group present index clear)) s

/-- ZONE_RESTART (R175). -/
def execZoneRestart (src : Addr) (tag : Half) (s : State) : Outcome :=
  event (directiveArrives src tag .zoneRestart) s

/-- MGMT_FILTER (R169). -/
def execMgmtFilter (src : Addr) (tag : Half) (addrs : List Addr) (present : Byte) (newAddr : Addr)
    (s : State) : Outcome :=
  if 255 < addrs.length then .fault .notAFrame else event (directiveArrives src tag (.mgmtFilter addrs present newAddr)) s

/-- RADIO_CONFIG (R18). -/
def execRadioConfig (src : Addr) (tag : Half) (radio role zone group port remove : Byte) (s : State) : Outcome :=
  event (directiveArrives src tag (.radioConfig radio role zone group port remove)) s

/-- RADIO_STATE (R19). -/
def execRadioState (src : Addr) (tag : Half) (radio newState : Byte) (s : State) : Outcome :=
  event (directiveArrives src tag (.radioState radio newState)) s

/-- RADIO_RESET (R21). -/
def execRadioReset (src : Addr) (tag : Half) (radio : Byte) (s : State) : Outcome :=
  event (directiveArrives src tag (.radioReset radio)) s

/-- STATION_READ (R12). -/
def execStationRead (src : Addr) (tag : Half) (ref : StationRef) (s : State) : Outcome :=
  spelledArrives src tag (.stationRead ref) s

/-- STATION_PIN (R11). -/
def execStationPin (src : Addr) (tag : Half) (a : Addr) (s : State) : Outcome :=
  event (directiveArrives src tag (.stationPin a)) s

/-- STATION_UNPIN (R11). -/
def execStationUnpin (src : Addr) (tag : Half) (a : Addr) (s : State) : Outcome :=
  event (directiveArrives src tag (.stationUnpin a)) s

/-- CLEAR_FANS (R10). -/
def execClearFans (src : Addr) (tag : Half) (s : State) : Outcome :=
  event (directiveArrives src tag .clearFans) s

/-- STATION_SETTINGS (R25). -/
def execStationSettings (src : Addr) (tag : Half) (detach linger window threshold damping : Half)
    (s : State) : Outcome :=
  event (directiveArrives src tag (.stationSettings detach linger window threshold damping)) s

/-- CRED_LOAD (R95). -/
def execCredLoad (src : Addr) (tag : Half) (recs : List LoadRec) (s : State) : Outcome :=
  if 255 < recs.length then .fault .notAFrame else event (directiveArrives src tag (.credLoad recs)) s

/-- CRED_READ (R96). -/
def execCredRead (src : Addr) (tag : Half) (ref : CredRef) (s : State) : Outcome :=
  spelledArrives src tag (.credRead ref) s

/-- CRED_VOID (R97). -/
def execCredVoid (src : Addr) (tag : Half) (code : Word64) (s : State) : Outcome :=
  event (directiveArrives src tag (.credVoid code)) s

/-- CRED_ERASE_WAY (R97, R103). -/
def execCredEraseWay (src : Addr) (tag : Half) (bucket : Half) (way : Byte) (s : State) : Outcome :=
  event (directiveArrives src tag (.credEraseWay bucket way)) s

/-- ADMISSION_FREEZE (R103). -/
def execAdmissionFreeze (src : Addr) (tag : Half) (s : State) : Outcome :=
  event (directiveArrives src tag .admissionFreeze) s

/-- EVENT_CLOSE (R104). -/
def execEventClose (src : Addr) (tag : Half) (s : State) : Outcome :=
  event (directiveArrives src tag .eventClose) s

/-- VOID_SWEEP (R107). -/
def execVoidSweep (src : Addr) (tag : Half) (kind value : Byte) (s : State) : Outcome :=
  event (directiveArrives src tag (.voidSweep kind value)) s

/-- SWEEP_SUSPEND (R112). -/
def execSweepSuspend (src : Addr) (tag : Half) (s : State) : Outcome :=
  event (directiveArrives src tag .sweepSuspend) s

/-- SWEEP_RESUME (R113). -/
def execSweepResume (src : Addr) (tag : Half) (s : State) : Outcome :=
  event (directiveArrives src tag .sweepResume) s

/-- SWEEP_STATUS (R114). -/
def execSweepStatus (src : Addr) (tag : Half) (s : State) : Outcome :=
  event (directiveArrives src tag .sweepStatus) s

/-- CLEAR_REDEMPTIONS (R116). -/
def execClearRedemptions (src : Addr) (tag : Half) (s : State) : Outcome :=
  event (directiveArrives src tag .clearRedemptions) s

/-- REEL_CONFIG (R139). -/
def execReelConfig (src : Addr) (tag : Half) (reel : Byte) (first count : Half) (remove : Byte)
    (s : State) : Outcome :=
  event (directiveArrives src tag (.reelConfig reel first count remove)) s

/-- REEL_RESET (R140). -/
def execReelReset (src : Addr) (tag : Half) (reel : Byte) (s : State) : Outcome :=
  event (directiveArrives src tag (.reelReset reel)) s

/-- REEL_STATUS (R141). -/
def execReelStatus (src : Addr) (tag : Half) (reel present : Byte) (slot : Half) (s : State) : Outcome :=
  event (directiveArrives src tag (.reelStatus reel present slot)) s

/-- PROFILE_ACCESS (R78). -/
def execProfileAccess (src : Addr) (tag : Half) (ctx : Byte) (s : State) : Outcome :=
  event (directiveArrives src tag (.profileAccess ctx)) s

/-- PROFILE_WRITE (R79). -/
def execProfileWrite (src : Addr) (tag : Half) (part : ProfilePart) (s : State) : Outcome :=
  spelledArrives src tag (.profileWrite part) s

/-- PROFILE_VALIDATE (R80). -/
def execProfileValidate (src : Addr) (tag : Half) (s : State) : Outcome :=
  event (directiveArrives src tag .profileValidate) s

/-- PHASE_SET (R81, R82). -/
def execPhaseSet (src : Addr) (tag : Half) (ctx : Byte) (s : State) : Outcome :=
  event (directiveArrives src tag (.phaseSet ctx)) s

/-- SURGE_SET (R74). -/
def execSurgeSet (src : Addr) (tag : Half) (flag : Byte) (s : State) : Outcome :=
  event (directiveArrives src tag (.surgeSet flag)) s

/-- RATE_TABLE (R62). -/
def execRateTable (src : Addr) (tag : Half) (rates : List Half) (s : State) : Outcome :=
  spelledArrives src tag (.rateTable rates) s

/-- ERROR_READ (R181). -/
def execErrorRead (src : Addr) (tag : Half) (clear : Byte) (s : State) : Outcome :=
  event (directiveArrives src tag (.errorRead clear)) s

/-- ERROR_CLEAR (R181). -/
def execErrorClear (src : Addr) (tag : Half) (classes : Half) (record : Byte) (s : State) : Outcome :=
  event (directiveArrives src tag (.errorClear classes record)) s

/-- ERROR_CONFIG (R180). -/
def execErrorConfig (src : Addr) (tag : Half) (cls mask severity : Byte) (threshold : Half) (s : State) : Outcome :=
  event (directiveArrives src tag (.errorConfig cls mask severity threshold)) s

/-- NOTICE_CONFIG (R183). -/
def execNoticeConfig (src : Addr) (tag : Half) (entry : Byte) (dest : Addr) (enable mask kinds : Byte)
    (s : State) : Outcome :=
  event (directiveArrives src tag (.noticeConfig entry dest enable mask kinds)) s

/-- UNKNOWN_DIRECTIVE (R170). -/
def execUnknownDirective (src : Addr) (tag : Half) (kind : Half) (body : List Byte) (s : State) : Outcome :=
  spelledArrives src tag (.unknown kind body) s

end Sys2Proof.Machine
end

