-- ==== Sys2Proof/Machine/Expiries.lean ====
section
/-! DEFINITION. The commands that are timer expiries. -/

namespace Sys2Proof.Machine

/-- LINGER_EXPIRY (R8). -/
def execLingerExpiry (handle : Fin 8192) (s : State) : Outcome := event (lingerExpire handle.val) s

/-- DETACH_TIMER_EXPIRY (R35). -/
def execDetachTimerExpiry (handle : Fin 8192) (s : State) : Outcome := event (detachExpire handle.val) s

/-- DAMPING_EXPIRY (R41). -/
def execDampingExpiry (handle : Fin 8192) (s : State) : Outcome := event (dampingExpire handle.val) s

/-- SEAL_TIMER_EXPIRY (R49). -/
def execSealTimerExpiry (radio : Fin 256) (s : State) : Outcome := event (sealExpire radio.val) s

/-- WAKE_TIMER_EXPIRY (R71). -/
def execWakeTimerExpiry (radio : Fin 256) (s : State) : Outcome := event (wakeExpire radio.val) s

/-- STAGE_TIMER_EXPIRY (R75). -/
def execStageTimerExpiry (s : State) : Outcome := event stageExpire s

end Sys2Proof.Machine
end

