-- ==== Sys2Proof/Machine/Pins.lean ====
section
/-! DEFINITION. The commands of the pins: COLD_RESET and SURGE_LINE_CHANGE. -/

namespace Sys2Proof.Machine

/-- Cold reset: every block at its reset value; the waiting commands, the factory address, the level of the SURGE line and
the contents of record memory, which are ignored, stay (R2, R83, R160, R166, R176). -/
def coldReset (s : State) : State :=
  { pending := s.pending
    factory := s.factory
    surgeLine := s.surgeLine
    gov := { surge := if s.surgeLine then .on else .off }
    mem := { cred := s.mem.cred, clip := s.mem.clip }
    mgmt := { address := s.factory }
    ev := { number := s.ev.number }
    draws := s.draws }

/-- COLD_RESET. -/
def execColdReset (s : State) : Outcome := event coldReset s

/-- The SURGE line takes a level, and the governor takes the change (R73). -/
def changeLine (level : Bool) (s : State) : State := takeSurge s.surgeAsserted { s with surgeLine := level }

/-- SURGE_LINE_CHANGE (R73). -/
def execSurgeLineChange (level : Bool) (s : State) : Outcome := event (changeLine level) s

end Sys2Proof.Machine
end

