-- ==== Sys2Proof/Machine/UplinkFrames.lean ====
section
/-! DEFINITION. The commands that are frames from the uplink, but for the directives: DOWNSTREAM_DATA_FRAME,
MANAGEMENT_FRAME, and the reel frames. -/

namespace Sys2Proof.Machine

/-- DOWNSTREAM_DATA_FRAME (R22): a destination that is the management or the ingest address is sorted as R167 says. -/
def execDownstreamDataFrame (dst src : Addr) (etype : Half) (payload : List Byte) (s : State) : Outcome :=
  event (fun s => takeUplinkFrame dst src etype payload (fromUplink s)) s

/-- MANAGEMENT_FRAME (R167, R168). -/
def execManagementFrame (src : Addr) (etype : Half) (content : List Byte) (s : State) : Outcome :=
  event (fun s => takeManagementFrame src etype content (fromUplink s)) s

/-- MALFORMED_REEL_FRAME (R131, R188): content that passes the checks is taken as the reel frame it is. -/
def execMalformedReelFrame (src : Addr) (etype : Half) (content : List Byte) (s : State) : Outcome :=
  event (fun s => takeReelFrame src etype content (fromUplink s)) s

/-- A reel frame of the given message (R131). -/
def takeReel (src : Addr) (m : ReelMsg) (s : State) : State :=
  takeReelMsg (s.ingestFrame src typeReel m.content) m s

/-- SEGMENT_OPEN (R132 to R134). -/
def execSegmentOpen (src : Addr) (reel : Byte) (seq len : Word32) (s : State) : Outcome :=
  event (fun s => takeReel src (.segOpen reel seq len) (fromUplink s)) s

/-- SEGMENT_DATA (R135): data of no bytes, or of more than 1,400, makes a malformed reel frame (R188). -/
def execSegmentData (src : Addr) (reel : Byte) (seq offset : Word32) (data : List Byte) (s : State) : Outcome :=
  event (fun s =>
    if data = [] ∨ Config.frameData < data.length then malformedReel (fromUplink s)
    else takeReel src (.segData reel seq offset data) (fromUplink s)) s

/-- SEGMENT_CLOSE (R137). -/
def execSegmentClose (src : Addr) (reel : Byte) (seq : Word32) (s : State) : Outcome :=
  event (fun s => takeReel src (.segClose reel seq) (fromUplink s)) s

end Sys2Proof.Machine
end

