-- ==== Sys2Proof/Machine/Dispatch.lean ====
section
/-! DEFINITION. One arm per command: the call of its meaning. -/

namespace Sys2Proof.Machine

def exec (i : Instr) (s : State) : Host.Outcome State Fault Refusal :=
  match i with
  | .coldReset => Sys2Proof.Machine.execColdReset s
  | .surgeLineChange level => Sys2Proof.Machine.execSurgeLineChange level s
  | .downstreamDataFrame dst src etype payload => Sys2Proof.Machine.execDownstreamDataFrame dst src etype payload s
  | .managementFrame src etype content => Sys2Proof.Machine.execManagementFrame src etype content s
  | .malformedReelFrame src etype content => Sys2Proof.Machine.execMalformedReelFrame src etype content s
  | .segmentOpen src reel seq len => Sys2Proof.Machine.execSegmentOpen src reel seq len s
  | .segmentData src reel seq offset data => Sys2Proof.Machine.execSegmentData src reel seq offset data s
  | .segmentClose src reel seq => Sys2Proof.Machine.execSegmentClose src reel seq s
  | .malformedCarrierFrame port bytes => Sys2Proof.Machine.execMalformedCarrierFrame port bytes s
  | .upstreamDataFrame port radio station dst etype payload => Sys2Proof.Machine.execUpstreamDataFrame port radio station dst etype payload s
  | .join port radio station => Sys2Proof.Machine.execJoin port radio station s
  | .part port radio station => Sys2Proof.Machine.execPart port radio station s
  | .release port radio station discarded => Sys2Proof.Machine.execRelease port radio station discarded s
  | .radioStatus port radio rateClass => Sys2Proof.Machine.execRadioStatus port radio rateClass s
  | .scan port radio station code direction scanner => Sys2Proof.Machine.execScan port radio station code direction scanner s
  | .checkin port radio station code => Sys2Proof.Machine.execCheckin port radio station code s
  | .cue port radio station reel mode start window => Sys2Proof.Machine.execCue port radio station reel mode start window s
  | .halt port radio station => Sys2Proof.Machine.execHalt port radio station s
  | .partToRadioServiceFrame port radio station code body => Sys2Proof.Machine.execPartToRadioServiceFrame port radio station code body s
  | .lingerExpiry handle => Sys2Proof.Machine.execLingerExpiry handle s
  | .detachTimerExpiry handle => Sys2Proof.Machine.execDetachTimerExpiry handle s
  | .dampingExpiry handle => Sys2Proof.Machine.execDampingExpiry handle s
  | .sealTimerExpiry radio => Sys2Proof.Machine.execSealTimerExpiry radio s
  | .wakeTimerExpiry radio => Sys2Proof.Machine.execWakeTimerExpiry radio s
  | .stageTimerExpiry => Sys2Proof.Machine.execStageTimerExpiry s
  | .transmitCompletion port => Sys2Proof.Machine.execTransmitCompletion port s
  | .credentialFetchCompletion spoilt => Sys2Proof.Machine.execCredentialFetchCompletion spoilt s
  | .credentialWriteBackCompletion => Sys2Proof.Machine.execCredentialWriteBackCompletion s
  | .sweepStrideCompletion spoilt => Sys2Proof.Machine.execSweepStrideCompletion spoilt s
  | .clipChunkReadCompletion => Sys2Proof.Machine.execClipChunkReadCompletion s
  | .clipIngestWriteCompletion => Sys2Proof.Machine.execClipIngestWriteCompletion s
  | .describe src tag => Sys2Proof.Machine.execDescribe src tag s
  | .setTime src tag t => Sys2Proof.Machine.execSetTime src tag t s
  | .counterRead src tag group present index clear => Sys2Proof.Machine.execCounterRead src tag group present index clear s
  | .zoneRestart src tag => Sys2Proof.Machine.execZoneRestart src tag s
  | .mgmtFilter src tag addrs present newAddr => Sys2Proof.Machine.execMgmtFilter src tag addrs present newAddr s
  | .radioConfig src tag radio role zone group port remove => Sys2Proof.Machine.execRadioConfig src tag radio role zone group port remove s
  | .radioState src tag radio newState => Sys2Proof.Machine.execRadioState src tag radio newState s
  | .radioReset src tag radio => Sys2Proof.Machine.execRadioReset src tag radio s
  | .stationRead src tag ref => Sys2Proof.Machine.execStationRead src tag ref s
  | .stationPin src tag a => Sys2Proof.Machine.execStationPin src tag a s
  | .stationUnpin src tag a => Sys2Proof.Machine.execStationUnpin src tag a s
  | .clearFans src tag => Sys2Proof.Machine.execClearFans src tag s
  | .stationSettings src tag detach linger window threshold damping => Sys2Proof.Machine.execStationSettings src tag detach linger window threshold damping s
  | .credLoad src tag recs => Sys2Proof.Machine.execCredLoad src tag recs s
  | .credRead src tag ref => Sys2Proof.Machine.execCredRead src tag ref s
  | .credVoid src tag code => Sys2Proof.Machine.execCredVoid src tag code s
  | .credEraseWay src tag bucket way => Sys2Proof.Machine.execCredEraseWay src tag bucket way s
  | .admissionFreeze src tag => Sys2Proof.Machine.execAdmissionFreeze src tag s
  | .eventClose src tag => Sys2Proof.Machine.execEventClose src tag s
  | .voidSweep src tag kind value => Sys2Proof.Machine.execVoidSweep src tag kind value s
  | .sweepSuspend src tag => Sys2Proof.Machine.execSweepSuspend src tag s
  | .sweepResume src tag => Sys2Proof.Machine.execSweepResume src tag s
  | .sweepStatus src tag => Sys2Proof.Machine.execSweepStatus src tag s
  | .clearRedemptions src tag => Sys2Proof.Machine.execClearRedemptions src tag s
  | .reelConfig src tag reel first count remove => Sys2Proof.Machine.execReelConfig src tag reel first count remove s
  | .reelReset src tag reel => Sys2Proof.Machine.execReelReset src tag reel s
  | .reelStatus src tag reel present slot => Sys2Proof.Machine.execReelStatus src tag reel present slot s
  | .profileAccess src tag ctx => Sys2Proof.Machine.execProfileAccess src tag ctx s
  | .profileWrite src tag part => Sys2Proof.Machine.execProfileWrite src tag part s
  | .profileValidate src tag => Sys2Proof.Machine.execProfileValidate src tag s
  | .phaseSet src tag ctx => Sys2Proof.Machine.execPhaseSet src tag ctx s
  | .surgeSet src tag flag => Sys2Proof.Machine.execSurgeSet src tag flag s
  | .rateTable src tag rates => Sys2Proof.Machine.execRateTable src tag rates s
  | .errorRead src tag clear => Sys2Proof.Machine.execErrorRead src tag clear s
  | .errorClear src tag classes record => Sys2Proof.Machine.execErrorClear src tag classes record s
  | .errorConfig src tag cls mask severity threshold => Sys2Proof.Machine.execErrorConfig src tag cls mask severity threshold s
  | .noticeConfig src tag entry dest enable mask kinds => Sys2Proof.Machine.execNoticeConfig src tag entry dest enable mask kinds s
  | .unknownDirective src tag kind body => Sys2Proof.Machine.execUnknownDirective src tag kind body s

end Sys2Proof.Machine
end

