-- ==== Sys2Proof/Machine/Tick.lean ====
section
/-! DEFINITION. A tick of the clock: venue time counts one microsecond, the uplink's oldest frame leaves, the timers whose
deadlines venue time has reached send their expiries (R171, R173; log entry 2), and the oldest frame of each receive FIFO is
taken (log entry 19). -/

namespace Sys2Proof.Machine

/-- The oldest frame of the uplink transmit FIFO leaves the port (R171, R174). -/
def uplinkSends (s : State) : State :=
  match s.uplink.tx with
  | [] => s
  | _ :: rest => { s with uplink := { s.uplink with tx := rest, ctrs := { s.uplink.ctrs with sent := bump s.uplink.ctrs.sent } } }

/-- The commands a test gives for the numbers of a list that lie below `n`. -/
def commandsBelow (n : Nat) (mk : Fin n → Instr) (due : Nat → Bool) (l : List Nat) : List Instr :=
  l.filterMap (fun k => if h : k < n then (if due k then some (mk ⟨k, h⟩) else none) else none)

/-- The expiries of the timers that are due, in the order of `expireDue`. -/
def expiries (s : State) : List Instr :=
  let hs := s.stations.map Prod.fst
  commandsBelow 8192 .lingerExpiry (fun h => lingerDue h s) hs
    ++ commandsBelow 8192 .detachTimerExpiry (fun h => detachDue h s) hs
    ++ commandsBelow 8192 .dampingExpiry (fun h => dampingDue h s) hs
    ++ commandsBelow 256 .sealTimerExpiry s.sealDue s.sealRadios
    ++ commandsBelow 256 .wakeTimerExpiry (fun r => wakeDue r s) (s.radios.map Prod.fst)
    ++ (if stageDue s then [.stageTimerExpiry] else [])

/-- The frames at the heads of the receive FIFOs, as the commands they are: the uplink's, then those of the downlink ports in
order of port number (log entry 19). -/
def arrivals (s : State) : List Instr :=
  (s.uplink.rx.head?.map (fun f => Instr.downstreamDataFrame f.dst f.src f.etype f.payload)).toList
    ++ ([0, 1, 2, 3] : List (Fin 4)).filterMap (fun p =>
      (s.port p.val).rx.head?.map (fun bytes => Instr.malformedCarrierFrame p bytes))

/-- The oldest frame of each receive FIFO is taken from it. -/
def takeArrivals (s : State) : State :=
  { s with
    uplink := { s.uplink with rx := s.uplink.rx.tail }
    ports := s.ports.mapVals {} (fun p => { p with rx := p.rx.tail }) }

/-- A tick (R173). -/
def tick (s : State) : State :=
  let s1 := uplinkSends { s with venueTime := s.venueTime + 1 }
  { takeArrivals s1 with pending := s1.pending ++ expiries s1 ++ arrivals s1 }

end Sys2Proof.Machine
end

