-- ==== Sys2Proof/WellFormed.lean ====
section
/-! DEFINITION. Well-formed commands: those whose operands a frame or an event of their row can carry
(13_frame_and_record_formats.md). `exec` does not ask for well-formedness; statements and tests do. -/

namespace Sys2Proof

open Sys2Proof.Machine

/-- A reference of STATION_READ whose form byte is its own: a form byte of 1 or 2 spells another reference (R190). -/
def stationRefWf (r : StationRef) : Bool :=
  match r with
  | .badForm form rest => decide (form ≠ 1 ∧ form ≠ 2 ∧ rest.length ≤ 65534)
  | _ => true

/-- A reference of CRED_READ, likewise (R190). -/
def credRefWf (r : CredRef) : Bool :=
  match r with
  | .badForm form rest => decide (form ≠ 1 ∧ form ≠ 2 ∧ rest.length ≤ 65534)
  | _ => true

/-- A part of PROFILE_WRITE: a part outside the list is above 10 (R79, R190). -/
def profilePartWf (p : ProfilePart) : Bool :=
  match p with
  | .badPart part rest => decide (10 < part.toNat ∧ rest.length ≤ 65534)
  | _ => true

/-- A directive's fields fit its body: counts in one byte, the 16 rates, and a body that no kind takes where the directive
is unknown (R189, R190). -/
def directiveWf (d : Directive) : Bool :=
  match d with
  | .mgmtFilter addrs _ _ => decide (addrs.length ≤ 255)
  | .credLoad recs => decide (recs.length ≤ 255)
  | .stationRead ref => stationRefWf ref
  | .credRead ref => credRefWf ref
  | .profileWrite part => profilePartWf part
  | .rateTable rates => decide (rates.length = 16)
  | .unknown kind body => decide (body.length ≤ 65535 ∧ parseDirective kind body = .unknown kind body)
  | _ => true

/-- The message code and body length of a message that travels from the part to the radios (R185). -/
def toRadioWf (code : Byte) (body : List Byte) : Bool :=
  decide (0x10 ≤ code.toNat ∧ serviceLength code.toNat = some body.length)

/-- A payload an Ethernet frame of the part carries (R22, R186). -/
def payloadWf (l : List Byte) : Bool := decide (1 ≤ l.length ∧ l.length ≤ 1500)

/-- A carrier frame is one a downlink port can carry past the format checks: a data payload of 1 to 1,500 bytes, and a
message from the part to the radios with its own code and length (R186). -/
def carrierWf (c : CarrierFrame) : Bool :=
  match c.msg with
  | .data _ _ payload => payloadWf payload
  | .toRadio code body => toRadioWf code body
  | _ => true

/-- A reel message the format checks pass: 1 to 1,400 bytes of data (R188). -/
def reelWf (m : ReelMsg) : Bool :=
  match m with
  | .segData _ _ _ data => decide (1 ≤ data.length ∧ data.length ≤ Config.frameData)
  | _ => true

/-- The disturbed bytes of a credential read lie in the credential area, 4,194,304 bytes (R160, R165). -/
def spoiltWf (l : List Host.Cell) : Bool := l.all (fun c => decide (c.1 < 4194304))

/-- A command's operands are such as its row carries. -/
def Instr.wf (i : Instr) : Bool :=
  match i with
  | .coldReset => true
  | .surgeLineChange _ => true
  | .downstreamDataFrame _ _ _ _ => true
  | .managementFrame _ _ _ => true
  | .malformedReelFrame _ etype content => (parseReel etype content).isNone
  | .segmentOpen _ _ _ _ => true
  | .segmentData _ _ _ _ data => decide (1 ≤ data.length ∧ data.length ≤ Config.frameData)
  | .segmentClose _ _ _ => true
  | .malformedCarrierFrame _ bytes => (parseCarrier bytes).isNone
  | .upstreamDataFrame _ _ _ _ _ payload => payloadWf payload
  | .join _ _ _ => true
  | .part _ _ _ => true
  | .release _ _ _ _ => true
  | .radioStatus _ _ _ => true
  | .scan _ _ _ _ _ _ => true
  | .checkin _ _ _ _ => true
  | .cue _ _ _ _ _ _ _ => true
  | .halt _ _ _ => true
  | .partToRadioServiceFrame _ _ _ code body => toRadioWf code body
  | .lingerExpiry _ => true
  | .detachTimerExpiry _ => true
  | .dampingExpiry _ => true
  | .sealTimerExpiry _ => true
  | .wakeTimerExpiry _ => true
  | .stageTimerExpiry => true
  | .transmitCompletion _ => true
  | .credentialFetchCompletion spoilt => spoiltWf spoilt
  | .credentialWriteBackCompletion => true
  | .sweepStrideCompletion spoilt => spoiltWf spoilt
  | .clipChunkReadCompletion => true
  | .clipIngestWriteCompletion => true
  | .describe _ _ => true
  | .setTime _ _ _ => true
  | .counterRead _ _ _ _ _ _ => true
  | .zoneRestart _ _ => true
  | .mgmtFilter _ _ addrs present a => directiveWf (.mgmtFilter addrs present a)
  | .radioConfig _ _ _ _ _ _ _ _ => true
  | .radioState _ _ _ _ => true
  | .radioReset _ _ _ => true
  | .stationRead _ _ ref => directiveWf (.stationRead ref)
  | .stationPin _ _ _ => true
  | .stationUnpin _ _ _ => true
  | .clearFans _ _ => true
  | .stationSettings _ _ _ _ _ _ _ => true
  | .credLoad _ _ recs => directiveWf (.credLoad recs)
  | .credRead _ _ ref => directiveWf (.credRead ref)
  | .credVoid _ _ _ => true
  | .credEraseWay _ _ _ _ => true
  | .admissionFreeze _ _ => true
  | .eventClose _ _ => true
  | .voidSweep _ _ _ _ => true
  | .sweepSuspend _ _ => true
  | .sweepResume _ _ => true
  | .sweepStatus _ _ => true
  | .clearRedemptions _ _ => true
  | .reelConfig _ _ _ _ _ _ => true
  | .reelReset _ _ _ => true
  | .reelStatus _ _ _ _ _ => true
  | .profileAccess _ _ _ => true
  | .profileWrite _ _ p => directiveWf (.profileWrite p)
  | .profileValidate _ _ => true
  | .phaseSet _ _ _ => true
  | .surgeSet _ _ _ => true
  | .rateTable _ _ rates => directiveWf (.rateTable rates)
  | .errorRead _ _ _ => true
  | .errorClear _ _ _ _ => true
  | .errorConfig _ _ _ _ _ _ => true
  | .noticeConfig _ _ _ _ _ _ _ => true
  | .unknownDirective _ _ kind body => directiveWf (.unknown kind body)

end Sys2Proof
end

