-- ==== Sys2Proof/Safety.lean ====
section
/-! DEFINITION. The terms statements are made in: what holds between two events, when a directive runs as it arrives, the
bounds the spec gives the part's queues and pools, and the canonical forms of the tables and areas. -/

namespace Sys2Proof.Machine

/-- No bookkeeping of an event is left over (log entry 7). -/
abbrev State.Quiet (s : State) : Prop := s.ev = { number := s.ev.number }

/-- A directive from `src` is taken and runs as it arrives: the filter accepts the source and no directive is held (R168,
R170). -/
abbrev State.RunsAtOnce (s : State) (src : Addr) : Prop :=
  (s.mgmt.filter = [] ∨ s.mgmt.filter.contains src = true) ∧ s.mgmt.queue = [] ∧ s.mgmt.started = false

/-- No directive at the head of the management queue still has to be run: the queue is empty, or its head waits at its owner
(R170). Every event ends so. -/
abbrev State.Settled (s : State) : Prop := s.mgmt.queue = [] ∨ s.mgmt.started = true

/-- A state between two events, where a command meets it. -/
abbrev State.Between (s : State) : Prop := s.Quiet ∧ s.Settled

/-- The state a command from a quiet state leaves when nothing else follows from it: the number of the next event. -/
def State.ended (s : State) : State := { s with ev := { number := s.ev.number + 1 } }

/-- A directive's arrival is counted: a frame from the uplink, and a directive received (R174, R176). -/
def State.arrived (s : State) : State :=
  { s with
    uplink := { s.uplink with ctrs := { s.uplink.ctrs with received := bump s.uplink.ctrs.received } }
    mgmt := { s.mgmt with ctrs := { s.mgmt.ctrs with received := bump s.mgmt.ctrs.received } } }

/-- A directive from `src` has arrived at an empty queue and stands at its head. -/
def State.queued (s : State) (e : MgmtEntry) : State := { s.arrived with mgmt := { s.arrived.mgmt with queue := [e] } }

/-- A reply with kind, tag, status and body is sent from the management address in force and counted (R171, R176). -/
def State.replied (s : State) (src : Addr) (kind tag : Half) (st : Status) (body : List Byte) : State :=
  { s with
    uplink := { s.uplink with tx := s.uplink.tx ++ [.reply src s.mgmt.address kind tag st body] }
    mgmt := { s.mgmt with ctrs := s.mgmt.ctrs.replied st } }

/-- A frame from a downlink port of this radio passes the carrier checks: the radio is IN_SERVICE on that port (R23). -/
abbrev State.Passes (s : State) (port r : Nat) : Prop :=
  (s.radio r).state = .inService ∧ (s.radio r).cfg.map RadioCfg.port = some port

/-- A frame from a downlink port is counted (R174). -/
def State.portHeard (s : State) (port : Nat) : State :=
  s.modPortCtrs port (fun k => { k with received := bump k.received })

/-- The bounds of the part's queues and pools: management queue (R170), source filter (R169), scan queue (R90), ingest
writes (R136), starvation counters (R163), egress pool (R44). -/
structure State.Bounded (s : State) : Prop where
  queue : s.mgmt.queue.length ≤ 8
  filter : s.mgmt.filter.length ≤ 4
  items : s.adm.items.length ≤ 64
  outstanding : s.replay.outstanding ≤ 128
  starveIngest : s.mem.starveIngest ≤ 16
  starveStride : s.mem.starveStride ≤ 64
  buffers : s.egress.buffers ≤ 4096
  bursts : s.egress.bursts ≤ 1024

/-- The two areas of the record memory are in canonical form. -/
def State.MemoryWf (s : State) : Prop := Memory.wf s.mem.cred = true ∧ Memory.wf s.mem.clip = true

/-- What every step keeps. -/
structure State.Inv (s : State) : Prop where
  bounded : s.Bounded
  memory : s.MemoryWf

/-- The bounds of the remaining pools: hold pool and hold queues (R26), pinned set (R11), delivery places (R149), and the
REPLAY list of each radio (R45). -/
structure State.Pools (s : State) : Prop where
  held : s.holdUsed ≤ 2048
  queues : ∀ e ∈ s.stations, e.2.hold.length ≤ 64
  pinned : s.pinnedCount ≤ 512
  deliveries : s.replay.deliveries.length ≤ 1024
  places : ∀ r, s.deliveriesAt r ≤ 8
  replay : ∀ e ∈ s.egress.lists, e.2.replay.length ≤ 4

/-- Every table is in its canonical form: keys strictly rising, and, where an unlisted key reads as a default, no entry equal
to it. -/
structure State.Tables (s : State) : Prop where
  stations : Table.sorted s.stations = true
  ctxs : Table.sorted s.roam.ctxs = true
  marks : Table.sorted s.roam.marks = true
  deliveries : Table.sorted s.replay.deliveries = true
  mapping : Table.sorted s.err.mapping = true
  ports : Table.wf {} s.ports = true
  radios : Table.wf {} s.radios = true
  lists : Table.wf {} s.egress.lists = true
  map : Table.wf {} s.adm.map = true
  occupancy : Table.wf 0 s.adm.occupancy = true
  reels : Table.wf {} s.replay.reels = true
  slots : Table.wf {} s.replay.slots = true
  waiting : Table.wf [] s.replay.waiting = true
  classes : Table.wf {} s.err.classes = true
  entries : Table.wf {} s.err.entries = true

/-- A step is safe: it answers a next state, no fault and no refusal. -/
def Safe (o : Outcome) : Prop := ∃ t, o = .next t

/-! ### What statements say of a next state -/

/-- The state a directive from `src` leaves when it is answered as it arrives and changes the part to `v`: the frame and the
directive are counted, the reply is sent and counted, and the event ends (R170, R171). -/
def State.concluded (v : State) (src : Addr) (kind tag : Half) (st : Status) (body : List Byte) : State :=
  (v.arrived.replied src kind tag st body).ended

/-- A state in which a directive from `src` runs as it arrives: between two events, its source accepted, no directive held. -/
abbrev State.Ready (s : State) (src : Addr) : Prop := s.Quiet ∧ s.RunsAtOnce src

/-- Nothing differs but what the arbiters of ports change in granting and dispatching (R52, R54, R65): the radios, the class
lists and the ports. -/
def State.Dispatched (s t : State) : Prop :=
  t = { s with radios := t.radios, ports := t.ports, egress := { s.egress with lists := t.egress.lists } }

/-- The port a radio is configured on is sending, so that its arbiter does not run (R53). -/
def State.portBusy (s : State) (r : Nat) : Bool :=
  match (s.radio r).cfg with
  | some c => (s.port c.port).sending.isSome
  | none => true

/-- All four ports are sending. -/
def State.allBusy (s : State) : Bool := [0, 1, 2, 3].all (fun p => (s.port p).sending.isSome)

/-- The admission engine holds no work item, no operation and no stride, and no marked request is at the controller, so that
every bucket is free and every fetch slot too (R91, R92). -/
abbrev State.AdmissionIdle (s : State) : Prop :=
  s.adm.items = [] ∧ s.adm.op = none ∧ s.adm.sweep.stride = none ∧ s.mem.all.all (fun t => !t.marked) = true

/-- An error of class `c` charges a strike to the radio it names: the class is quarantinable, unmasked and of severity
QUARANTINE, and the radio is IN_SERVICE (R178, R179). -/
def State.charges (s : State) (c : ErrClass) (r : Nat) : Bool :=
  c.quarantinable && !(s.errState c).masked && (s.errState c).quarantine && s.inService r

/-- An occurrence of class `c` that names radio `r` is taken, with the strike it charges where that does not reach the
threshold (R178, R179). -/
def State.faulted (s : State) (o : Occurrence) (r : Nat) : State :=
  if s.charges o.cls r then
    (takeOccurrence o s).modRadio r (fun x => { x with strikes := min (x.strikes + 1) 255 })
  else takeOccurrence o s

/-- No strike against `r` for class `c` reaches the threshold now. -/
def State.noQuarantine (s : State) (c : ErrClass) (r : Nat) : Bool :=
  !s.charges c r || decide (min ((s.radio r).strikes + 1) 255 < s.err.threshold)

/-- An occurrence of a class that names a radio, or none, and was caused by a frame (R178). -/
abbrev anError (c : ErrClass) (radio : Option Nat) (frame : List Byte) : Occurrence := ⟨c, radio, none, none, some frame⟩

/-- What is left once the check results of a completed read are applied (R87, R109, R165): the failures of its check set are
counted at the controller; each way whose record fails is marked faulty and counted, and RECORD_FAULT is taken for it, in order
of position (log entry 28). -/
def State.checked (s : State) (check : List Nat) : State :=
  let bad := check.filter (fun p => !s.credPasses p)
  let counted : State := { s with mem := { s.mem with ctrs := { s.mem.ctrs with
    checkFailures := bumpBy s.mem.ctrs.checkFailures bad.length } } }
  bad.foldl (fun t p => takeOccurrence { cls := .recordFault, place := some (p / 4, p % 4) }
    ((t.setEntry p { t.entry p with faulty := true }).modAdmCtrs (fun k => { k with faultyFound := bump k.faultyFound }))) counted

/-- A service message to a station's radio (R44, R185). -/
abbrev serviceFrame (station : Addr) (code : Byte) (body : List Byte) : Frame :=
  { kind := .service code, dst := station, payload := body }

/-- No frame of the station at `h` lies in an OPEN or CLOSED burst of radio `r` (R27). -/
def State.noneQueued (s : State) (h r : Nat) : Bool :=
  Cls.all.all (fun c => (s.list r c).all (fun b => b.isTransmitting || b.frames.all (fun f => f.handle ≠ some h)))

/-- The frames of a radio's OPEN and CLOSED bursts, list by list (R59). -/
def State.unsent (s : State) (r : Nat) : List Frame :=
  Cls.all.flatMap (fun c => ((s.list r c).filter (fun b => !b.isTransmitting)).flatMap Burst.frames)

/-- How many OPEN and CLOSED bursts a radio's lists hold. -/
def State.unsentBursts (s : State) (r : Nat) : Nat :=
  (Cls.all.map (fun c => ((s.list r c).filter (fun b => !b.isTransmitting)).length)).sum

/-- What is left once radio `r` has detached its stations and its lists are purged (R20, R59), where it takes part in no handoff
and has no delivery: each record ATTACHED to it is UNATTACHED, marks naming it are cleared, only TRANSMITTING bursts stay in
its lists, each frame discarded lowers its station's egress count (R15), and the radio's record is what `g` makes of it. -/
def State.withoutRadio (s : State) (r : Nat) (g : Radio → Radio) : State :=
  let kept := fun c => (s.list r c).filter Burst.isTransmitting
  let s1 : State := { s with
    stations := s.stations.map (fun (e : Nat × Station) => (e.1,
      if e.2.state = .attached ∧ e.2.current = some r then
        { e.2 with
          state := .unattached, current := none
          linger := if e.2.pinned then none else some (s.venueTime + usec (s.roam.settings.lingerS * 1000000))
          sub := e.2.sub.map (fun b => { b with rider := none }) }
      else e.2))
    roam := { s.roam with marks := s.roam.marks.filter (fun e => decide (e.2 ≠ r)) } }
  let s2 := s1.setLists r ⟨kept .admission, kept .fan, kept .visitor, kept .replay⟩
  let s3 := { s2 with
    egress := { s2.egress with
      buffers := s.egress.buffers - (s.unsent r).length, bursts := s.egress.bursts - s.unsentBursts r } }
  ((s.unsent r).foldl (fun s f => lowerEgress f.handle s) s3).modRadio r g

/-- A state in which a radio can leave service with nothing more to follow: no handoff, no delivery, nothing waits, drains or is
stalled, and the tables are in their canonical form. -/
abbrev State.Undisturbed (s : State) : Prop :=
  s.roam.ctxs = [] ∧ s.roam.drain = [] ∧ s.replay.deliveries = [] ∧ s.replay.waiting = [] ∧ s.replay.stalled = []
    ∧ Table.sorted s.stations = true ∧ Table.wf {} s.egress.lists = true

end Sys2Proof.Machine

namespace Sys2Proof

open Sys2Proof.Machine

/-- The directive a command is, as the management queue holds it; none for a command that is no directive. -/
def Instr.directive (i : Instr) : Option MgmtEntry :=
  match i with
  | .describe src tag => some ⟨src, tag, .describe⟩
  | .setTime src tag t => some ⟨src, tag, .setTime t⟩
  | .counterRead src tag group present index clear => some ⟨src, tag, .counterRead group present index clear⟩
  | .zoneRestart src tag => some ⟨src, tag, .zoneRestart⟩
  | .mgmtFilter src tag addrs present newAddr => some ⟨src, tag, .mgmtFilter addrs present newAddr⟩
  | .radioConfig src tag radio role zone group port remove => some ⟨src, tag, .radioConfig radio role zone group port remove⟩
  | .radioState src tag radio newState => some ⟨src, tag, .radioState radio newState⟩
  | .radioReset src tag radio => some ⟨src, tag, .radioReset radio⟩
  | .stationRead src tag ref => some ⟨src, tag, .stationRead ref⟩
  | .stationPin src tag a => some ⟨src, tag, .stationPin a⟩
  | .stationUnpin src tag a => some ⟨src, tag, .stationUnpin a⟩
  | .clearFans src tag => some ⟨src, tag, .clearFans⟩
  | .stationSettings src tag detach linger window threshold damping =>
    some ⟨src, tag, .stationSettings detach linger window threshold damping⟩
  | .credLoad src tag recs => some ⟨src, tag, .credLoad recs⟩
  | .credRead src tag ref => some ⟨src, tag, .credRead ref⟩
  | .credVoid src tag code => some ⟨src, tag, .credVoid code⟩
  | .credEraseWay src tag bucket way => some ⟨src, tag, .credEraseWay bucket way⟩
  | .admissionFreeze src tag => some ⟨src, tag, .admissionFreeze⟩
  | .eventClose src tag => some ⟨src, tag, .eventClose⟩
  | .voidSweep src tag kind value => some ⟨src, tag, .voidSweep kind value⟩
  | .sweepSuspend src tag => some ⟨src, tag, .sweepSuspend⟩
  | .sweepResume src tag => some ⟨src, tag, .sweepResume⟩
  | .sweepStatus src tag => some ⟨src, tag, .sweepStatus⟩
  | .clearRedemptions src tag => some ⟨src, tag, .clearRedemptions⟩
  | .reelConfig src tag reel first count remove => some ⟨src, tag, .reelConfig reel first count remove⟩
  | .reelReset src tag reel => some ⟨src, tag, .reelReset reel⟩
  | .reelStatus src tag reel present slot => some ⟨src, tag, .reelStatus reel present slot⟩
  | .profileAccess src tag ctx => some ⟨src, tag, .profileAccess ctx⟩
  | .profileWrite src tag p => some ⟨src, tag, .profileWrite p⟩
  | .profileValidate src tag => some ⟨src, tag, .profileValidate⟩
  | .phaseSet src tag ctx => some ⟨src, tag, .phaseSet ctx⟩
  | .surgeSet src tag flag => some ⟨src, tag, .surgeSet flag⟩
  | .rateTable src tag rates => some ⟨src, tag, .rateTable rates⟩
  | .errorRead src tag clear => some ⟨src, tag, .errorRead clear⟩
  | .errorClear src tag classes record => some ⟨src, tag, .errorClear classes record⟩
  | .errorConfig src tag cls mask severity threshold => some ⟨src, tag, .errorConfig cls mask severity threshold⟩
  | .noticeConfig src tag entry dest enable mask kinds => some ⟨src, tag, .noticeConfig entry dest enable mask kinds⟩
  | .unknownDirective src tag kind body => some ⟨src, tag, .unknown kind body⟩
  | .coldReset | .surgeLineChange _ | .downstreamDataFrame _ _ _ _ | .managementFrame _ _ _ | .malformedReelFrame _ _ _
  | .segmentOpen _ _ _ _ | .segmentData _ _ _ _ _ | .segmentClose _ _ _ | .malformedCarrierFrame _ _
  | .upstreamDataFrame _ _ _ _ _ _ | .join _ _ _ | .part _ _ _ | .release _ _ _ _ | .radioStatus _ _ _
  | .scan _ _ _ _ _ _ | .checkin _ _ _ _ | .cue _ _ _ _ _ _ _ | .halt _ _ _ | .partToRadioServiceFrame _ _ _ _ _
  | .lingerExpiry _ | .detachTimerExpiry _ | .dampingExpiry _ | .sealTimerExpiry _ | .wakeTimerExpiry _
  | .stageTimerExpiry | .transmitCompletion _ | .credentialFetchCompletion _ | .credentialWriteBackCompletion
  | .sweepStrideCompletion _ | .clipChunkReadCompletion | .clipIngestWriteCompletion => none

/-- The frame from a downlink port that a command is, with its arrival port; none for the other commands. -/
def Instr.carrier (i : Instr) : Option (Fin 4 × CarrierFrame) :=
  match i with
  | .upstreamDataFrame port radio station dst etype payload => some (port, ⟨radio, station, .data dst etype payload⟩)
  | .join port radio station => some (port, ⟨radio, station, .join⟩)
  | .part port radio station => some (port, ⟨radio, station, .part⟩)
  | .release port radio station discarded => some (port, ⟨radio, station, .release discarded⟩)
  | .radioStatus port radio rateClass => some (port, ⟨radio, 0, .radioStatus rateClass⟩)
  | .scan port radio station code direction scanner => some (port, ⟨radio, station, .scan code direction scanner⟩)
  | .checkin port radio station code => some (port, ⟨radio, station, .checkin code⟩)
  | .cue port radio station reel mode start window => some (port, ⟨radio, station, .cue reel mode start window⟩)
  | .halt port radio station => some (port, ⟨radio, station, .halt⟩)
  | .partToRadioServiceFrame port radio station code body => some (port, ⟨radio, station, .toRadio code body⟩)
  | _ => none

end Sys2Proof
end

