-- ==== Sys2Proof/Certificates/Slice0/Obligations.lean ====
section
/-! DEFINITION. The statements about the part, for the provers: the step, reset and what every command keeps; frames and
records read back from their bytes; the arithmetic and tables the blocks share; then the commands family by family. -/

open Sys2Proof Sys2Proof.Machine

/-! ### The step, reset and what every command keeps -/

/-- A step runs the command at the front of the queue, with the queue's rest behind it. -/
def Obligations.StepRunsFrontCommand : Prop :=
  ∀ (c : Instr) (rest : List Instr) (s : State),
    step { s with pending := c :: rest } = exec c { s with pending := rest }

/-- THE MODEL'S CHOICE (log entry 2): on an empty queue the clock ticks: venue time counts one microsecond, the oldest frame
leaves the uplink, exactly the timers that are due queue their expiries, and nothing else changes, but that the oldest frame of
each receive FIFO is taken (log entry 19) and queued behind them, the uplink's first, then the ports' by number. -/
def Obligations.EmptyQueueTicks : Prop :=
  ∀ s : State, s.pending = [] → ∃ (t : State) (expiries : List Instr), step s = .next t
    ∧ t = { s with
        venueTime := s.venueTime + 1
        uplink := match s.uplink.tx with
          | [] => { s.uplink with rx := s.uplink.rx.tail }
          | _ :: rest => { rx := s.uplink.rx.tail, tx := rest, ctrs := { s.uplink.ctrs with sent := bump s.uplink.ctrs.sent } }
        ports := s.ports.mapVals {} (fun p => { p with rx := p.rx.tail })
        pending := expiries
          ++ (s.uplink.rx.head?.map (fun f => Instr.downstreamDataFrame f.dst f.src f.etype f.payload)).toList
          ++ ([0, 1, 2, 3] : List (Fin 4)).filterMap (fun p => (s.port p.val).rx.head?.map (Instr.malformedCarrierFrame p)) }
    ∧ (∀ h, Instr.lingerExpiry h ∈ expiries ↔ lingerDue h.val t = true)
    ∧ (∀ h, Instr.detachTimerExpiry h ∈ expiries ↔ (t.station h.val).isSome = true ∧ detachDue h.val t = true)
    ∧ (∀ h, Instr.dampingExpiry h ∈ expiries ↔ dampingDue h.val t = true)
    ∧ (∀ r, Instr.sealTimerExpiry r ∈ expiries ↔ t.sealDue r.val = true)
    ∧ (∀ r, Instr.wakeTimerExpiry r ∈ expiries ↔ wakeDue r.val t = true)
    ∧ (Instr.stageTimerExpiry ∈ expiries ↔ stageDue t = true)
    ∧ ∀ c ∈ expiries, (∃ h, c = .lingerExpiry h) ∨ (∃ h, c = .detachTimerExpiry h) ∨ (∃ h, c = .dampingExpiry h)
        ∨ (∃ r, c = .sealTimerExpiry r) ∨ (∃ r, c = .wakeTimerExpiry r) ∨ c = .stageTimerExpiry

/-- The reset state meets the invariants every step keeps, is a state between two events, and holds the values of cold reset, every
field and every counter named: no records and no counts (R2, R16, R24, R45, R60, R106, R128, R129, R149, R166), the settings of
R25, the rate table of R62, the two contexts of R77, the access selection of R78, an empty filter and queue (R169, R176), the
notice table and the threshold of R177 and R182. THE MODEL'S CHOICE (log entry 1): the SURGE line is low, so that surge is OFF
(R83); the factory address is 0; record memory lists nothing (log entry 5). -/
def Obligations.ResetHoldsSpecValues : Prop :=
  let s := State.reset
  let g : GroupRec := ⟨500, 8000, 1000, 2000, 1000⟩
  let c : Context := ⟨g, g, g, g, g, g, g, g, 3, 0, 0, ⟨2, 5000⟩, ⟨1, 10000⟩, ⟨0, 1⟩, 40, 500, 8, true⟩
  (s.Inv ∧ s.Pools ∧ s.Tables ∧ s.Between) ∧ s.pending = [] ∧ s.venueTime = 0 ∧ s.factory = 0 ∧ s.surgeLine = false
    ∧ s.uplink = ⟨[], [], ⟨0, 0, 0, 0, 0, 0⟩⟩ ∧ (∀ p, s.port p = ⟨[], none, none, [], ⟨0, 0, 0, 0, 0, 0, 0, 0⟩⟩)
    ∧ (∀ h, s.station h = none) ∧ s.stationCtrs = ⟨0, 0, 0, 0, 0⟩
    ∧ (∀ r, s.radio r
      = ⟨.absent, none, 0, 0, 0, 0, 0, 0, [], none, 0, false, ⟨0, 0, 0⟩, ⟨0, 0, 0, 0, 0, 0, 0, 0⟩, ⟨0, 0⟩⟩)
    ∧ s.roam = ⟨[], [], [], ⟨20, 90, 10, 3, 30⟩, ⟨0, 0, 0, 0, 0, 0, 0, 0, 0, 0, 0, 0, 0, 0, 0⟩⟩
    ∧ (∀ r, s.lists r = ⟨[], [], [], []⟩) ∧ s.egress = ⟨s.egress.lists, 0, 0, 0, 0⟩
    ∧ s.gov = ⟨c, c, .play, .brk, [6, 12, 24, 48, 96, 144, 192, 288, 400, 600, 800, 1200, 1600, 2400, 3200, 4095], false, .off,
        ⟨0, 0, 0, 0⟩⟩
    ∧ (∀ p, s.entry p = ⟨.free, false, 0, 0, none⟩) ∧ (∀ z, s.occupancy z = 0)
    ∧ s.adm.items = [] ∧ s.adm.op = none ∧ s.adm.frozen = false ∧ s.adm.closed = false
    ∧ s.adm.sweep = ⟨.idle, none, 0, none, false, 0, 0, 0, 0, none⟩
    ∧ s.adm.ctrs = ⟨0, 0, ⟨0, 0, 0, 0, 0, 0, 0, 0, 0, 0, 0⟩, 0, 0, 0, 0, 0, 0, 0, 0, 0, 0, 0, 0, 0, 0, 0, 0, 0, 0, 0, 0, 0, 0, 0, 0, 0,
        0, 0⟩
    ∧ (∀ r, s.reel r = ⟨none, ⟨0, 0, 0, 0, 0, 0, 0, 0, 0, 0, 0, 0, 0, 0, 0⟩⟩)
    ∧ (∀ n, s.slot n = ⟨.free, none, none, none, none, 0, 0, none⟩)
    ∧ (∀ d, s.delivery d = none) ∧ (∀ r, s.waitList r = []) ∧ s.replay.stalled = [] ∧ s.replay.outstanding = 0
    ∧ s.replay.ctrs = ⟨0, 0, 0, 0, 0, 0, 0, 0, 0, 0, 0, 0, 0, 0, 0, 0, 0, 0, 0, 0, 0, 0⟩
    ∧ s.mem = ⟨[], [], [], [], [], [], [], none, 0, 0, ⟨0, 0, 0, 0, 0, 0, 0, 0, 0, 0⟩⟩
    ∧ s.mgmt = ⟨[], false, [], s.factory, ⟨0, 0, 0, 0, 0, 0, 0, 0, 0, 0, 0, 0, 0⟩⟩
    ∧ (∀ k, s.errState k = ⟨false, 0, false, false⟩) ∧ s.err.first = none ∧ s.err.overflow = false ∧ s.err.threshold = 8
    ∧ s.err.quarantines = 0 ∧ (∀ n, s.noticeEntry n = ⟨0, false, false, none, 0, 0⟩)
    ∧ ∀ k : NoticeKind, s.noticeEntryOf k = k.code - 1

/-- COLD_RESET brings the part to its reset values from any state. What stays is THE MODEL'S CHOICE (log entry 16): the waiting
commands, the factory address, the level of the SURGE line, the contents of record memory, and the model's own counters. -/
def Obligations.ColdResetReturnsReset : Prop :=
  ∀ s : State, exec .coldReset s = .next { State.reset with
    pending := s.pending
    factory := s.factory
    surgeLine := s.surgeLine
    gov := { State.reset.gov with surge := if s.surgeLine then .on else .off }
    mem := { State.reset.mem with cred := s.mem.cred, clip := s.mem.clip }
    mgmt := { State.reset.mgmt with address := s.factory }
    ev := { number := s.ev.number + 1 }
    draws := s.draws }

/-- Every step keeps the bounds of the part's queues and pools and the canonical form of both memory areas (R44, R90, R136,
R160, R163, R169, R170), from every state that has them. -/
def Obligations.EveryStepKeepsInvariant : Prop :=
  ∀ s t : State, s.Inv → step s = .next t → t.Inv

/-- Every step keeps the bounds of the hold pool and its queues (R26), the pinned set (R11), the delivery places (R149) and the
REPLAY lists (R45), and the canonical form of every table, from every state that has them. -/
def Obligations.EveryStepKeepsPoolsAndTables : Prop :=
  ∀ s t : State, s.Pools → s.Tables → step s = .next t → t.Pools ∧ t.Tables

/-- Every command ends its event: no bookkeeping is left over, and no directive that could run is left at the head of the
management queue (R170). -/
def Obligations.EveryCommandEndsItsEvent : Prop :=
  ∀ (c : Instr) (s t : State), s.Inv → exec c s = .next t → t.Between

/-! ### Frames and records read back from their bytes -/

/-- A directive's body, laid out as R190 says, is read as that directive, every field at every value. That the body of a VOID_SWEEP
with selector ALL carries a value byte too, which R190 does not lay out, is THE MODEL'S CHOICE (log entry 35). -/
def Obligations.DirectiveBodiesReadBack : Prop :=
  ∀ d : Directive, directiveWf d = true → parseDirective d.kind d.body = d

/-- A frame from a downlink port, laid out as R185 says, and a reel frame, laid out as R187 says, pass the format checks of R186
and R188 and are read as that frame, every field at every value, with any padding behind it. That a carrier frame may have
padding is read by inference (log entry 11); R188 says it of reel frames. -/
def Obligations.FramesReadBack : Prop :=
  (∀ (c : CarrierFrame) (pad : List Byte), carrierWf c = true → parseCarrier (c.bytes ++ pad) = some c)
  ∧ ∀ (m : ReelMsg) (pad : List Byte), reelWf m = true → parseReel typeReel (m.content ++ pad) = some m

/-- The frames to the ingest address that R188 calls malformed are those the part reads nothing from, and no others; bytes beyond their lengths are ignored. -/
def Obligations.MalformedReelFramesAreThose : Prop :=
  (∀ (etype : Half) (b pad : List Byte) (m : ReelMsg), parseReel etype b = some m → parseReel etype (b ++ pad) = some m)
  ∧ ∀ (etype : Half) (b : List Byte), parseReel etype b = none ↔
    etype ≠ 0x9A44
    ∨ (u8 b 0 = 1 ∧ b.length < 10)
    ∨ (u8 b 0 = 3 ∧ b.length < 6)
    ∨ (u8 b 0 = 2 ∧ (b.length < 12 + fieldAt b 10 2 ∨ fieldAt b 10 2 = 0 ∨ 1400 < fieldAt b 10 2))
    ∨ (u8 b 0 ≠ 1 ∧ u8 b 0 ≠ 2 ∧ u8 b 0 ≠ 3)

/-- Every command that is a frame with fields does what the same frame does byte by byte: a message from a downlink port, a
reel frame, a directive, and a data frame whose destination is the ingest or the management address (R22, R131, R167, R168,
R186 to R190). That a row named malformed, given well-formed bytes, does what those bytes are, and a data frame to one of the
part's own addresses likewise, is read by inference (log entry 29), and so is that a directive's row stands for its frame (log
entry 8), and that a frame to one of the two addresses is taken whatever its length, above 1,500 bytes too (log entry 32). -/
def Obligations.FrameCommandsAreTheirBytes : Prop :=
  (∀ (i : Instr) (p : Fin 4) (c : CarrierFrame) (s : State), i.carrier = some (p, c) → i.wf = true →
    exec i s = exec (.malformedCarrierFrame p c.bytes) s)
  ∧ (∀ (i : Instr) (e : MgmtEntry) (s : State), i.directive = some e → i.wf = true →
    exec i s = exec (.managementFrame e.src typeManagement (directiveContent e.tag e.dir)) s)
  ∧ (∀ (src : Addr) (reel : Byte) (seq len : Word32) (s : State), exec (.segmentOpen src reel seq len) s
    = exec (.malformedReelFrame src typeReel (ReelMsg.segOpen reel seq len).content) s)
  ∧ (∀ (src : Addr) (reel : Byte) (seq offset : Word32) (data : List Byte) (s : State),
    1 ≤ data.length → data.length ≤ 1400 → exec (.segmentData src reel seq offset data) s
      = exec (.malformedReelFrame src typeReel (ReelMsg.segData reel seq offset data).content) s)
  ∧ (∀ (src : Addr) (reel : Byte) (seq : Word32) (s : State), exec (.segmentClose src reel seq) s
    = exec (.malformedReelFrame src typeReel (ReelMsg.segClose reel seq).content) s)
  ∧ (∀ (dst src : Addr) (etype : Half) (payload : List Byte) (s : State), dst = s.ingestAddr →
    exec (.downstreamDataFrame dst src etype payload) s = exec (.malformedReelFrame src etype payload) s)
  ∧ ∀ (dst src : Addr) (etype : Half) (payload : List Byte) (s : State), dst ≠ s.ingestAddr → dst = s.mgmt.address →
    exec (.downstreamDataFrame dst src etype payload) s = exec (.managementFrame src etype payload) s

/-- A credential record that has been written passes its check and reads back with every field; the records at other positions
read as before (R160, R164, R165). The arrangement of the fields is the model's (log entry 6). -/
def Obligations.WrittenCredentialsReadBack : Prop :=
  ∀ (s : State) (p : Nat) (c : Cred), s.MemoryWf → c.allowance < 8 → (∀ g, c.first = some g → g.gate < 256) →
    (∀ g, c.last = some g → g.gate < 256) →
    let t := { s with mem := { s.mem with cred := Memory.writeBytes s.mem.cred (credAddr p) c.bytes } }
    t.credPasses p = true ∧ t.cred p = c
      ∧ ∀ q, q ≠ p → t.cred q = s.cred q ∧ t.credPasses q = s.credPasses q

/-! ### Tables and arithmetic -/

/-- Who holds a credential (R119): the record at the entry's bound handle, where that record's binding names the position;
otherwise nobody. So a station holds at most one credential. -/
def Obligations.HolderIsBoundRecord : Prop :=
  (∀ (s : State) (p h : Nat), s.holder p = some h ↔
    (s.entry p).bound = some h ∧ ∃ st b, s.station h = some st ∧ st.binding = some b ∧ b.bucket = p / 4 ∧ b.way = p % 4)
  ∧ ∀ (s : State) (p q h : Nat), s.holder p = some h → s.holder q = some h → p = q

/-- Standing and class (R13, R14): the standing is that of the binding and the current radio's zone; the derived class is that
of the pin, the tier and the standing; it is applied at once while no frame of the station lies in egress, else deferred. Where
a zone's bit lies in the permit set is the model's reading (log entry 13). -/
def Obligations.StandingAndClassAreDerived : Prop :=
  (∀ (s : State) (st : Station), st.binding = none → s.standingOf st = .unbound)
  ∧ (∀ (s : State) (st : Station) (b : Binding) (r : Nat) (c : RadioCfg), st.binding = some b → st.current = some r →
      (s.radio r).cfg = some c →
      s.standingOf st = if c.zone < 64 ∧ b.permit.getLsbD (8 * (7 - c.zone / 8) + c.zone % 8) then .inZone else .outOfZone)
  ∧ (∀ (s : State) (st : Station) (b : Binding), st.binding = some b → st.current = none → s.standingOf st = .outOfZone)
  ∧ ∀ st : Station,
      st.derived = (if st.pinned ∨ st.binding.map Binding.tier = some .staff then .admission
        else if st.standing = .inZone then .fan else .visitor)
      ∧ (st.derived = st.cls → st.rederive = { st with pendingCls := none })
      ∧ (st.derived ≠ st.cls → st.egress = 0 → st.rederive = { st with cls := st.derived, pendingCls := none })
      ∧ (st.derived ≠ st.cls → 0 < st.egress → st.rederive = { st with pendingCls := some st.derived })

/-- What a refill adds (R66, R72). The effective throttle percentage p is the larger of the surge part and the cap part, each
the percentage of its code, 0 where surge is OFF and where the cap is not enabled, and never above 90. The effective allowance
eff is the base allowance of the radio's group in the active context, multiplied by 100 minus p, divided by 100 and rounded
down. A refill counts the time since the last one, at most 1,000,000 µs, multiplied by eff, plus the remainder: a thousandth
of it, rounded down, is added to the credit, and the rest is the remainder; a credit above the group's ceiling becomes the
ceiling, with remainder 0; the last refill is now; nothing else changes. Two refills of a radio at different times add,
together, what one refill over the whole interval adds, where the elapsed time is not capped and the ceiling is not reached. -/
def Obligations.RefillsCompose : Prop :=
  (∀ (code : Byte) (pct : Nat), [0, 20, 30, 45, 60, 70, 80, 90][code.toNat]? = some pct → percent code = pct)
  ∧ (∀ g : Governor,
    let c := match g.active with | .play => g.play | .brk => g.brk
    let p := fun surge cap : Nat => g.surgePart = surge ∧ g.capPart = cap ∧ g.throttle = max surge cap ∧ g.throttle ≤ 90
    let capped := fun surge : Nat => (c.capEnable = 0 → p surge 0) ∧ (c.capEnable = 1 → p surge (percent c.capCode))
    (g.surge = .off → capped 0)
    ∧ (g.surge = .on → capped (percent c.surgeCode))
    ∧ ∀ k x d, g.surge = .ramping k d → 1 ≤ k → [c.stage1, c.stage2, c.stage3][k - 1]? = some x → capped (percent x.code))
  ∧ (∀ (g : Governor) (r : Radio) (cfg : RadioCfg) (x : GroupRec), r.cfg = some cfg →
    (let c := match g.active with | .play => g.play | .brk => g.brk
     [c.g0, c.g1, c.g2, c.g3, c.g4, c.g5, c.g6, c.g7][cfg.group]? = some x) →
    g.groupOf r = x ∧ g.eff r = x.base.toNat * (100 - g.throttle) / 100
    ∧ ∀ now : Time,
      let total := min (now - r.lastRefill).toNat 1000000 * g.eff r + r.remainder
      let credit := r.credit + (total / 1000 : Nat)
      g.refill now r = if (x.ceiling.toNat : Int) < credit
        then { r with credit := x.ceiling.toNat, remainder := 0, lastRefill := now }
        else { r with credit := credit, remainder := total % 1000, lastRefill := now })
  ∧ ∀ (g : Governor) (r : Radio) (t1 t2 : Time),
    elapsed t1 r.lastRefill + elapsed t2 t1 = elapsed t2 r.lastRefill → elapsed t2 r.lastRefill ≤ 1000000 →
    r.credit + ((elapsed t2 r.lastRefill * g.eff r + r.remainder) / 1000 : Nat) ≤ ((g.groupOf r).ceiling.toNat : Int) →
    g.refill t2 (g.refill t1 r) = g.refill t2 r

/-- Where an offered frame goes (R44, R47): into the OPEN tail it fits, which closes when it is full; else into a new burst,
OPEN or at once full, behind a former tail that closes; else nowhere. What the sender is told (R46, R48): a radio that is not
IN_SERVICE refuses; a frame that finds no room is declined or dropped. What a recall takes (R27, R58): a station's frames from
the OPEN and CLOSED bursts, in order, to the head of its hold queue, whose oldest frames are dropped beyond its limits. The cost of
a burst (R64) is the overhead plus the airtime rounded up to a whole µs; charging it (R65) lowers the credit, not below −131,071,
and raises the airtime counter and the dispatch counter of its class alone. The frame bytes an error keeps are read by inference
(log entry 12). -/
def Obligations.BurstsFormAndAreCharged : Prop :=
  (∀ (s : State) (r : Nat) (c : Cls) (f : Frame),
    let size := fun b : Burst => (b.frames.map (fun f => f.payload.length)).sum
    let filled := fun b : Burst =>
      if b.frames.length = 8 ∨ size b = 12000 then { b with state := .closed, sealAt := none } else b
    let takes := fun b : Burst => b.state = .opened ∧ b.frames.length < 8 ∧ size b + f.payload.length ≤ 12000
    let buffer := s.egress.buffers < (if c = .admission then 4096 else 3840)
    let record := s.egress.bursts < (if c = .admission then 1024 else 960) ∧ (c = .replay → (s.list r c).length < 4)
    (∀ bs b, s.list r c = bs ++ [b] → takes b → buffer →
      place s r c f = some (bs ++ [filled { b with frames := b.frames ++ [f] }], false))
    ∧ ((∀ bs b, s.list r c = bs ++ [b] → ¬ takes b) → buffer → record → place s r c f = some
        ((s.list r c).map (fun b => if b.state = .opened then { b with state := .closed, sealAt := none } else b)
          ++ [filled {
            state := .opened, frames := [f]
            sealAt := if c = .admission then none else some (s.venueTime + usec s.gov.activeCtx.sealAge.toNat) }], true))
    ∧ (¬ buffer → place s r c f = none)
    ∧ ((∀ bs b, s.list r c = bs ++ [b] → ¬ takes b) → ¬ record → place s r c f = none)
    ∧ (s.ev.deferring = false → ∀ sort,
      let dropped := fun (g : RadioDrops → RadioDrops) => s.modRadio r (fun x => { x with drops := g x.drops })
      (s.inService r = false →
        offer sort r c f s = (.refused, dropped (fun k => { k with notInService := bump k.notInService })))
      ∧ (s.inService r = true → place s r c f = none →
        offer .declinable r c f s = (.declined, { s with egress := { s.egress with declined := bump s.egress.declined } })
        ∧ offer .droppable r c f s = (.dropped, takeOccurrence (anError .egressOverflow (some r) (f.offered r))
          (dropped (fun k => { k with overflow := bump k.overflow }))))
      ∧ ∀ l opened, s.inService r = true → place s r c f = some (l, opened) →
        let t := (offer sort r c f s).2
        (offer sort r c f s).1 = .accepted
        ∧ (headEligible c l = true → headEligible c (s.list r c) = false → ∀ x, (s.radio r).cfg = some x → x.port ∈ t.ev.ask)
        ∧ t = { (match f.handle with
            | some h => (s.setList r c l).modStation h (fun st => { st with egress := st.egress + 1 })
            | none => s.setList r c l) with
          egress := { (s.setList r c l).egress with
            buffers := s.egress.buffers + 1, bursts := s.egress.bursts + (if opened then 1 else 0)
            accepted := bump s.egress.accepted }
          ev := t.ev }))
  ∧ (∀ (h : Nat) (l : List Burst),
    let rest := fun b : Burst => b.frames.filter (fun f => decide (f.handle ≠ some h))
    takeFrames h l = ((l.filter (fun b => !b.isTransmitting)).flatMap
        (fun b => b.frames.filter (fun f => decide (f.handle = some h))),
      l.filterMap (fun b =>
        if b.isTransmitting = true then some b else if rest b = [] then none else some { b with frames := rest b })))
  ∧ (∀ (s : State) (h r : Nat) (st : Station), Table.sorted s.stations = true → Table.sorted s.egress.lists = true →
    s.station h = some st →
    let taken := fun c => takeFrames h (s.list r c)
    let fs := Cls.all.flatMap (fun c => (taken c).1)
    let excess := max (fs.length + st.hold.length - 64) (s.holdUsed + fs.length - 2048)
    let t := recallFrames h r s
    (fs = [] → t = s)
    ∧ (fs ≠ [] →
      t.station h = some { ({ st with egress := st.egress - fs.length } : Station).applyPending with
        hold := (fs ++ st.hold).drop excess }
      ∧ (∀ c, t.list r c = if (taken c).1 = [] then s.list r c else (taken c).2) ∧ (∀ q, q ≠ r → t.lists q = s.lists q)
      ∧ t.egress.buffers = s.egress.buffers - fs.length
      ∧ t.egress.bursts = s.egress.bursts - (Cls.all.map (fun c => (s.list r c).length - (t.list r c).length)).sum
      ∧ t.roam = { s.roam with ctrs := { s.roam.ctrs with
          recalled := bumpBy s.roam.ctrs.recalled fs.length
          holdOverflow := bumpBy s.roam.ctrs.holdOverflow (min excess (fs.length + st.hold.length)) } }))
  ∧ ∀ (g : Governor) (r : Radio) (c : Cls) (bytes rate : Nat), g.rates[r.rate]? = some rate → 1 ≤ rate →
    let cost := g.cost r bytes
    let excess := g.activeCtx.overhead.toNat
    let k := { r.gov with airtime := bumpBy r.gov.airtime cost }
    excess ≤ cost ∧ bytes * 8 ≤ (cost - excess) * rate ∧ (cost - excess) * rate < bytes * 8 + rate
    ∧ (bytes ≤ 12000 → excess ≤ 255 → cost ≤ 96255)
    ∧ g.charge c bytes r = { r with
        credit := max (r.credit - cost) (-131071)
        gov := match c with
          | .admission => { k with dispAdmission := bump k.dispAdmission }
          | .fan => { k with dispFan := bump k.dispFan }
          | .visitor => { k with dispVisitor := bump k.dispVisitor }
          | .replay => { k with dispReplay := bump k.dispReplay } }

/-- The thresholds of the classes (R68): a class is allowed when the credit is strictly greater than its threshold. -/
def Obligations.ClassesAllowedAboveThreshold : Prop :=
  ∀ (g : Governor) (r : Radio),
    let rec' := g.activeCtx.group ((r.cfg.map RadioCfg.group).getD 0)
    (g.allows r .admission = true ↔ -(rec'.debt.toNat : Int) < r.credit)
    ∧ (g.allows r .fan = true ↔ 0 < r.credit)
    ∧ (g.allows r .visitor = true ↔ (rec'.visitor.toNat : Int) < r.credit)
    ∧ (g.allows r .replay = true ↔ (rec'.replay.toNat : Int) < r.credit)

/-- The record memory arbiter (R162, R163): while the memory is busy nothing is granted; free, it grants a due ingest write,
else a due stride, else the first request in the fixed order; the grants counter of the kind rises; a guarded queue's starvation
counter is 0 after its own head's grant, and otherwise rises while the queue holds a request, up to its due value. -/
def Obligations.MemoryArbiterGrantsInOrder : Prop :=
  ∀ m : RecMem,
    let up := fun (bound : Nat) (q : List Tagged) (n : Nat) => if q = [] then n else min bound (n + 1)
    (m.transfer.isSome = true → m.grant = m)
    ∧ (m.transfer = none → m.fetchQ = [] → m.writeQ = [] → m.chunkQ = [] → m.strideQ = [] → m.ingestQ = [] → m.grant = m)
    ∧ (∀ t q, m.transfer = none → m.ingestQ = t :: q → m.starveIngest = 16 →
        m.grant.transfer = some t ∧ m.grant.ingestQ = q ∧ m.grant.starveIngest = 0
          ∧ m.grant.starveStride = up 64 m.strideQ m.starveStride
          ∧ m.grant.ctrs.guardIngest = bump m.ctrs.guardIngest ∧ m.grant.ctrs.ingest = bump m.ctrs.ingest)
    ∧ (∀ t q, m.transfer = none → (m.ingestQ = [] ∨ m.starveIngest < 16) → m.strideQ = t :: q → m.starveStride = 64 →
        m.grant.transfer = some t ∧ m.grant.strideQ = q ∧ m.grant.starveStride = 0
          ∧ m.grant.starveIngest = up 16 m.ingestQ m.starveIngest
          ∧ m.grant.ctrs.guardStride = bump m.ctrs.guardStride ∧ m.grant.ctrs.stride = bump m.ctrs.stride)
    ∧ (∀ t q, m.transfer = none → (m.ingestQ = [] ∨ m.starveIngest < 16) → (m.strideQ = [] ∨ m.starveStride < 64) →
        m.fetchQ ++ m.writeQ ++ m.chunkQ ++ m.strideQ ++ m.ingestQ = t :: q →
        m.grant.transfer = some t
          ∧ m.grant.fetchQ ++ m.grant.writeQ ++ m.grant.chunkQ ++ m.grant.strideQ ++ m.grant.ingestQ = q
          ∧ m.grant.starveIngest
            = (if m.fetchQ ++ m.writeQ ++ m.chunkQ ++ m.strideQ = [] then 0 else up 16 m.ingestQ m.starveIngest)
          ∧ m.grant.starveStride = (if m.fetchQ ++ m.writeQ ++ m.chunkQ = [] ∧ m.strideQ ≠ [] then 0
            else up 64 m.strideQ m.starveStride)
          ∧ m.grant.ctrs.fetch = (if m.fetchQ = [] then m.ctrs.fetch else bump m.ctrs.fetch)
          ∧ m.grant.ctrs.writeBack
            = (if m.fetchQ = [] ∧ m.writeQ ≠ [] then bump m.ctrs.writeBack else m.ctrs.writeBack)
          ∧ m.grant.ctrs.chunk
            = (if m.fetchQ ++ m.writeQ = [] ∧ m.chunkQ ≠ [] then bump m.ctrs.chunk else m.ctrs.chunk)
          ∧ m.grant.ctrs.stride
            = (if m.fetchQ ++ m.writeQ ++ m.chunkQ = [] ∧ m.strideQ ≠ [] then bump m.ctrs.stride else m.ctrs.stride)
          ∧ m.grant.ctrs.ingest
            = (if m.fetchQ ++ m.writeQ ++ m.chunkQ ++ m.strideQ = [] then bump m.ctrs.ingest else m.ctrs.ingest)
          ∧ m.grant.ctrs.guardIngest = m.ctrs.guardIngest ∧ m.grant.ctrs.guardStride = m.ctrs.guardStride)

/-- An occurrence of an error class (R178 steps 1 to 4) sets the class's status flag and raises its counter; unless the class
is masked it fills the first-error record, or sets its overflow flag, and makes the ERROR notice. What a notice of any kind
does at the entry its kind maps to (R182): an entry whose enable is clear discards it and counts it; one that is enabled and
masked holds it in place of the last one held, its pending count one more; one that is enabled and not masked sends it at once
with a count of 1, from the management address in force, and counts it; the other entries and everything else are unchanged. A
counter saturates. That a pending count does so too, at 4,294,967,295, is THE MODEL'S CHOICE (log entry 45). -/
def Obligations.OccurrencesAreRecorded : Prop :=
  (∀ (s : State) (o : Occurrence),
    let e := s.errState o.cls
    let s1 := s.setErrState o.cls { e with status := true, count := bump e.count }
    (e.masked = true → takeOccurrence o s = s1)
    ∧ (e.masked = false → s.err.first = none →
      takeOccurrence o s = notice .error (errorBody o s.venueTime (bump e.count))
        { s1 with err := { s1.err with
          first := some ⟨{ o with frame := o.frame.map (List.take 32) }, s.venueTime⟩ } })
    ∧ (∀ f, e.masked = false → s.err.first = some f →
      takeOccurrence o s = notice .error (errorBody o s.venueTime (bump e.count))
        { s1 with err := { s1.err with overflow := true } })
    ∧ (takeOccurrence o s).errState o.cls = { e with status := true, count := bump e.count })
  ∧ (∀ c : Ctr, (bump c).toNat = min (c.toNat + 1) 4294967295)
  ∧ ∀ (s : State) (k : NoticeKind) (body : List Byte), Table.sorted s.err.entries = true →
    let n := s.noticeEntryOf k
    let e := s.noticeEntry n
    let t := notice k body s
    let becomes := fun (x : NoticeEntry) (sent : List UplinkOut) =>
      (∀ m, t.noticeEntry m = if m = n then x else s.noticeEntry m)
      ∧ t = { s with
          uplink := { s.uplink with tx := s.uplink.tx ++ sent }, err := { s.err with entries := t.err.entries } }
    (e.enable = false → becomes { e with discarded := bump e.discarded } [])
    ∧ (e.enable = true → e.mask = true →
      (e.held = none → becomes { e with held := some ⟨1, k, body⟩ } [])
      ∧ ∀ h, e.held = some h → becomes { e with held := some ⟨bump h.count, k, body⟩ } [])
    ∧ (e.enable = true → e.mask = false →
      becomes { e with sent := bump e.sent } [.notice e.dest s.mgmt.address k 1 body])

/-! ### Directives: arrival, queue and refusal -/

/-- A directive that is not run as it arrives (R168, R170): from a source the filter does not hold it is discarded, counted, and
MGMT_SOURCE_REFUSED is raised; at a queue of 8 it is discarded, counted, and MGMT_QUEUE_FULL is raised; behind a waiting head
it joins the queue. Of all directives, each as its own command and as the management frame that carries it; nothing else
changes. The frame bytes the two errors keep, the Ethernet header first, are read by inference (log entry 12). -/
def Obligations.DirectivesAreFilteredAndQueued : Prop :=
  ∀ (i : Instr) (e : MgmtEntry) (s : State), i.directive = some e → i.wf = true → s.Between →
    let heard := s.modUplinkCtrs (fun k => { k with received := bump k.received })
    let frame := s.managementBytes e.src typeManagement (directiveContent e.tag e.dir)
    let accepts := s.mgmt.filter = [] ∨ e.src ∈ s.mgmt.filter
    ∀ run, run = exec i s ∨ run = exec (.managementFrame e.src typeManagement (directiveContent e.tag e.dir)) s →
    (¬ accepts → run = .next (takeOccurrence { cls := .mgmtSourceRefused, frame := some frame }
      (heard.modMgmtCtrs (fun k => { k with refusedSources := bump k.refusedSources }))).ended)
    ∧ (accepts → 8 ≤ s.mgmt.queue.length →
      run = .next (takeOccurrence { cls := .mgmtQueueFull, frame := some frame }
        (heard.modMgmtCtrs (fun k => { k with queueFull := bump k.queueFull }))).ended)
    ∧ (accepts → s.mgmt.queue.length < 8 → s.mgmt.queue ≠ [] →
      run = .next { s.arrived.ended with mgmt := { s.arrived.mgmt with queue := s.mgmt.queue ++ [e] } })

/-- Directives whose fields are out of range are answered RANGE, those that the state of their target forbids STATE, BUSY or
FROZEN, and one of an unknown kind or of a wrong length UNKNOWN_DIRECTIVE; the reply is sent and counted, and nothing else changes
(R12, R18, R19, R21, R79, R95 to R97, R107, R112, R113, R116, R139, R140, R169 to R171, R183, R190). THE MODEL'S CHOICE: CRED_LOAD
while the sweep is RUNNING is answered BUSY whatever its list holds, and the order of the other checks where two would answer (log
entry 25); a flag above 1 is out of range (log entry 34); the counts in SWEEP_SUSPEND's reply have 4 bytes (log entry 14);
MGMT_FILTER's RANGE has no body (log entry 39); RADIO_STATE numbers its
states by R19 (log entry 40). A body longer than 65,535 bytes is no frame (log entry 15), so a bad first byte has 65,534 bytes at most
behind it. -/
def Obligations.RefusedDirectivesChangeNothing : Prop :=
  let overlaps := fun (s : State) (reel : Byte) (first count : Half) => ∃ q c, q ≠ reel.toNat ∧ (s.reel q).cfg = some c
    ∧ first.toNat < c.first + c.count ∧ c.first < first.toNat + count.toNat
  (∀ (s : State) (src : Addr) (tag : Half), s.Ready src →
    (∀ a, 4 < a.length → a.length ≤ 255 → ∀ p n, exec (.mgmtFilter src tag a p n) s = .next (s.concluded src 5 tag .range []))
    ∧ (∀ radio role zone group port rm : Byte, 63 < zone.toNat ∨ role.toNat = 0 ∨ 5 < role.toNat ∨ 7 < group.toNat
        ∨ 3 < port.toNat ∨ 1 < rm.toNat →
        exec (.radioConfig src tag radio role zone group port rm) s = .next (s.concluded src 6 tag .range []))
    ∧ (∀ radio new : Byte, new ≠ 1 → new ≠ 2 → exec (.radioState src tag radio new) s = .next (s.concluded src 7 tag .range []))
    ∧ (∀ h : Half, 8191 < h.toNat → exec (.stationRead src tag (.handle h)) s = .next (s.concluded src 9 tag .range []))
    ∧ (∀ (b : Half) (w : Byte), 16383 < b.toNat ∨ 3 < w.toNat →
        exec (.credRead src tag (.position b w)) s = .next (s.concluded src 15 tag .range [])
        ∧ exec (.credEraseWay src tag b w) s = .next (s.concluded src 17 tag .range []))
    ∧ (∀ (form : Byte) (rest : List Byte), form ≠ 1 → form ≠ 2 → rest.length ≤ 65534 →
        exec (.stationRead src tag (.badForm form rest)) s = .next (s.concluded src 9 tag .range [])
        ∧ exec (.credRead src tag (.badForm form rest)) s = .next (s.concluded src 15 tag .range []))
    ∧ (∀ recs : List LoadRec, s.adm.sweep.state ≠ .running → recs.length ≤ 255 →
        (recs = [] ∨ 16 < recs.length ∨ ∃ r ∈ recs, r.code = 0 ∨ r.tier.toNat = 0 ∨ 3 < r.tier.toNat ∨ 7 < r.allowance.toNat
          ∨ 1 < r.grant.toNat ∨ 63 < r.home.toNat) →
        exec (.credLoad src tag recs) s = .next (s.concluded src 14 tag .range []))
    ∧ (∀ (part : Byte) (rest : List Byte), 10 < part.toNat → rest.length ≤ 65534 →
        exec (.profileWrite src tag (.badPart part rest)) s = .next (s.concluded src 29 tag .range []))
    ∧ (∀ kind value : Byte, s.adm.sweep.state = .idle → selectorOf kind value = none →
        exec (.voidSweep src tag kind value) s = .next (s.concluded src 20 tag .range []))
    ∧ (∀ (reel : Byte), 15 < reel.toNat →
        (∀ f c rm, exec (.reelConfig src tag reel f c rm) s = .next (s.concluded src 25 tag .range []))
        ∧ exec (.reelReset src tag reel) s = .next (s.concluded src 26 tag .range [])
        ∧ ∀ p n, exec (.reelStatus src tag reel p n) s = .next (s.concluded src 27 tag .range []))
    ∧ (∀ (reel : Byte) (first count : Half), 4095 < first.toNat ∨ count.toNat < 8 ∨ 1024 < count.toNat
        ∨ 4096 < first.toNat + count.toNat ∨ overlaps s reel first count →
        exec (.reelConfig src tag reel first count 0) s = .next (s.concluded src 25 tag .range []))
    ∧ (∀ c : Byte, c ≠ 1 → c ≠ 2 →
        exec (.profileAccess src tag c) s = .next (s.concluded src 28 tag .range [])
        ∧ exec (.phaseSet src tag c) s = .next (s.concluded src 31 tag .range []))
    ∧ (∀ f : Byte, f ≠ 0 → f ≠ 1 →
        exec (.surgeSet src tag f) s = .next (s.concluded src 32 tag .range [])
        ∧ exec (.errorRead src tag f) s = .next (s.concluded src 34 tag .range [])
        ∧ (∀ group present index, exec (.counterRead src tag group present index f) s = .next (s.concluded src 3 tag .range []))
        ∧ (∀ addrs a, addrs.length ≤ 255 → exec (.mgmtFilter src tag addrs f a) s = .next (s.concluded src 5 tag .range []))
        ∧ (∀ reel first count, exec (.reelConfig src tag reel first count f) s = .next (s.concluded src 25 tag .range []))
        ∧ (∀ reel n, exec (.reelStatus src tag reel f n) s = .next (s.concluded src 27 tag .range []))
        ∧ ∀ classes, exec (.errorClear src tag classes f) s = .next (s.concluded src 35 tag .range []))
    ∧ (∀ (entry : Byte) d en mk ks, 15 < entry.toNat →
        exec (.noticeConfig src tag entry d en mk ks) s = .next (s.concluded src 37 tag .range []))
    ∧ ∀ (k : Half) (body : List Byte), directiveWf (.unknown k body) = true →
        exec (.unknownDirective src tag k body) s = .next (s.concluded src k tag .unknownDirective []))
  ∧ ∀ (s : State) (src : Addr) (tag : Half), s.Ready src →
    (∀ radio role zone group port rm c, configOf role zone group port rm = some c →
      (s.radio radio.toNat).state = .inService ∨ (s.radio radio.toNat).state = .quarantined →
      exec (.radioConfig src tag radio role zone group port rm) s = .next (s.concluded src 6 tag .state []))
    ∧ (∀ radio : Byte, (s.radio radio.toNat).state = .absent →
      exec (.radioState src tag radio 1) s = .next (s.concluded src 7 tag .state [])
      ∧ exec (.radioReset src tag radio) s = .next (s.concluded src 8 tag .state []))
    ∧ (∀ a, s.lookup a = none → exec (.stationUnpin src tag a) s = .next (s.concluded src 11 tag .state []))
    ∧ (s.gov.access = s.gov.active → ∀ p, profilePartWf p = true → (∀ q r, p ≠ .badPart q r) →
      exec (.profileWrite src tag p) s = .next (s.concluded src 29 tag .state []))
    ∧ (s.adm.sweep.state ≠ .running →
      exec (.sweepSuspend src tag) s = .next (s.concluded src 21 tag .state s.adm.sweep.suspendBody))
    ∧ (s.adm.sweep.state ≠ .suspended → exec (.sweepResume src tag) s = .next (s.concluded src 22 tag .state []))
    ∧ (s.adm.sweep.state = .running → ∀ recs : List LoadRec, recs.length ≤ 255 →
      exec (.credLoad src tag recs) s = .next (s.concluded src 14 tag .busy []))
    ∧ (s.adm.sweep.state ≠ .idle →
      (∀ k v, exec (.voidSweep src tag k v) s = .next (s.concluded src 20 tag .busy []))
      ∧ exec (.clearRedemptions src tag) s = .next (s.concluded src 24 tag .busy []))
    ∧ (s.adm.sweep.state = .idle → s.adm.frozen = true →
      exec (.clearRedemptions src tag) s = .next (s.concluded src 24 tag .frozen []))
    ∧ (∀ b w, placeInRange b w = true → s.adm.frozen = true → (s.entry (posOf b.toNat w.toNat)).faulty = false →
      exec (.credEraseWay src tag b w) s = .next (s.concluded src 17 tag .frozen []))
    ∧ (∀ reel : Byte, reel.toNat ≤ 15 → (s.reel reel.toNat).cfg = none →
      exec (.reelReset src tag reel) s = .next (s.concluded src 26 tag .state []))
    ∧ ∀ (reel rm : Byte) (first count : Half) (c : ReelCfg), reel.toNat ≤ 15 → Table.sorted s.replay.reels = true →
      (s.reel reel.toNat).cfg = some c →
      (rm = 1 ∨ rm = 0 ∧ first.toNat ≤ 4095 ∧ 8 ≤ count.toNat ∧ count.toNat ≤ 1024 ∧ first.toNat + count.toNat ≤ 4096
        ∧ ¬ overlaps s reel first count) →
      (∃ e ∈ s.stations, e.2.sub.map Sub.reel = some reel.toNat)
        ∨ (∃ n, c.first ≤ n ∧ n < c.first + c.count ∧ ((s.slot n).state = .filling ∨ (s.slot n).state = .writing)) →
      exec (.reelConfig src tag reel first count rm) s = .next (s.concluded src 25 tag .state [])

/-! ### Directives that report -/

/-- STATION_READ (R12): by address or by a handle from 0 to 8,191 the reply is DONE with a record-present flag and, when a record
is present, its fields; a handle above is answered RANGE. The read changes no state. The arrangement of the fields is the model's
(log entry 14). -/
def Obligations.StationReadReportsRecord : Prop :=
  ∀ (s : State) (src : Addr) (tag : Half), s.Ready src →
    (∀ a, s.lookup a = none → exec (.stationRead src tag (.address a)) s = .next (s.concluded src 9 tag .done [0]))
    ∧ (∀ a h st, s.lookup a = some h → s.station h = some st →
      exec (.stationRead src tag (.address a)) s = .next (s.concluded src 9 tag .done (1 :: stationBytes s h st)))
    ∧ (∀ h : Half, h.toNat ≤ 8191 → s.station h.toNat = none →
      exec (.stationRead src tag (.handle h)) s = .next (s.concluded src 9 tag .done [0]))
    ∧ (∀ (h : Half) st, h.toNat ≤ 8191 → s.station h.toNat = some st →
      exec (.stationRead src tag (.handle h)) s = .next (s.concluded src 9 tag .done (1 :: stationBytes s h.toNat st)))
    ∧ ∀ h : Half, 8191 < h.toNat → exec (.stationRead src tag (.handle h)) s = .next (s.concluded src 9 tag .range [])

/-- SWEEP_STATUS (R114) is answered DONE in every sweep state with every field of the sweep record, and changes nothing. That
the counts have 4 bytes and an absent field is zeros is the model's (log entry 14). -/
def Obligations.SweepStatusReportsSweep : Prop :=
  ∀ (s : State) (src : Addr) (tag : Half), s.Ready src →
    let w := s.adm.sweep
    exec (.sweepStatus src tag) s = .next (s.concluded src 23 tag .done
      (be 1 w.state.code ++ optBytes 2 (w.selector.map Selector.bytes) ++ be 2 w.pointer
        ++ optField 1 (w.stride.map Stride.code) ++ flagByte w.suspendRequested
        ++ be 4 w.voided ++ be 4 w.voidedInside ++ be 4 w.faultyPassed
        ++ be 6 w.startTime.toNat ++ optField 6 (w.endTime.map BitVec.toNat)))

/-- REEL_STATUS (R141): RANGE for a reel above 15, and for a slot number given outside the reel's range or for an unconfigured
reel; otherwise DONE with the report of the reel and, when a slot is given, of that slot. It changes no state. The arrangement of the
report is the model's (log entry 14). -/
def Obligations.ReelStatusReportsReel : Prop :=
  ∀ (s : State) (src : Addr) (tag : Half) (reel : Byte) (slot : Half), s.Ready src →
    (15 < reel.toNat → ∀ p, exec (.reelStatus src tag reel p slot) s = .next (s.concluded src 27 tag .range []))
    ∧ (reel.toNat ≤ 15 → exec (.reelStatus src tag reel 0 slot) s
        = .next (s.concluded src 27 tag .done (reelStatusBody s reel.toNat none)))
    ∧ (reel.toNat ≤ 15 → (s.reel reel.toNat).cfg = none →
        exec (.reelStatus src tag reel 1 slot) s = .next (s.concluded src 27 tag .range []))
    ∧ ∀ c, reel.toNat ≤ 15 → (s.reel reel.toNat).cfg = some c →
        (slot.toNat < c.first ∨ c.first + c.count ≤ slot.toNat →
          exec (.reelStatus src tag reel 1 slot) s = .next (s.concluded src 27 tag .range []))
        ∧ (c.first ≤ slot.toNat → slot.toNat < c.first + c.count →
          exec (.reelStatus src tag reel 1 slot) s
            = .next (s.concluded src 27 tag .done (reelStatusBody s reel.toNat (some slot.toNat))))

/-- DESCRIBE is answered with the capability chain (R172), ERROR_READ with the classes, the first-error record and the notice
table (R181), COUNTER_READ with the group named (R174). None of them changes state but for the counters a set clear flag sets
to 0 after they are read: the 14 occurrence counters; of each of the ten groups its 32-bit event counters, every one named here,
while its present state (counts in use, lengths, occupancy, credit, starvation counters) and every other group stay. A group unknown,
or with an index it does not take, is answered RANGE. The arrangement of the fields is the model's (log entry 14), and so is that a
group without the index it takes is answered RANGE (log entry 38). -/
def Obligations.ReportsReadState : Prop :=
  ∀ (s : State) (src : Addr) (tag : Half), s.Ready src →
    exec (.describe src tag) s = .next (s.concluded src 1 tag .done (7 :: capChain 1 1 (capabilities s)))
    ∧ exec (.errorRead src tag 0) s = .next (s.concluded src 34 tag .done (errorReadBody s))
    ∧ (exec (.errorRead src tag 1) s = .next ((ErrClass.all.foldl
        (fun s c => s.setErrState c { s.errState c with count := 0 }) s).concluded src 34 tag .done (errorReadBody s)))
    ∧ (∀ group present index g, (optByteOf present index).bind (groupOf group.toNat) = some g →
      exec (.counterRead src tag group present index 0) s
        = .next (s.concluded src 3 tag .done (groupReport (s.queued ⟨src, tag, .counterRead group present index 0⟩) g)))
    ∧ (∀ index : Byte,
      let u := s.arrived
      let cleared := fun (group present : Byte) (g : Group) (t : State) =>
        exec (.counterRead src tag group present index 1) s = .next (t.replied src 3 tag .done
          (groupReport (s.queued ⟨src, tag, .counterRead group present index 1⟩) g)).ended
      cleared 1 0 .ports { u with
        uplink := { u.uplink with ctrs := ⟨0, 0, 0, 0, 0, 0⟩ }
        ports := u.ports.mapVals {} (fun p => { p with ctrs := ⟨0, 0, 0, 0, 0, 0, 0, 0⟩ }) }
      ∧ cleared 2 0 .stations { u with
        stationCtrs := ⟨0, 0, 0, 0, 0⟩
        roam := { u.roam with ctrs := ⟨0, 0, 0, 0, 0, 0, 0, 0, 0, 0, 0, 0, 0, 0, 0⟩ } }
      ∧ cleared 3 1 (.radio index.toNat) (u.setRadio index.toNat { u.radio index.toNat with
        drops := ⟨0, 0, 0⟩, gov := ⟨0, 0, 0, 0, 0, 0, 0, 0⟩, rep := ⟨0, 0⟩ })
      ∧ cleared 4 0 .egress { u with egress := { u.egress with accepted := 0, declined := 0 } }
      ∧ cleared 5 0 .governor { u with gov := { u.gov with ctrs := ⟨0, 0, 0, 0⟩ } }
      ∧ cleared 6 0 .admission { u with adm := { u.adm with ctrs :=
        ⟨0, 0, ⟨0, 0, 0, 0, 0, 0, 0, 0, 0, 0, 0⟩, 0, 0, 0, 0, 0, 0, 0, 0, 0, 0, 0, 0, 0, 0, 0, 0, 0, 0, 0, 0, 0, 0, 0, 0, 0, 0, 0⟩ } }
      ∧ (index.toNat ≤ 15 → cleared 7 1 (.reel index.toNat) (u.setReel index.toNat { u.reel index.toNat with
        ctrs := ⟨0, 0, 0, 0, 0, 0, 0, 0, 0, 0, 0, 0, 0, 0, 0⟩ }))
      ∧ cleared 8 0 .replay { u with replay := { u.replay with
        ctrs := ⟨0, 0, 0, 0, 0, 0, 0, 0, 0, 0, 0, 0, 0, 0, 0, 0, 0, 0, 0, 0, 0, 0⟩ } }
      ∧ cleared 9 0 .recordMemory { u with mem := { u.mem with ctrs := ⟨0, 0, 0, 0, 0, 0, 0, 0, 0, 0⟩ } }
      ∧ cleared 10 0 .management { u with mgmt := { u.mgmt with ctrs := ⟨0, 0, 0, 0, 0, 0, 0, 0, 0, 0, 0, 0, 0⟩ } })
    ∧ ∀ group present index clear, (optByteOf present index).bind (groupOf group.toNat) = none →
      exec (.counterRead src tag group present index clear) s = .next (s.concluded src 3 tag .range [])

/-! ### Directives that set -/

/-- STATION_SETTINGS (R25): RANGE and no change when a value other than 0 is outside its range; otherwise each value other
than 0 replaces its setting, and the reply carries all five. MGMT_FILTER (R169) replaces the filter, each address once, and
the management address when one is given; the reply leaves from the new address. RATE_TABLE (R62) replaces the entries given a
value other than 0, or answers RANGE for a value above 4,095. That an address carried twice keeps the place of its first
occurrence is THE MODEL'S CHOICE (log entry 44), and that MGMT_FILTER's RANGE has no body is the model's (log entry 39). -/
def Obligations.SettingsFilterAndRatesAreReplaced : Prop :=
  (∀ (s : State) (src : Addr) (tag detach linger window threshold damping : Half), s.Ready src →
    let bad := 255 < detach.toNat ∨ 600 < linger.toNat ∨ 60 < window.toNat ∨ 15 < threshold.toNat ∨ 120 < damping.toNat
    let keep := fun (v : Half) (old : Nat) => if v.toNat = 0 then old else v.toNat
    let x := s.roam.settings
    let y : Settings := ⟨keep detach x.detachMs, keep linger x.lingerS, keep window x.windowS, keep threshold x.threshold,
      keep damping x.dampingS⟩
    (bad → exec (.stationSettings src tag detach linger window threshold damping) s
      = .next (s.concluded src 13 tag .range []))
    ∧ (¬ bad → exec (.stationSettings src tag detach linger window threshold damping) s
      = .next ({ s with roam := { s.roam with settings := y } }.concluded src 13 tag .done
          (be 2 y.detachMs ++ be 2 y.lingerS ++ be 2 y.windowS ++ be 2 y.threshold ++ be 2 y.dampingS))))
  ∧ ∀ (s : State) (src : Addr) (tag : Half), s.Ready src →
    (∀ (addrs : List Addr) (a : Addr), addrs.length ≤ 4 → (∀ x ∈ addrs, noStation x = false) →
      exec (.mgmtFilter src tag addrs 0 a) s
        = .next ({ s with mgmt := { s.mgmt with filter := dedup addrs } }.concluded src 5 tag .done
            (be 1 (dedup addrs).length ++ (dedup addrs).flatMap (fun x : Addr => be 6 x.toNat) ++ be 6 s.mgmt.address.toNat))
      ∧ (noStation a = false → a ≠ s.ingestAddr → exec (.mgmtFilter src tag addrs 1 a) s
        = .next ({ s with mgmt := { s.mgmt with filter := dedup addrs, address := a } }.concluded src 5 tag .done
            (be 1 (dedup addrs).length ++ (dedup addrs).flatMap (fun x : Addr => be 6 x.toNat) ++ be 6 a.toNat)))
      ∧ (noStation a = true ∨ a = s.ingestAddr → exec (.mgmtFilter src tag addrs 1 a) s
        = .next (s.concluded src 5 tag .range [])))
    ∧ ∀ rates : List Half, rates.length = 16 →
      ((∃ v ∈ rates, 4095 < v.toNat) → exec (.rateTable src tag rates) s = .next (s.concluded src 33 tag .range []))
      ∧ ((∀ v ∈ rates, v.toNat ≤ 4095) →
        let new := List.zipWith (fun (v : Half) o => if v.toNat = 0 then o else v.toNat) rates s.gov.rates
        exec (.rateTable src tag rates) s = .next ({ s with gov := { s.gov with rates := new } }.concluded src 33 tag .done
          (new.flatMap (be 2))))

/-- ADMISSION_FREEZE (R103) sets the freeze and clears event-closed; EVENT_CLOSE (R104), while no gate radio is IN_SERVICE, clears
the freeze and sets event-closed, and is answered STATE otherwise. -/
def Obligations.FreezeAndCloseSetFlags : Prop :=
  ∀ (s : State) (src : Addr) (tag : Half), s.Ready src →
    exec (.admissionFreeze src tag) s
      = .next ({ s with adm := { s.adm with frozen := true, closed := false } }.concluded src 18 tag .done [])
    ∧ ((∀ e ∈ s.radios, e.2.state = .inService → ∀ c, e.2.cfg = some c → c.role = .seat ∨ c.role = .concourse) →
      exec (.eventClose src tag) s
        = .next ({ s with adm := { s.adm with frozen := false, closed := true } }.concluded src 19 tag .done []))
    ∧ ((∃ e ∈ s.radios, e.2.state = .inService ∧ ∃ c, e.2.cfg = some c
          ∧ (c.role = .gateIn ∨ c.role = .gateOut ∨ c.role = .gateBoth)) →
      exec (.eventClose src tag) s = .next (s.concluded src 19 tag .state []))

/-- PROFILE_ACCESS (R78) moves the access selection and reports the context; PROFILE_WRITE (R79) stores a part in a selected
context that is not active, each value of a group record, the throttle, the ramp or the timing in its field and the rest kept, and
clears VALID; PROFILE_VALIDATE (R80) sets VALID when every field lies in its range, those of a group record for all eight groups,
and otherwise answers RANGE with the first field of the list that does not, and the lowest group where it is one of a group record.
That the fields are numbered from 1 to 17 in that reply, with an optional group, is the model's (log entry 14), and so is that all
visitor reserves come before all replay reserves (log entry 25). -/
def Obligations.ProfilesAreWrittenAndValidated : Prop :=
  ∀ (s : State) (src : Addr) (tag : Half), s.Ready src →
    (∀ (b : Byte) (p : Phase), b.toNat = p.code →
      exec (.profileAccess src tag b) s = .next ({ s with gov := { s.gov with access := p } }.concluded src 28 tag .done
        ((s.gov.ctx p).bytes ++ flagByte (s.gov.ctx p).valid ++ be 1 s.gov.active.code)))
    ∧ (∀ part : ProfilePart, profilePartWf part = true → (∀ q r, part ≠ .badPart q r) → s.gov.access ≠ s.gov.active →
      exec (.profileWrite src tag part) s
        = .next ({ s with gov := s.gov.setCtx s.gov.access ((s.gov.ctx s.gov.access).write part) }.concluded src 29 tag .done [])
      ∧ ((s.gov.ctx s.gov.access).write part).valid = false)
    ∧ (let c := s.gov.ctx s.gov.access
      (∀ (g : Fin 8) (base ceiling visitor replay debt : Half),
        let w := c.write (.group g base ceiling visitor replay debt)
        w = { c with
          g0 := w.g0, g1 := w.g1, g2 := w.g2, g3 := w.g3, g4 := w.g4, g5 := w.g5, g6 := w.g6, g7 := w.g7, valid := false }
        ∧ ∀ k : Fin 8, [w.g0, w.g1, w.g2, w.g3, w.g4, w.g5, w.g6, w.g7][k.val]?
          = if k = g then some ⟨base, ceiling, visitor, replay, debt⟩
            else [c.g0, c.g1, c.g2, c.g3, c.g4, c.g5, c.g6, c.g7][k.val]?)
      ∧ (∀ surge cap enable : Byte, c.write (.throttle surge cap enable)
        = { c with surgeCode := surge, capCode := cap, capEnable := enable, valid := false })
      ∧ (∀ (c1 c2 c3 : Byte) (d1 d2 d3 : Half), c.write (.ramp c1 d1 c2 d2 c3 d3)
        = { c with stage1 := ⟨c1, d1⟩, stage2 := ⟨c2, d2⟩, stage3 := ⟨c3, d3⟩, valid := false })
      ∧ ∀ overhead sealAge lag : Half, c.write (.timing overhead sealAge lag)
        = { c with overhead := overhead, sealAge := sealAge, lagLimit := lag, valid := false })
    ∧ (let c := s.gov.ctx s.gov.access
      let groups := [c.g0, c.g1, c.g2, c.g3, c.g4, c.g5, c.g6, c.g7]
      let ofGroups : List (GroupRec → Prop) := [
        fun x => x.base.toNat ≤ 1000, fun x => 1 ≤ x.ceiling.toNat, fun x => x.visitor.toNat < x.ceiling.toNat
        , fun x => x.replay.toNat < x.ceiling.toNat, fun x => x.debt.toNat ≤ 16383]
      let others : List (Context → Prop) := [
        fun c => c.surgeCode.toNat ≤ 7, fun c => c.capCode.toNat ≤ 7
        , fun c => c.stage1.code.toNat ≤ 7, fun c => c.stage2.code.toNat ≤ 7, fun c => c.stage3.code.toNat ≤ 7
        , fun c => c.capEnable = 0 ∨ c.capEnable = 1
        , fun c => 1 ≤ c.stage1.dur.toNat, fun c => 1 ≤ c.stage2.dur.toNat, fun c => 1 ≤ c.stage3.dur.toNat
        , fun c => c.overhead.toNat ≤ 255, fun c => 100 ≤ c.sealAge.toNat ∧ c.sealAge.toNat ≤ 5000
        , fun c => 1 ≤ c.lagLimit.toNat ∧ c.lagLimit.toNat ≤ 32]
      let run := exec (.profileValidate src tag) s
      let earlier := fun f : Nat => ∀ (j : Nat) P, j < f → ofGroups[j]? = some P → ∀ x ∈ groups, P x
      ((∀ P ∈ ofGroups, ∀ x ∈ groups, P x) → (∀ P ∈ others, P c) →
        run = .next ({ s with gov := s.gov.setCtx s.gov.access { c with valid := true } }.concluded src 30 tag .done []))
      ∧ (∀ (f g : Nat) P x, ofGroups[f]? = some P → groups[g]? = some x → ¬ P x → earlier f →
        (∀ (j : Nat) y, j < g → groups[j]? = some y → P y) →
        run = .next (s.concluded src 30 tag .range (be 1 (f + 1) ++ optField 1 (some g))))
      ∧ ∀ (f : Nat) P, others[f]? = some P → ¬ P c → earlier 5 → (∀ (j : Nat) Q, j < f → others[j]? = some Q → Q c) →
        run = .next (s.concluded src 30 tag .range (be 1 (f + 6) ++ optField 1 none)))

/-- SET_TIME (R173), where no timer is then due: venue time becomes the value carried; every deadline keeps the time remaining to
it, and each last roam, handoff start and refill time moves with it, one below 0 being stored as 0 (log entry 31); a radio that is
ABSENT keeps its own (log entry 10). PHASE_SET (R81): RANGE, DONE for the active context, INVALID_CONTEXT with the PHASE_REFUSED
notice; the other context, when VALID, becomes the active one (R82), here where all four ports are sending: each radio present is
refilled under the old context, its credit is at most the new ceiling, and its waiting classes and wake time are set anew (log
entry 26); a ramp ends; seal deadlines move with the seal age. The surge inputs (R72 to R74, R76), all four ports sending: when
the line or the flag asserts surge, surge becomes ON, SURGE_CHANGED is sent, and where p changes every radio present is refilled
under the old p and its wake time set anew (log entry 26); a change that leaves surge asserted or not as it was changes nothing
more. That p has one byte is the model's (log entry 14), and so is that PHASE_REFUSED, and SURGE_CHANGED at SURGE_SET, are sent
before the reply (log entry 42), and that a change of p at a phase change is not counted as a throttle change (log entry 43). -/
def Obligations.TimePhaseAndSurgeChange : Prop :=
  (∀ (s : State) (src : Addr) (tag : Half) (t : Time), s.Ready src → Table.sorted s.radios = true →
    Table.sorted s.egress.lists = true →
    (∀ h, lingerDue h (setVenueTime t s) = false ∧ detachDue h (setVenueTime t s) = false
      ∧ dampingDue h (setVenueTime t s) = false) →
    (∀ r, (setVenueTime t s).sealDue r = false ∧ wakeDue r (setVenueTime t s) = false) →
    stageDue (setVenueTime t s) = false →
    let later := fun v : Time => v + (t - s.venueTime)
    let moved := fun v : Time =>
      if v.toNat + t.toNat < s.venueTime.toNat then (0 : Time) else BitVec.ofNat 48 (v.toNat + t.toNat - s.venueTime.toNat)
    ∃ u : State, exec (.setTime src tag t) s = .next (u.concluded src 2 tag .done (be 6 s.venueTime.toNat ++ be 6 t.toNat))
      ∧ (∀ h, u.station h = (s.station h).map (fun st => { st with
          linger := st.linger.map later, damped := st.damped.map later, lastRoam := st.lastRoam.map moved }))
      ∧ (∀ h, u.roam.ctxs.find h = (s.roam.ctxs.find h).map (fun c => { c with
          start := moved c.start, deadline := later c.deadline }))
      ∧ (∀ r, u.radio r = (if (s.radio r).state = .absent then s.radio r else { s.radio r with
          lastRefill := moved (s.radio r).lastRefill, wake := (s.radio r).wake.map later }))
      ∧ (∀ r c, u.list r c = (s.list r c).map (fun b => { b with sealAt := b.sealAt.map later }))
      ∧ u = { s with
          venueTime := t, stations := u.stations, radios := u.radios
          roam := { s.roam with ctxs := u.roam.ctxs }
          egress := { s.egress with lists := u.egress.lists }
          gov := { s.gov with surge := match s.gov.surge with
            | .ramping k d => .ramping k (later d)
            | x => x } })
  ∧ (∀ (s : State) (src : Addr) (tag : Half) (b : Byte), s.Ready src →
    (b.toNat ≠ 1 → b.toNat ≠ 2 → exec (.phaseSet src tag b) s = .next (s.concluded src 31 tag .range []))
    ∧ ∀ c : Phase, b.toNat = c.code →
      (c = s.gov.active → exec (.phaseSet src tag b) s = .next (s.concluded src 31 tag .done []))
      ∧ (c ≠ s.gov.active → (s.gov.ctx c).valid = false →
        exec (.phaseSet src tag b) s = .next ((notice .phaseRefused (be 1 c.code)
          (s.modGovCtrs (fun k => { k with phaseRefusals := bump k.phaseRefusals }))).concluded src 31 tag .invalidContext []))
      ∧ (c ≠ s.gov.active → (s.gov.ctx c).valid = true → s.allBusy = true → Table.sorted s.radios = true →
        Table.sorted s.egress.lists = true →
        let ends := s.gov.surge.stage.isSome
        let g := { s.gov with
          active := c, surge := if ends then .off else s.gov.surge
          ctrs := { s.gov.ctrs with phaseChanges := bump s.gov.ctrs.phaseChanges } }
        let told := notice .phaseChanged (be 1 c.code ++ be 1 s.gov.active.code ++ be 1 g.throttle) s
        let toldAll := if ends then
          notice .surgeChanged (be 1 1 ++ optField 1 none ++ be 1 0 ++ be 1 g.throttle) told else told
        let aged := fun d : Time =>
          d + BitVec.ofInt 48 ((g.activeCtx.sealAge.toNat : Int) - s.gov.activeCtx.sealAge.toNat)
        ∃ v : State, exec (.phaseSet src tag b) s = .next (v.concluded src 31 tag .done [])
          ∧ v = { toldAll with gov := g, radios := v.radios, egress := { s.egress with lists := v.egress.lists } }
          ∧ (∀ r, v.radio r = (if (s.radio r).state = .absent then s.radio r else
              let x := s.gov.refill s.venueTime (s.radio r)
              let y := if ((g.groupOf x).ceiling.toNat : Int) < x.credit
                then { x with credit := (g.groupOf x).ceiling.toNat, remainder := 0 } else x
              if y.waiting = [] then y else g.setWaiting s.venueTime y.waiting y))
          ∧ ∀ r k, v.list r k = (s.list r k).map (fun b => match b.sealAt with
              | some d => if b.state = .opened ∧ reached s.venueTime (aged d) = true
                then { b with state := .closed, sealAt := none } else { b with sealAt := some (aged d) }
              | none => b)))
  ∧ ∀ (s : State), s.Between →
    let on := fun (s : State) =>
      let s1 := surgeNotice { s with gov := { s.gov with
        surge := .on
        ctrs := { s.gov.ctrs with surgeOnsets :=
          if s.gov.surge = .off then bump s.gov.ctrs.surgeOnsets else s.gov.ctrs.surgeOnsets } } }
      if s1.gov.throttle = s.gov.throttle then s1
      else (s1.modPresentRadios (fun r => s1.gov.rewake s.venueTime (s.gov.refill s.venueTime r))).modGovCtrs
        (fun k => { k with throttleChanges := bump k.throttleChanges })
    (s.allBusy = true → s.gov.surge ≠ .on → s.surgeLine = false → s.gov.surgeFlag = false →
      exec (.surgeLineChange true) s = .next (on { s with surgeLine := true }).ended
      ∧ ∀ src tag, s.RunsAtOnce src →
        let v := on { s with gov := { s.gov with surgeFlag := true } }
        exec (.surgeSet src tag 1) s = .next (v.concluded src 32 tag .done
          (flagByte true ++ flagByte false ++ be 1 2 ++ optField 1 none ++ be 1 v.gov.throttle)))
    ∧ (s.surgeLine = false → s.gov.surgeFlag = false → exec (.surgeLineChange false) s = .next s.ended)
    ∧ (s.gov.surge = .on → s.gov.surgeFlag = true → ∀ level,
      exec (.surgeLineChange level) s = .next { s with surgeLine := level }.ended)
    ∧ (s.gov.surge = .on → s.surgeLine = true → ∀ src tag (f : Bool), s.RunsAtOnce src →
      exec (.surgeSet src tag (if f then 1 else 0)) s = .next ({ s with gov := { s.gov with surgeFlag := f } }.concluded
        src 32 tag .done (flagByte f ++ flagByte true ++ be 1 2 ++ optField 1 none ++ be 1 s.gov.throttle)))

/-- RADIO_CONFIG (R18) by the radio's state: an ABSENT radio is configured and DISABLED, its credit at its group's ceiling (R61); a
DISABLED one takes the new configuration, its credit lowered to the new group's ceiling where it is above (R67), or becomes ABSENT,
the governor's fields at those of an ABSENT radio (R61). That a DISABLED radio keeps its rate class, and the governor's and the replay
engine's counters their values, is read by inference (log entry 30). -/
def Obligations.RadioConfigFollowsState : Prop :=
  ∀ (s : State) (src : Addr) (tag : Half) (radio role zone group port : Byte) (c : RadioCfg) (b : Bool), s.Ready src →
    configOf role zone group port 0 = some (c, b) →
    let r := radio.toNat
    ((s.radio r).state = .absent →
      exec (.radioConfig src tag radio role zone group port 0) s
        = .next ((s.modRadio r (fun x => { x with
            state := .disabled, cfg := some c, rate := 0, noted := false
            credit := (s.gov.activeCtx.group c.group).ceiling.toNat
            remainder := 0, lastRefill := s.venueTime, waiting := [], wake := none })).concluded src 6 tag .done [])
      ∧ exec (.radioConfig src tag radio role zone group port 1) s = .next (s.concluded src 6 tag .done []))
    ∧ ((s.radio r).state = .disabled →
      exec (.radioConfig src tag radio role zone group port 0) s
        = .next ((s.modRadio r (fun x => s.gov.clampCredit { x with cfg := some c })).concluded src 6 tag .done [])
      ∧ exec (.radioConfig src tag radio role zone group port 1) s
        = .next ((s.modRadio r (fun x => { x with
            state := .absent, cfg := none, noted := false
            credit := 0, remainder := 0, lastRefill := 0, waiting := [], wake := none })).concluded src 6 tag .done []))

/-- RADIO_STATE (R19): DISABLED to IN_SERVICE, and QUARANTINED to either, where the radio's port is sending or the new state
is DISABLED, so that no arbiter runs; a state the radio is in already changes nothing. RADIO_RESET (R21) of a radio that no
station is attached to or moves to, with no burst but a TRANSMITTING one and no deliveries, in service or DISABLED: strikes,
drop counters and governor counters are 0, the credit is at its ceiling, the marks that name it are cleared (R42), its waiting
list is empty, the state is kept. IN_SERVICE to DISABLED, and a reset of a radio with stations and bursts or QUARANTINED, are
in RadiosLeaveService. Which counters a reset clears and keeps, the counter sections of chapters 4 and 9 say. That a purge
that finds nothing to discard announces no room, so that a drain list and a stalled list are left as they are, is the model's
reading of R59 (log entry 33), and that the new state is numbered by R19's own list is the model's (log entry 40). -/
def Obligations.RadioStateAndResetFollowTable : Prop :=
  (∀ (s : State) (src : Addr) (tag : Half) (radio : Byte), s.Ready src →
    let r := radio.toNat
    ((s.radio r).state = .disabled → s.portBusy r = true → exec (.radioState src tag radio 1) s
      = .next ((s.modRadio r (fun x => { x with state := .inService, noted := false })).concluded src 7 tag .done []))
    ∧ ((s.radio r).state = .disabled → exec (.radioState src tag radio 2) s = .next (s.concluded src 7 tag .done []))
    ∧ ((s.radio r).state = .inService → exec (.radioState src tag radio 1) s = .next (s.concluded src 7 tag .done []))
    ∧ ((s.radio r).state = .quarantined → s.portBusy r = true → exec (.radioState src tag radio 1) s
      = .next ((s.modRadio r (fun x => { x with state := .inService, noted := false, strikes := 0 })).concluded
          src 7 tag .done []))
    ∧ ((s.radio r).state = .quarantined → exec (.radioState src tag radio 2) s
      = .next ((s.modRadio r (fun x => { x with state := .disabled, noted := false })).concluded src 7 tag .done []))
    ∧ ((s.radio r).state = .absent →
      exec (.radioState src tag radio 1) s = .next (s.concluded src 7 tag .state [])
      ∧ exec (.radioState src tag radio 2) s = .next (s.concluded src 7 tag .state [])))
  ∧ ∀ (s : State) (src : Addr) (tag : Half) (radio : Byte) (c : RadioCfg), s.Ready src →
    let r := radio.toNat
    (s.radio r).state = .inService ∨ (s.radio r).state = .disabled → (s.radio r).cfg = some c →
    (∀ e ∈ s.stations, e.2.current ≠ some r ∧ e.2.target ≠ some r) → (∀ c, ∀ b ∈ s.list r c, b.isTransmitting = true) →
    (∀ e ∈ s.replay.deliveries, e.2.radio ≠ r) →
    exec (.radioReset src tag radio) s = .next (({ s with
      roam := { s.roam with marks := s.roam.marks.filter (fun e => decide (e.2 ≠ r)) } } : State).modRadio r (fun x => { x with
        stations := 0, subscribers := 0, strikes := 0, drops := {}, gov := {}, noted := false
        credit := (s.gov.activeCtx.group c.group).ceiling.toNat
        remainder := 0, lastRefill := s.venueTime, waiting := [], wake := none }) |>.setWaitList r []
          |>.concluded src 8 tag .done [])

/-- STATION_PIN and STATION_UNPIN (R11): every case of their rule. CLEAR_FANS (R9, R10), where no class list holds a burst and no
station is in HANDOFF or subscribed: every record that is not pinned is removed and every pinned one kept, the radios' station
counts fall, the frames held for the removed stations are counted, and the reply carries how many went. ZONE_RESTART (R2, R16, R24,
R60, R83, R105, R115, R142, R159, R166, R175), with no work item and no ramp: only pinned records stay, UNATTACHED, with no roam
state, what else they hold kept; each radio present has its credit anew; every FIFO, list, mark, context and delivery is gone, a
port that was sending having finished one frame at least (how many more is a free value, log entry 4); FILLING and WRITING slots
are FREE one generation on; a RUNNING sweep is SUSPENDED; every request at the controller is marked; the directive is answered
DONE. Nothing else changes. That STATION_TABLE_FULL of STATION_PIN carries no frame is read by inference (log entry 27), and that
its notice comes before the reply is the model's (log entry 42); that the uplink's head frame counts as sent at ZONE_RESTART and the waiting commands stay is the model's (log entry 19). -/
def Obligations.PinnedRecordsAreKept : Prop :=
  (∀ (s : State) (src : Addr) (tag : Half) (a : Addr), s.Ready src →
    (∀ h st, s.lookup a = some h → s.station h = some st → st.pinned = true →
      exec (.stationPin src tag a) s = .next (s.concluded src 10 tag .done []))
    ∧ (∀ h st, s.lookup a = some h → s.station h = some st → st.pinned = false →
      (s.pinnedCount < 512 → exec (.stationPin src tag a) s
        = .next ((s.setStation h { st with pinned := true, linger := none }.rederive).concluded src 10 tag .done []))
      ∧ (512 ≤ s.pinnedCount → exec (.stationPin src tag a) s = .next (s.concluded src 10 tag .range [])))
    ∧ (s.lookup a = none → s.pinnedCount < 512 →
      (∀ h, s.freeHandle a = some h → exec (.stationPin src tag a) s
        = .next (((s.setStation h { addr := a, state := .unattached, pinned := true, cls := .admission }).modStationCtrs
            (fun k => { k with created := bump k.created })).concluded src 10 tag .done []))
      ∧ (s.freeHandle a = none → exec (.stationPin src tag a) s
        = .next ((takeOccurrence { cls := .stationTableFull } s).concluded src 10 tag .range [])))
    ∧ (s.lookup a = none → 512 ≤ s.pinnedCount →
      exec (.stationPin src tag a) s = .next (s.concluded src 10 tag .range []))
    ∧ (∀ h st, s.lookup a = some h → s.station h = some st →
      (st.pinned = false → exec (.stationUnpin src tag a) s = .next (s.concluded src 11 tag .done []))
      ∧ (st.pinned = true → st.state = .unattached → exec (.stationUnpin src tag a) s
        = .next ((s.setStation h { st with
            pinned := false, linger := some (s.venueTime + usec (s.roam.settings.lingerS * 1000000)) }.rederive).concluded
              src 11 tag .done []))
      ∧ (st.pinned = true → st.state ≠ .unattached → exec (.stationUnpin src tag a) s
        = .next ((s.setStation h { st with pinned := false }.rederive).concluded src 11 tag .done [])))
    ∧ (s.lookup a = none → exec (.stationUnpin src tag a) s = .next (s.concluded src 11 tag .state [])))
  ∧ (∀ (s : State) (src : Addr) (tag : Half), s.Ready src → Table.sorted s.stations = true → Table.sorted s.radios = true →
    Table.sorted s.roam.marks = true → s.egress.lists = [] →
    (∀ e ∈ s.stations, e.2.state ≠ .handoff ∧ e.2.sub = none) →
    let gone := s.stations.filter (fun e => !e.2.pinned)
    ∃ v : State, exec (.clearFans src tag) s = .next (v.concluded src 12 tag .done (be 2 gone.length))
      ∧ (∀ r, v.radio r = { s.radio r with
          stations := (s.radio r).stations - (gone.filter (fun e => decide (e.2.current = some r))).length })
      ∧ v = { s with
          stations := s.stations.filter (fun e => e.2.pinned), radios := v.radios
          stationCtrs := { s.stationCtrs with
            heldDiscarded := bumpBy s.stationCtrs.heldDiscarded ((gone.map (fun e => e.2.hold.length)).sum) }
          roam := { s.roam with
            marks := s.roam.marks.filter (fun e => decide (∀ g ∈ gone, g.1 ≠ e.1))
            drain := s.roam.drain.filter (fun h => decide (∀ g ∈ gone, g.1 ≠ h)) } })
  ∧ ∀ (s : State) (src : Addr) (tag : Half), s.Ready src → s.adm.items = [] → s.adm.op = none →
    Table.sorted s.ports = true → Table.sorted s.radios = true → Table.sorted s.replay.slots = true →
    Table.sorted s.replay.reels = true → (∀ k d, s.gov.surge ≠ .ramping k d) →
    let marked := fun q : List Tagged => q.map (fun t => { t with marked := true })
    let cut := fun x : Slot => x.state = .filling ∨ x.state = .writing
    ∃ t : State, exec (.zoneRestart src tag) s = .next t
      ∧ (∀ r, t.radio r = (if (s.radio r).state = .absent then { s.radio r with stations := 0, subscribers := 0 }
          else { s.radio r with
            stations := 0, subscribers := 0, credit := (s.gov.groupOf (s.radio r)).ceiling.toNat
            remainder := 0, lastRefill := s.venueTime, waiting := [], wake := none }))
      ∧ (∀ p, p < 4 → ∃ n, t.port p = ⟨[], none, none, [], if (s.port p).sending.isSome then { (s.port p).ctrs with
            sent := bumpBy (s.port p).ctrs.sent n, burstsCut := bump (s.port p).ctrs.burstsCut } else (s.port p).ctrs⟩
          ∧ 1 ≤ n ∧ ((s.port p).wire ≠ [] → n ≤ (s.port p).wire.length))
      ∧ (∀ n, t.slot n = if cut (s.slot n)
          then { state := .free, reel := (s.slot n).reel, generation := (s.slot n).generation + 1 } else s.slot n)
      ∧ (∀ r, t.reel r = { s.reel r with cfg := (s.reel r).cfg.map (fun c => { c with filling := none }) })
      ∧ t = { s.ended with
          radios := t.radios, ports := t.ports, draws := s.draws + 4
          uplink := ⟨[], [.reply src s.mgmt.address 4 tag .done []], { s.uplink.ctrs with
            received := bump s.uplink.ctrs.received
            sent := if s.uplink.tx = [] then s.uplink.ctrs.sent else bump s.uplink.ctrs.sent }⟩
          mgmt := { s.mgmt with ctrs := ({ s.mgmt.ctrs with received := bump s.mgmt.ctrs.received } : MgmtCtrs).replied .done }
          stations := (s.stations.filter (fun e => e.2.pinned)).map (fun (e : Nat × Station) => (e.1, { e.2 with
            state := .unattached, current := none, target := none, previous := none, lastRoam := none, pingPong := 0
            damped := none, cls := e.2.pendingCls.getD e.2.cls, pendingCls := none, egress := 0, hold := [], sub := none
            linger := none }))
          roam := { s.roam with ctxs := [], marks := [], drain := [] }
          egress := { s.egress with lists := [], buffers := 0, bursts := 0 }
          replay := { s.replay with
            deliveries := [], waiting := [], stalled := [], slots := t.replay.slots, reels := t.replay.reels
            ctrs := { s.replay.ctrs with
              restartAbandoned := bumpBy s.replay.ctrs.restartAbandoned
                (s.replay.slots.filter (fun e => decide (cut e.2))).length } }
          adm := { s.adm with sweep := { s.adm.sweep with
            state := if s.adm.sweep.state = .running then .suspended else s.adm.sweep.state
            stride := none, suspendRequested := false } }
          mem := { s.mem with
            fetchQ := marked s.mem.fetchQ, writeQ := marked s.mem.writeQ, chunkQ := marked s.mem.chunkQ
            strideQ := marked s.mem.strideQ, ingestQ := marked s.mem.ingestQ
            transfer := s.mem.transfer.map (fun t => { t with marked := true }) } }

/-! ### Directives of the admission engine -/

/-- CRED_LOAD, CRED_READ and CRED_VOID at an idle engine (R94 to R97): the directive stays at the head of the queue, and its first
operation takes its bucket and sends its fetch, checking the ways that are neither FREE nor faulty. CRED_ERASE_WAY (R97,
R103) ends as it takes its bucket: the entry becomes FREE, the erases counter rises, and the reply carries the entry as it was; of an
ADMITTED entry the occupancy of its home zone falls by 1 (R88) and its binding is released (R89, R120), here where no subscription is
held, with no effect on a record whose binding does not name the position. The serial number of an operation is the model's (log entry 18). -/
def Obligations.CredentialDirectivesTakeTheirBucket : Prop :=
  (∀ (s : State) (src : Addr) (tag : Half), s.Ready src → s.AdmissionIdle →
    let waits := fun (e : MgmtEntry) (b : Nat) (job : CredJob) =>
      ({ (s.queued e).ended with
          mgmt := { (s.queued e).mgmt with started := true }
          adm := { s.adm with op := some ⟨s.adm.serial, b, job, .fetching⟩, serial := s.adm.serial + 1 }
          mem := s.mem.send (.fetch b (s.checkSet (positionsFrom b 1)) .op) } : State)
    (∀ (r : LoadRec) (rs : List LoadRec), s.adm.sweep.state ≠ .running → rs.length ≤ 15 →
      (∀ x ∈ r :: rs, x.valid = true) →
      exec (.credLoad src tag (r :: rs)) s
        = .next (waits ⟨src, tag, .credLoad (r :: rs)⟩ (credBucket r.code) (.load r rs [])))
    ∧ (∀ c : Word64, exec (.credRead src tag (.code c)) s
        = .next (waits ⟨src, tag, .credRead (.code c)⟩ (credBucket c) (.readCode c)))
    ∧ (∀ (b : Half) (w : Byte), b.toNat < 16384 → w.toNat < 4 →
      exec (.credRead src tag (.position b w)) s
        = .next (waits ⟨src, tag, .credRead (.position b w)⟩ b.toNat (.readPos w.toNat)))
    ∧ ∀ c : Word64, exec (.credVoid src tag c) s
        = .next (waits ⟨src, tag, .credVoid c⟩ (credBucket c) (.void c)))
  ∧ ∀ (s : State) (src : Addr) (tag : Half) (b : Half) (w : Byte), s.Ready src → s.AdmissionIdle →
    b.toNat < 16384 → w.toNat < 4 →
    let p := b.toNat * 4 + w.toNat
    let e := s.entry p
    let ends := fun (k : AdmCtrs) (t : State) => exec (.credEraseWay src tag b w) s = .next ({ t with
      adm := { t.adm with serial := s.adm.serial + 1, ctrs := { k with erases := bump k.erases } } }.concluded
        src 17 tag .done e.bytes)
    let k := s.adm.ctrs
    (s.adm.frozen = false ∨ e.faulty = true) →
    (e.state ≠ .admitted → ends k (s.setEntry p {}))
    ∧ (e.state = .admitted → Table.sorted s.adm.map = true →
      let left := (s.setEntry p {}).setOccupancy e.home (s.occupancy e.home - 1)
      (e.bound = none → ends k left)
      ∧ (∀ h, e.bound = some h →
        (∀ st x, s.station h = some st → st.binding = some x → ¬ (x.bucket = b.toNat ∧ x.way = w.toNat)) →
        ends { k with unbindsNoEffect := bump k.unbindsNoEffect } left)
      ∧ ∀ h st x, e.bound = some h → s.station h = some st → st.binding = some x → x.bucket = b.toNat → x.way = w.toNat →
        st.sub = none → ends { k with unbinds := bump k.unbinds }
          (left.setStation h ({ st with binding := none, standing := .unbound } : Station).rederive))

/-- VOID_SWEEP, SWEEP_SUSPEND and SWEEP_RESUME (R107, R108, R112, R113). At an engine with no work item and no operation, and
a controller with no stride request, VOID_SWEEP and SWEEP_RESUME claim the stride at the pointer and send its read at once;
where a work item holds a bucket of its range, the stride stays CLAIMED and no read is sent. SWEEP_SUSPEND of a CLAIMED stride
releases it, whatever holds buckets of its range, and suspends the sweep; a work item that waited behind it takes its bucket
and the lowest free fetch slot and sends its fetch (R92), here where it alone waits; the reply is sent. In any state a stride
that is READING keeps SWEEP_SUSPEND at the head. CLEAR_REDEMPTIONS (R116), accepted, where no station holds a subscription:
every ADMITTED or EXITED entry becomes ISSUED with no re-entries used, no entry keeps a bound handle, faulty flags and home
zones are kept, all occupancy counters are 0; each station that held a binding has none, its standing UNBOUND and its class
derived anew (R120, R13, R14), the rest of its record kept; the reply carries both numbers. Nothing else changes. The 4-byte
counts of the replies are the model's (log entry 14), and so are the serial numbers of work items (log entry 18), that the
unbinds are counted (log entry 23), that a stride does not wait for marked requests and which waiting item takes a slot (log
entry 25), and that VOID_SWEEP ALL takes any value byte and is reported with the value 0 (log entries 35 and 14). -/
def Obligations.SweepAndClearDirectives : Prop :=
  (∀ (s : State) (src : Addr) (tag : Half), s.Ready src → s.adm.items = [] → s.adm.op = none →
    s.mem.all.all (fun t => decide (t.req.kind ≠ .stride)) = true →
    let reads := fun (w : Sweep) (s : State) =>
      ({ s with
          adm := { s.adm with sweep := { w with stride := some .reading } }
          mem := s.mem.send (.stride w.pointer (s.checkSet (positionsFrom w.pointer 64))) } : State)
    (∀ (kind value : Byte) (sel : Selector), s.adm.sweep.state = .idle → selectorOf kind value = some sel →
      exec (.voidSweep src tag kind value) s
        = .next ((reads { state := .running, selector := some sel, startTime := s.venueTime }
            (s.modAdmCtrs (fun k => { k with sweepsStarted := bump k.sweepsStarted }))).concluded
              src 20 tag .accepted sel.bytes))
    ∧ (s.adm.sweep.state = .suspended → exec (.sweepResume src tag) s
      = .next ((reads { s.adm.sweep with state := .running } s).concluded src 22 tag .done (be 2 s.adm.sweep.pointer))))
  ∧ (∀ (s : State) (src : Addr) (tag : Half), s.Ready src → s.adm.sweep.state = .running → s.adm.sweep.stride = some .claimed →
    let w := { s.adm.sweep with state := .suspended, stride := none }
    let released := ({ s with adm := { s.adm with sweep := w } } : State)
    let answered := fun v : State => exec (.sweepSuspend src tag) s = .next (v.concluded src 21 tag .done
      (be 1 3 ++ be 2 w.pointer ++ be 4 w.voided ++ be 4 w.voidedInside ++ be 4 w.faultyPassed))
    ((∀ i ∈ s.adm.items, i.stage ≠ .waiting) → (∀ o, s.adm.op = some o → o.stage ≠ .waiting) → answered released)
    ∧ ∀ (pre post : List WorkItem) (i : WorkItem) (n : Nat), s.adm.items = pre ++ i :: post → i.stage = .waiting →
      (∀ j ∈ pre ++ post, j.stage ≠ .waiting ∧ j.bucket ≠ i.bucket ∧ j.serial ≠ i.serial) → s.adm.op = none →
      s.mem.all.all (fun t => !t.marked) = true → n < 8 → (∀ j ∈ pre ++ post, j.stage.slot ≠ some n) →
      (∀ m, m < n → ∃ j ∈ pre ++ post, j.stage.slot = some m) →
      answered { released with
        adm := { released.adm with
          items := pre ++ { i with stage := .fetching n } :: post
          ctrs := { s.adm.ctrs with fetches := bump s.adm.ctrs.fetches } }
        mem := s.mem.send (.fetch i.bucket (s.checkSet (positionsFrom i.bucket 1)) (.item i.serial)) })
  ∧ (∀ (s : State) (src : Addr) (tag : Half) (i : WorkItem), s.Ready src → i ∈ s.adm.items → (∀ j ∈ s.adm.items, j.stage ≠ .waiting) →
    (∀ o, s.adm.op = some o → o.stage ≠ .waiting) →
    let claims := fun (w : Sweep) (s : State) =>
      ({ s with adm := { s.adm with sweep := { w with stride := some .claimed } } } : State)
    (∀ (kind value : Byte) (sel : Selector), s.adm.sweep.state = .idle → selectorOf kind value = some sel → i.bucket < 64 →
      exec (.voidSweep src tag kind value) s
        = .next ((claims { state := .running, selector := some sel, startTime := s.venueTime }
            (s.modAdmCtrs (fun k => { k with sweepsStarted := bump k.sweepsStarted }))).concluded
              src 20 tag .accepted sel.bytes))
    ∧ (s.adm.sweep.state = .suspended → s.adm.sweep.pointer ≤ i.bucket → i.bucket < s.adm.sweep.pointer + 64 →
      exec (.sweepResume src tag) s
        = .next ((claims { s.adm.sweep with state := .running } s).concluded src 22 tag .done (be 2 s.adm.sweep.pointer))))
  ∧ (∀ (s : State) (src : Addr) (tag : Half), s.Ready src → s.adm.sweep.state = .running →
    s.adm.sweep.stride = some .reading →
    exec (.sweepSuspend src tag) s = .next { (s.queued ⟨src, tag, .sweepSuspend⟩).ended with
      mgmt := { (s.queued ⟨src, tag, .sweepSuspend⟩).mgmt with started := true }
      adm := { s.adm with sweep := { s.adm.sweep with suspendRequested := true } } })
  ∧ ∀ (s : State) (src : Addr) (tag : Half), s.Ready src → s.adm.sweep.state = .idle → s.adm.frozen = false →
    (∀ e ∈ s.stations, e.2.sub = none) → Table.sorted s.adm.map = true → Table.sorted s.stations = true →
    let returned := (s.adm.map.filter (fun e => decide (e.2.state = .admitted ∨ e.2.state = .exited))).length
    let bound := (s.stations.filter (fun e => e.2.binding.isSome)).length
    ∃ v : State, exec (.clearRedemptions src tag) s = .next (v.concluded src 24 tag .done (be 4 returned ++ be 2 bound))
      ∧ (∀ p, v.entry p = (if (s.entry p).state = .admitted ∨ (s.entry p).state = .exited
          then { s.entry p with state := .issued, used := 0, bound := none } else { s.entry p with bound := none }))
      ∧ (∀ h, v.station h = (s.station h).map (fun st => if st.binding.isSome
          then ({ st with binding := none, standing := .unbound } : Station).rederive else st))
      ∧ v = { s with
          stations := v.stations
          adm := { s.adm with
            map := v.adm.map, occupancy := []
            ctrs := { s.adm.ctrs with
              clears := bump s.adm.ctrs.clears, returned := bumpBy s.adm.ctrs.returned returned
              unbinds := bumpBy s.adm.ctrs.unbinds bound } } }

/-! ### Directives of the replay engine, the governor and the error unit -/

/-- REEL_CONFIG, and REEL_RESET of a configured reel, where nothing is subscribed and no delivery is made (R139, R140): an
unconfigured reel takes its range; of a configured one with no FILLING or WRITING slot every slot of the old range is freed, FREE
one generation on, before the new range, which may share slots with it, is taken, or the reel is unconfigured where remove is set;
at REEL_RESET every slot of the range becomes FREE one generation on. The ring starts at its first slot. The reel keeps its
counters, and every other reel and slot stays as it was. -/
def Obligations.ReelsAreConfiguredAndReset : Prop :=
  ∀ (s : State) (src : Addr) (tag : Half) (reel : Byte), s.Ready src → reel.toNat ≤ 15 → s.replay.deliveries = [] →
    s.subscribersOf reel.toNat = [] → Table.wf ({} : Slot) s.replay.slots = true →
    let r := reel.toNat
    (∀ first count : Half, (s.reel r).cfg = none → 8 ≤ count.toNat → count.toNat ≤ 1024 → first.toNat ≤ 4095 →
      first.toNat + count.toNat ≤ 4096 → s.rangeTaken r first.toNat count.toNat = false →
      ∃ v : State, exec (.reelConfig src tag reel first count 0) s = .next (v.concluded src 25 tag .done [])
        ∧ (∀ q, v.reel q = if q = r then { s.reel r with
            cfg := some { first := first.toNat, count := count.toNat, writePos := first.toNat } } else s.reel q)
        ∧ (∀ n, v.slot n = (if first.toNat ≤ n ∧ n < first.toNat + count.toNat
            then { s.slot n with reel := some r } else s.slot n))
        ∧ v = { s with replay := { s.replay with reels := v.replay.reels, slots := v.replay.slots } })
    ∧ (∀ first count : Half, (s.reel r).cfg = none →
      exec (.reelConfig src tag reel first count 1) s = .next (s.concluded src 25 tag .done []))
    ∧ (∀ (c : ReelCfg) (first count : Half) (remove : Bool), (s.reel r).cfg = some c → Table.sorted s.replay.reels = true →
      (∀ n, c.first ≤ n → n < c.first + c.count → (s.slot n).state = .free ∨ (s.slot n).state = .ready) →
      (remove = false → 8 ≤ count.toNat ∧ count.toNat ≤ 1024 ∧ first.toNat ≤ 4095 ∧ first.toNat + count.toNat ≤ 4096
        ∧ s.rangeTaken r first.toNat count.toNat = false) →
      let freed : Nat → Slot := fun n => if c.first ≤ n ∧ n < c.first + c.count
        then { state := .free, reel := none, generation := (s.slot n).generation + 1 } else s.slot n
      let ring : Option ReelCfg :=
        if remove then none else some { first := first.toNat, count := count.toNat, writePos := first.toNat }
      ∃ v : State, exec (.reelConfig src tag reel first count (if remove then 1 else 0)) s
          = .next (v.concluded src 25 tag .done [])
        ∧ (∀ q, v.reel q = if q = r then { s.reel r with cfg := ring } else s.reel q)
        ∧ (∀ n, v.slot n = (if remove = false ∧ first.toNat ≤ n ∧ n < first.toNat + count.toNat
            then { freed n with reel := some r } else freed n))
        ∧ v = { s with replay := { s.replay with reels := v.replay.reels, slots := v.replay.slots } })
    ∧ ∀ c, (s.reel r).cfg = some c →
      ∃ v : State, exec (.reelReset src tag reel) s = .next (v.concluded src 26 tag .done
          (be 2 0 ++ be 2 (s.slotsIn (s.reel r) .ready)))
        ∧ (∀ q, v.reel q = if q = r then { s.reel r with
            cfg := some { first := c.first, count := c.count, writePos := c.first } } else s.reel q)
        ∧ (∀ n, v.slot n = (if c.first ≤ n ∧ n < c.first + c.count
            then { state := .free, reel := (s.slot n).reel, generation := (s.slot n).generation + 1 } else s.slot n))
        ∧ v = { s with replay := { s.replay with reels := v.replay.reels, slots := v.replay.slots } }

/-- ERROR_CLEAR (R181) clears the status flags of the classes in its set and, with the record flag set, the first-error record and its
overflow flag; the reply carries both as they stood; a set beyond the 14 classes is answered RANGE. ERROR_CONFIG (R180): each of
mask, severity and threshold is replaced unless given as KEEP, for the class named or for every class with ALL; a severity is kept
by quarantinable classes only; QUARANTINE for another class is answered RANGE. The arrangement of both reply bodies and the two
bytes of the threshold are the model's (log entry 14), and so is that FFFFh there is KEEP (log entry 27). -/
def Obligations.ErrorDirectivesSetErrorUnit : Prop :=
  (∀ (s : State) (src : Addr) (tag classes : Half), s.Ready src → Table.wf ({} : ErrState) s.err.classes = true →
    (2 ^ 14 ≤ classes.toNat → exec (.errorClear src tag classes 0) s = .next (s.concluded src 35 tag .range [])
      ∧ exec (.errorClear src tag classes 1) s = .next (s.concluded src 35 tag .range []))
    ∧ (classes.toNat < 2 ^ 14 → ∀ record : Bool,
      ∃ v : State, exec (.errorClear src tag classes (if record then 1 else 0)) s
          = .next (v.concluded src 35 tag .done (errorClearBody s))
        ∧ (∀ c : ErrClass, v.errState c = (if classes.getLsbD (c.code - 1)
            then { s.errState c with status := false } else s.errState c))
        ∧ v.err.first = (if record then none else s.err.first)
        ∧ v.err.overflow = (if record then false else s.err.overflow)
        ∧ v = { s with err := { s.err with
            classes := v.err.classes, first := v.err.first, overflow := v.err.overflow } }))
  ∧ ∀ (s : State) (src : Addr) (tag : Half) (cls : Byte) (cs : List ErrClass) (mask sev : Option Bool) (thr : Option Nat)
    (m sv : Byte) (t : Half), s.Ready src → Table.wf ({} : ErrState) s.err.classes = true →
    (cls = 0 ∧ cs = ErrClass.all ∨ ∃ c : ErrClass, cls.toNat = c.code ∧ cs = [c]) →
    (m = 0xFF ∧ mask = none ∨ m = 0 ∧ mask = some false ∨ m = 1 ∧ mask = some true) →
    (sv = 0xFF ∧ sev = none ∨ sv = 1 ∧ sev = some false ∨ sv = 2 ∧ sev = some true) →
    (t = 0xFFFF ∧ thr = none ∨ 1 ≤ t.toNat ∧ t.toNat ≤ 255 ∧ thr = some t.toNat) →
    ((cls ≠ 0 ∧ sev = some true ∧ ∃ c ∈ cs, c.quarantinable = false) →
      exec (.errorConfig src tag cls m sv t) s = .next (s.concluded src 36 tag .range []))
    ∧ (¬ (cls ≠ 0 ∧ sev = some true ∧ ∃ c ∈ cs, c.quarantinable = false) →
      ∃ v : State, exec (.errorConfig src tag cls m sv t) s = .next (v.concluded src 36 tag .done (errorConfigBody v))
        ∧ v.err.threshold = thr.getD s.err.threshold
        ∧ (∀ c : ErrClass, v.errState c = (if c ∈ cs then { s.errState c with
              masked := mask.getD (s.errState c).masked
              quarantine := if c.quarantinable then sev.getD (s.errState c).quarantine else (s.errState c).quarantine }
            else s.errState c))
        ∧ v = { s with err := { s.err with classes := v.err.classes, threshold := v.err.threshold } })

/-- NOTICE_CONFIG (R182, R183): the entry takes the values given, a field given as KEEP stays, each kind in the set maps to
the entry and no other kind moves; a held notice of an entry now enabled and unmasked is sent with its count, that of a
disabled entry is discarded; an enabled entry needs a station's destination. That the notice sent raises the entry's sent
counter by 1, whatever its count, is read by inference (log entry 23); the bytes of the table in the reply are the model's
(log entry 14), and so is that the notice is sent before it (log entry 42). A pending count that saturates is THE MODEL'S
CHOICE (log entry 45). -/
def Obligations.NoticeConfigReplacesEntry : Prop :=
  ∀ (s : State) (src : Addr) (tag : Half) (entry : Byte) (dest : Addr) (en mk : Option Bool) (kinds : Byte), s.Ready src →
    entry.toNat ≤ 15 → Table.sorted s.err.entries = true → Table.sorted s.err.mapping = true →
    let n := entry.toNat
    let e := s.noticeEntry n
    let byte := fun b : Option Bool => match b with
      | none => (0xFF : Byte)
      | some b => if b then 1 else 0
    let set := { e with
      dest := if dest = BitVec.allOnes 48 then e.dest else dest, enable := en.getD e.enable, mask := mk.getD e.mask }
    let run := exec (.noticeConfig src tag entry dest (byte en) (byte mk) kinds) s
    (set.enable = true → noStation set.dest = true → run = .next (s.concluded src 37 tag .range []))
    ∧ ((set.enable = true → noStation set.dest = false) →
      let s1 := s.setNoticeEntry n set
      let t := match e.held with
        | none => s1
        | some h =>
          if set.enable = false then s1.setNoticeEntry n { set with held := none, discarded := bumpBy e.discarded h.count.toNat }
          else if set.mask then s1
          else (s1.setNoticeEntry n { set with held := none, sent := bump e.sent }).sendUplink
            (.notice set.dest s.mgmt.address h.kind h.count h.body)
      ∃ v : State, run = .next (v.concluded src 37 tag .done (noticeTableBytes v))
        ∧ (∀ k : NoticeKind, v.noticeEntryOf k = if kinds.getLsbD (k.code - 1) then n else s.noticeEntryOf k)
        ∧ (kinds = 0 → v = t)
        ∧ v = { t with err := { t.err with mapping := v.err.mapping } })

/-! ### Frames from the uplink -/

/-- A data frame from the uplink to a station (R22, R26, R44, R47): over 1,500 bytes, broadcast, multicast and unknown
destinations are dropped, each with its counter; for a record that is not ATTACHED or holds frames the frame joins the hold
queue, whose oldest frame is dropped with HOLD_OVERFLOW where a limit is reached; for an ATTACHED record with an empty hold
queue it opens a burst in an empty list of its class; and, where its radio's port is sending, in whatever class the station has
(ADMISSION with the whole pool and no seal deadline), it joins an OPEN tail that it fits, which closes when full, or opens a burst
behind it; it is dropped with EGRESS_OVERFLOW where the pool has no buffer, or no burst where it needs one. The
frame bytes an error keeps are read by inference (log entry 12). -/
def Obligations.DownstreamFramesAreSorted : Prop :=
  ∀ (s : State) (dst src : Addr) (etype : Half) (payload : List Byte), s.Between → dst ≠ s.ingestAddr → dst ≠ s.mgmt.address →
    let heard := s.modUplinkCtrs (fun k => { k with received := bump k.received })
    let run := exec (.downstreamDataFrame dst src etype payload) s
    (1500 < payload.length → run = .next (heard.modUplinkCtrs (fun k => { k with oversize := bump k.oversize })).ended)
    ∧ (payload.length ≤ 1500 → dst = BitVec.allOnes 48 →
      run = .next (heard.modUplinkCtrs (fun k => { k with broadcast := bump k.broadcast })).ended)
    ∧ (payload.length ≤ 1500 → dst ≠ BitVec.allOnes 48 → isGroup dst = true →
      run = .next (heard.modUplinkCtrs (fun k => { k with multicast := bump k.multicast })).ended)
    ∧ (payload.length ≤ 1500 → isGroup dst = false → s.lookup dst = none →
      run = .next (heard.modUplinkCtrs (fun k => { k with unknown := bump k.unknown })).ended)
    ∧ ∀ h st, payload.length ≤ 1500 → isGroup dst = false → s.lookup dst = some h → s.station h = some st →
      let f : Frame := { kind := .data, dst := dst, src := src, etype := etype, payload := payload, handle := some h }
      let overflow := fun (x : Frame) =>
        ({ cls := .holdOverflow, radio := st.current, handle := some h, frame := some (x.offered 0) } : Occurrence)
      (st.state ≠ .attached ∨ st.hold ≠ [] → s.holdUsed < 2048 → st.hold.length < 64 →
        run = .next (heard.setStation h { st with hold := st.hold ++ [f] }).ended)
      ∧ (∀ oldest rest, st.hold = oldest :: rest → 2048 ≤ s.holdUsed ∨ 64 ≤ st.hold.length →
        run = .next (takeOccurrence (overflow oldest) ((heard.setStation h { st with hold := rest ++ [f] }).modRoamCtrs
          (fun k => { k with holdOverflow := bump k.holdOverflow }))).ended)
      ∧ (st.state ≠ .attached → st.hold = [] → 2048 ≤ s.holdUsed →
        run = .next (takeOccurrence (overflow f) (heard.modRoamCtrs
          (fun k => { k with holdOverflow := bump k.holdOverflow }))).ended)
      ∧ (∀ r, st.state = .attached → st.current = some r → st.hold = [] → s.inService r = true → st.cls ≠ .admission →
        (s.egress.buffers < 3840 → s.egress.bursts < 960 → s.list r st.cls = [] →
          let b : Burst := {
            state := .opened, frames := [f], sealAt := some (s.venueTime + usec s.gov.activeCtx.sealAge.toNat) }
          let s1 := (heard.setList r st.cls [b]).setStation h { st with egress := st.egress + 1 }
          run = .next ({ s1 with egress := { s1.egress with
            buffers := s.egress.buffers + 1, bursts := s.egress.bursts + 1, accepted := bump s.egress.accepted } } : State).ended)
        ∧ (3840 ≤ s.egress.buffers →
          run = .next (takeOccurrence (anError .egressOverflow (some r) (f.offered r))
            (heard.modRadio r (fun x => { x with drops := { x.drops with overflow := bump x.drops.overflow } }))).ended))
      ∧ ∀ r, st.state = .attached → st.current = some r → st.hold = [] → s.inService r = true → st.cls ≠ .replay →
        let size := fun b : Burst => (b.frames.map (fun f => f.payload.length)).sum
        let takes := fun b : Burst => b.state = .opened ∧ b.frames.length < 8 ∧ size b + payload.length ≤ 12000
        let buffer := s.egress.buffers < (if st.cls = .admission then 4096 else 3840)
        let record := s.egress.bursts < (if st.cls = .admission then 1024 else 960)
        let placed := fun (l : List Burst) (opened : Nat) =>
          let s1 := (heard.setList r st.cls l).setStation h { st with egress := st.egress + 1 }
          run = .next ({ s1 with egress := { s1.egress with
            buffers := s.egress.buffers + 1, bursts := s.egress.bursts + opened, accepted := bump s.egress.accepted } } : State).ended
        (s.portBusy r = true → buffer →
          (∀ bs b, s.list r st.cls = bs ++ [b] → takes b →
            let full := b.frames.length = 7 ∨ size b + payload.length = 12000
            placed (bs ++ [{ b with
              frames := b.frames ++ [f]
              state := if full then .closed else .opened, sealAt := if full then none else b.sealAt }]) 0)
          ∧ (record → (∀ bs b, s.list r st.cls = bs ++ [b] → ¬ takes b) →
            placed ((s.list r st.cls).map (fun b => if b.state = .opened then { b with state := .closed, sealAt := none } else b) ++ [{
              state := .opened, frames := [f]
              sealAt := if st.cls = .admission then none
                else some (s.venueTime + usec s.gov.activeCtx.sealAge.toNat) }]) 1))
        ∧ (¬ buffer ∨ (¬ record ∧ ∀ bs b, s.list r st.cls = bs ++ [b] → ¬ takes b) →
          run = .next (takeOccurrence (anError .egressOverflow (some r) (f.offered r))
            (heard.modRadio r (fun x => { x with drops := { x.drops with overflow := bump x.drops.overflow } }))).ended)

/-- Frames to the part's own addresses that it turns away (R131, R132, R167, R168, R188): a frame to the management address of
another type, or shorter than a header; malformed reel frames, reels above 15 and lengths of 0 or above 262,144 among them; and
reel frames of an unconfigured reel. Each raises its counter and changes nothing else. That such a frame is not dropped for its
length, also above 1,500 bytes, is read by inference (log entry 32). -/
def Obligations.UplinkFramesAreTurnedAway : Prop :=
  ∀ (s : State) (src : Addr), s.Between →
    let heard := s.modUplinkCtrs (fun k => { k with received := bump k.received })
    let bad := Host.Outcome.next (heard.modReplayCtrs (fun k => { k with malformed := bump k.malformed })).ended
    let none' := Host.Outcome.next (heard.modReplayCtrs (fun k => { k with unconfigured := bump k.unconfigured })).ended
    (∀ etype content, etype ≠ typeManagement → exec (.managementFrame src etype content) s
      = .next (heard.modMgmtCtrs (fun k => { k with nonManagement := bump k.nonManagement })).ended)
    ∧ (∀ content, content.length < 7 → exec (.managementFrame src typeManagement content) s
      = .next (heard.modMgmtCtrs (fun k => { k with short := bump k.short })).ended)
    ∧ (∀ etype content, parseReel etype content = none → exec (.malformedReelFrame src etype content) s = bad)
    ∧ (∀ (reel : Byte) (seq len : Word32), 15 < reel.toNat ∨ len.toNat = 0 ∨ 262144 < len.toNat →
      exec (.segmentOpen src reel seq len) s = bad)
    ∧ (∀ (reel : Byte) (seq offset : Word32) data, 15 < reel.toNat ∨ data = [] ∨ 1400 < data.length →
      exec (.segmentData src reel seq offset data) s = bad)
    ∧ (∀ (reel : Byte) (seq : Word32), 15 < reel.toNat → exec (.segmentClose src reel seq) s = bad)
    ∧ ∀ (reel : Byte), reel.toNat ≤ 15 → (s.reel reel.toNat).cfg = none →
      (∀ seq len : Word32, 1 ≤ len.toNat → len.toNat ≤ 262144 → exec (.segmentOpen src reel seq len) s = none')
      ∧ (∀ (seq offset : Word32) data, 1 ≤ data.length → data.length ≤ 1400 →
        exec (.segmentData src reel seq offset data) s = none')
      ∧ ∀ seq : Word32, exec (.segmentClose src reel seq) s = none'

/-- SEGMENT_OPEN of a configured reel (R132, R133): at or below the last opened sequence it is refused with INGEST_SEQUENCE; the
next sequence, or any on a fresh reel, takes the FREE slot at the write position, which becomes FILLING; a gap is counted and
raises INGEST_SEQUENCE as well. A slot FILLING, WRITING or READY is in SegmentsAreSoughtAndTaken. The frame bytes the error keeps are
read by inference (log entry 12). -/
def Obligations.SegmentOpenTakesSlot : Prop :=
  ∀ (s : State) (src : Addr) (reel : Byte) (seq len : Word32) (c : ReelCfg), s.Between → reel.toNat ≤ 15 →
    1 ≤ len.toNat → len.toNat ≤ 262144 → (s.reel reel.toNat).cfg = some c →
    let r := reel.toNat
    let heard := s.modUplinkCtrs (fun k => { k with received := bump k.received })
    let occ : Occurrence := (anError .ingestSequence none (s.ingestFrame src typeReel (ReelMsg.segOpen reel seq len).content))
    let take := fun (s : State) =>
      (s.setSlot c.writePos { s.slot c.writePos with
        state := .filling, seq := some seq.toNat, length := some len.toNat, received := some 0, outstanding := 0 }).setReel r
        { cfg := some { c with
            filling := some c.writePos, lastOpened := some seq.toNat
            writePos := if c.writePos + 1 < c.first + c.count then c.writePos + 1 else c.first }
          ctrs := { (s.reel r).ctrs with opens := bump (s.reel r).ctrs.opens } }
    (∀ l, c.lastOpened = some l → seq.toNat ≤ l → exec (.segmentOpen src reel seq len) s
      = .next (takeOccurrence occ (heard.modReelCtrs r (fun k => { k with refusedOpens := bump k.refusedOpens }))).ended)
    ∧ (c.filling = none → (s.slot c.writePos).state = .free →
      ((c.lastOpened = none ∨ (∃ l, c.lastOpened = some l ∧ seq.toNat = l + 1)) →
        exec (.segmentOpen src reel seq len) s = .next (take heard).ended)
      ∧ ∀ l, c.lastOpened = some l → l + 1 < seq.toNat →
        exec (.segmentOpen src reel seq len) s = .next (take (takeOccurrence occ (heard.modReelCtrs r
          (fun k => { k with missing := bumpBy k.missing (seq.toNat - l - 1) })))).ended)

/-- SEGMENT_DATA and SEGMENT_CLOSE of a configured reel (R135, R137, R138): data for no filling slot, out of order, out of bounds
or over 128 outstanding writes is dropped with its counter, other data is taken and its write sent; a close with data missing
discards the slot, one with writes outstanding makes it WRITING, and one with none makes it READY, here where no station is in
the table (what a READY segment wakes is in SegmentsAreSoughtAndTaken). The frame bytes INGEST_INCOMPLETE keeps are read by inference
(log entry 12); the slot's width in INGEST_DONE is the model's (log entry 14). -/
def Obligations.SegmentDataFillsSlot : Prop :=
  ∀ (s : State) (src : Addr) (reel : Byte) (seq : Word32) (c : ReelCfg), s.Between → reel.toNat ≤ 15 →
    (s.reel reel.toNat).cfg = some c →
    let r := reel.toNat
    let heard := s.modUplinkCtrs (fun k => { k with received := bump k.received })
    (∀ (offset : Word32) (data : List Byte), 1 ≤ data.length → data.length ≤ 1400 →
      let run := exec (.segmentData src reel seq offset data) s
      (c.filling = none ∨ (∃ f, c.filling = some f ∧ (s.slot f).seq ≠ some seq.toNat) →
        run = .next (heard.modReelCtrs r (fun k => { k with noFilling := bump k.noFilling })).ended)
      ∧ ∀ f n len, c.filling = some f → (s.slot f).seq = some seq.toNat → (s.slot f).received = some n →
        (s.slot f).length = some len →
        (offset.toNat ≠ n → run = .next (heard.modReelCtrs r (fun k => { k with outOfOrder := bump k.outOfOrder })).ended)
        ∧ (offset.toNat = n → len < n + data.length →
          run = .next (heard.modReelCtrs r (fun k => { k with outOfBounds := bump k.outOfBounds })).ended)
        ∧ (offset.toNat = n → n + data.length ≤ len → 128 ≤ s.replay.outstanding →
          run = .next (heard.modReelCtrs r (fun k => { k with overrun := bump k.overrun })).ended)
        ∧ (offset.toNat = n → n + data.length ≤ len → s.replay.outstanding < 128 →
          let s1 := (heard.setSlot f { s.slot f with
            received := some (n + data.length), outstanding := (s.slot f).outstanding + 1 }).modReelCtrs r
              (fun k => { k with accepted := bump k.accepted })
          run = .next ({ s1 with
            replay := { s1.replay with outstanding := s.replay.outstanding + 1 }
            mem := s.mem.send (.ingest f n data (s.slot f).generation) } : State).ended))
    ∧ (c.filling = none ∨ (∃ f, c.filling = some f ∧ (s.slot f).seq ≠ some seq.toNat) →
      exec (.segmentClose src reel seq) s
        = .next (heard.modReelCtrs r (fun k => { k with strayCloses := bump k.strayCloses })).ended)
    ∧ ∀ f n len, c.filling = some f → (s.slot f).seq = some seq.toNat → (s.slot f).received = some n →
      (s.slot f).length = some len →
      let run := exec (.segmentClose src reel seq) s
      let reelWith := fun (s : State) (c : ReelCfg) (g : ReelCtrs → ReelCtrs) =>
        s.setReel r { cfg := some c, ctrs := g (s.reel r).ctrs }
      (n < len → run = .next (takeOccurrence (anError .ingestIncomplete none (s.ingestFrame src typeReel (ReelMsg.segClose reel seq).content))
          (reelWith (heard.setSlot f { reel := (s.slot f).reel, generation := (s.slot f).generation + 1 })
            { c with filling := none } (fun k => { k with incomplete := bump k.incomplete }))).ended)
      ∧ (len ≤ n → 0 < (s.slot f).outstanding → run = .next (reelWith (heard.setSlot f { s.slot f with state := .writing })
          { c with filling := none } id).ended)
      ∧ (len ≤ n → (s.slot f).outstanding = 0 → s.stations = [] →
        run = .next (notice .ingestDone
          (be 1 r ++ be 4 seq.toNat ++ be 2 f ++ be 2 (s.slot f).generation.toNat ++ be 4 len ++ be 6 s.venueTime.toNat)
          (reelWith (heard.setSlot f { s.slot f with
              state := .ready, received := none, outstanding := 0, readyTime := some s.venueTime })
            { c with
              filling := none, newest := some seq.toNat
              oldest := if c.oldest = none then some seq.toNat else c.oldest }
            (fun k => { k with ready := bump k.ready, readyBytes := bumpBy k.readyBytes len }))).ended)

/-! ### Frames from the downlink ports -/

/-- The carrier checks (R23), for every message and data frame: a frame of a radio on another port raises CARRIER_MALFORMED
with no radio, so no strike; one of a radio that is QUARANTINED, DISABLED or ABSENT is dropped and counted, and raises
RADIO_NOT_IN_SERVICE once. Nothing else changes. The frame bytes an error keeps are read by inference (log entry 12). -/
def Obligations.CarrierFramesAreTurnedAway : Prop :=
  ∀ (i : Instr) (p : Fin 4) (c : CarrierFrame) (s : State), i.carrier = some (p, c) → i.wf = true → s.Between →
    let r := c.radio.toNat
    let heard := s.portHeard p.val
    let x := s.radio r
    (x.state ≠ .absent → x.cfg.map RadioCfg.port ≠ some p.val →
      exec i s = .next (takeOccurrence (anError .carrierMalformed none c.bytes) heard).ended)
    ∧ (x.state = .absent ∨ (x.cfg.map RadioCfg.port = some p.val ∧ (x.state = .quarantined ∨ x.state = .disabled)) →
      let counted := if x.state = .absent
        then heard.modPortCtrs p.val (fun k => { k with absentDrops := bump k.absentDrops })
        else heard.modRadio r (fun x => { x with drops := { x.drops with notInService := bump x.drops.notInService } })
      (x.noted = true → exec i s = .next counted.ended)
      ∧ (x.noted = false → exec i s = .next (takeOccurrence (anError .radioNotInService (some r) c.bytes)
          (counted.modRadio r (fun x => { x with noted := true }))).ended))

/-- Frames that count against the radio that sent them (R23, R178, R179, R186): a frame that fails the format checks raises
CARRIER_MALFORMED for the radio its first byte names, when that one is configured, and a message that travels from the part
to the radios raises SERVICE_UNEXPECTED; the strike charged is below the threshold here. The frame bytes an error keeps (log
entry 12) and the radio a short frame names (log entry 27) are read by inference. -/
def Obligations.FaultyFramesChargeStrikes : Prop :=
  ∀ (s : State) (p : Fin 4), s.Between →
    (∀ bytes, parseCarrier bytes = none → (∀ b rest, bytes = b :: rest → (s.radio b.toNat).state = .absent) →
      exec (.malformedCarrierFrame p bytes) s
        = .next (takeOccurrence (anError .carrierMalformed none bytes) (s.portHeard p.val)).ended)
    ∧ (∀ b rest, parseCarrier (b :: rest) = none → (s.radio b.toNat).state ≠ .absent →
      s.noQuarantine .carrierMalformed b.toNat = true →
      exec (.malformedCarrierFrame p (b :: rest)) s = .next ((s.portHeard p.val).faulted
        (anError .carrierMalformed (some b.toNat) (b :: rest)) b.toNat).ended)
    ∧ ∀ (radio : Byte) (a : Addr) (code : Byte) (body : List Byte), toRadioWf code body = true →
      s.Passes p.val radio.toNat → s.noQuarantine .serviceUnexpected radio.toNat = true →
      exec (.partToRadioServiceFrame p radio a code body) s = .next ((s.portHeard p.val).faulted
        (anError .serviceUnexpected (some radio.toNat) (serviceBytes radio.toNat a code body)) radio.toNat).ended

/-- A station's data frame (R23) goes to the uplink as it came, one of an address not in the table counted at its port;
RADIO_STATUS (R63) sets the rate class, here of a radio whose port is sending, and counts; a class above 15 is malformed. The
frame bytes CARRIER_MALFORMED keeps are read by inference (log entry 12). -/
def Obligations.UpstreamDataAndStatusAreTaken : Prop :=
  ∀ (s : State) (p : Fin 4) (radio : Byte), s.Between → s.Passes p.val radio.toNat →
    let r := radio.toNat
    let heard := s.portHeard p.val
    (∀ (a dst : Addr) (etype : Half) (payload : List Byte), 1 ≤ payload.length → payload.length ≤ 1500 →
      let sent := heard.sendUplink (.data { kind := .data, dst := dst, src := a, etype := etype, payload := payload })
      exec (.upstreamDataFrame p radio a dst etype payload) s = .next (if (s.lookup a).isSome then sent
        else sent.modPortCtrs p.val (fun k => { k with unlisted := bump k.unlisted })).ended)
    ∧ ∀ cls : Byte,
      ((s.radio r).rate = cls.toNat → cls.toNat ≤ 15 →
        exec (.radioStatus p radio cls) s = .next (heard.modRadio r (fun x => { x with
          gov := { x.gov with statusMessages := bump x.gov.statusMessages } })).ended)
      ∧ ((s.radio r).rate ≠ cls.toNat → cls.toNat ≤ 15 → s.portBusy r = true →
        exec (.radioStatus p radio cls) s = .next (heard.modRadio r (fun x => { x with
          rate := cls.toNat
          gov := { x.gov with
            statusMessages := bump x.gov.statusMessages, rateChanges := bump x.gov.rateChanges } })).ended)
      ∧ (15 < cls.toNat → s.noQuarantine .carrierMalformed r = true →
        exec (.radioStatus p radio cls) s = .next (heard.faulted (anError .carrierMalformed (some r) (serviceBytes r 0 0x04 [cls])) r).ended)

/-- JOIN and PART without a handoff (R4 to R8): a JOIN creates a record in the lowest free way, or raises STATION_TABLE_FULL;
from the current radio it changes nothing; a PART from the current radio leaves the record UNATTACHED with its linger
deadline, here with no subscription and no frame queued; for an unknown address it is stray, and from another radio
SERVICE_UNEXPECTED. The frame bytes an error keeps are read by inference (log entry 12). -/
def Obligations.JoinAndPartMoveStations : Prop :=
  ∀ (s : State) (p : Fin 4) (radio : Byte) (a : Addr), s.Between → s.Passes p.val radio.toNat →
    let r := radio.toNat
    let heard := s.portHeard p.val
    (∀ h, noStation a = false → s.lookup a = none → s.freeHandle a = some h →
      exec (.join p radio a) s = .next (((heard.setStation h { addr := a, state := .attached, current := some r }).modRadio r
        (fun x => { x with stations := x.stations + 1 })).modStationCtrs (fun k => { k with created := bump k.created })).ended)
    ∧ (noStation a = false → s.lookup a = none → s.freeHandle a = none →
      exec (.join p radio a) s = .next (takeOccurrence (anError .stationTableFull (some r) (serviceBytes r a 0x01 [])) heard).ended)
    ∧ (noStation a = true → s.noQuarantine .carrierMalformed r = true →
      exec (.join p radio a) s = .next (heard.faulted (anError .carrierMalformed (some r) (serviceBytes r a 0x01 [])) r).ended)
    ∧ (∀ h st, noStation a = false → s.lookup a = some h → s.station h = some st → st.state = .attached →
      st.current = some r → exec (.join p radio a) s = .next heard.ended)
    ∧ (∀ h st, s.lookup a = some h → s.station h = some st → st.state = .attached → st.current = some r → st.sub = none →
      s.noneQueued h r = true →
      let left := heard.setStation h { st with
        state := .unattached, current := none
        linger := if st.pinned then none else some (s.venueTime + usec (s.roam.settings.lingerS * 1000000)) }
      exec (.part p radio a) s = .next ({ left.modRadio r (fun x => { x with stations := x.stations - 1 }) with
        roam := { s.roam with drain := s.roam.drain.filter (· ≠ h) } } : State).ended)
    ∧ (s.lookup a = none → exec (.part p radio a) s
      = .next (heard.modStationCtrs (fun k => { k with stray := bump k.stray })).ended)
    ∧ ∀ h st, s.lookup a = some h → s.station h = some st →
      st.state = .unattached ∨ (st.state = .attached ∧ ∃ x, st.current = some x ∧ x ≠ r) →
      s.noQuarantine .serviceUnexpected r = true →
      exec (.part p radio a) s = .next (heard.faulted (anError .serviceUnexpected (some r) (serviceBytes r a 0x02 [])) r).ended

/-- A JOIN or PART that roams, of a station with nothing held and no subscription, here while the ports concerned are sending. For
an ATTACHED record not damped, from another radio, a handoff begins (R31): DETACH is offered to the old radio (R30), the context
runs to the detach deadline, the mark is cleared; a damped one is declined (R32), with DETACH and a mark (R39). In HANDOFF a JOIN
from the target changes nothing, from the old radio cancels with KEEP and a mark, from a third radio moves the target (R37); a PART
from the target leaves the record UNATTACHED with a mark (R38). A JOIN attaches an UNATTACHED record (R5). A RELEASE out of place
(R34, R39) takes its mark, else raises LATE_RELEASE; from another radio in HANDOFF a RELEASE or PART is SERVICE_UNEXPECTED. At a
completion (R40) a return within the window raises the ping-pong count, which damps at its threshold; else it is 0. The frame bytes an
error keeps are read by inference (log entry 12). -/
def Obligations.JoinsRoamAndReturn : Prop :=
  (∀ (s : State) (p : Fin 4) (radio : Byte) (a : Addr) (h : Nat) (st : Station), s.Between → s.Passes p.val radio.toNat →
    noStation a = false → s.lookup a = some h → s.station h = some st → st.hold = [] → st.sub = none →
    let r := radio.toNat
    let heard := s.portHeard p.val
    let now := s.venueTime
    let sent := fun (q : Nat) (code : Byte) (s : State) =>
      (offer .droppable q .admission (serviceFrame st.addr code []) s).1 = .accepted
    let tell := fun (q : Nat) (code : Byte) (s : State) =>
      let o := offer .droppable q .admission (serviceFrame st.addr code []) s
      if o.1 = .accepted then o.2 else o.2.modRoamCtrs (fun k => { k with lostMessages := bump k.lostMessages })
    let linger := if st.pinned then none else some (now + usec (s.roam.settings.lingerS * 1000000))
    let join := exec (.join p radio a) s
    let part := exec (.part p radio a) s
    (∀ x, st.state = .attached → st.current = some x → x ≠ r → st.damped = none → s.noneQueued h x = true →
      s.portBusy x = true →
      let on := heard.setStation h { st with state := .handoff, target := some r }
      let u := tell x 0x10 on
      join = .next ({ u with roam := { u.roam with
        ctxs := u.roam.ctxs.put h ⟨x, r, now, now + usec (s.roam.settings.detachMs * 1000), decide (sent x 0x10 on)⟩
        marks := u.roam.marks.del h, drain := u.roam.drain.filter (fun k => decide (k ≠ h))
        ctrs := { u.roam.ctrs with started := bump u.roam.ctrs.started } } } : State).ended)
    ∧ (∀ x d, st.state = .attached → st.current = some x → x ≠ r → st.damped = some d → s.portBusy r = true →
      let u := tell r 0x10 heard
      join = .next ({ u with roam := { u.roam with
        marks := u.roam.marks.put h r, ctrs := { u.roam.ctrs with declined := bump u.roam.ctrs.declined } } } : State).ended)
    ∧ (st.state = .unattached →
      join = .next ({ ((heard.setStation h ({ st with
          state := .attached, current := some r, linger := none
          standing := s.standingOf { st with current := some r } } : Station).rederive).modRadio r
          (fun x => { x with stations := x.stations + 1 })) with
        roam := { s.roam with marks := s.roam.marks.del h } } : State).ended)
    ∧ (∀ x y ctx, st.state = .handoff → st.current = some x → st.target = some y → s.roam.ctxs.find h = some ctx → x ≠ y →
      (r = y → join = .next heard.ended)
      ∧ (r ≠ x → r ≠ y → join = .next ({ heard.setStation h { st with target := some r } with
          roam := { s.roam with
            ctxs := s.roam.ctxs.put h { ctx with target := r }
            ctrs := { s.roam.ctrs with retargeted := bump s.roam.ctrs.retargeted } } } : State).ended)
      ∧ (r = x → s.portBusy x = true →
        let u := tell x 0x11 { heard with roam := { s.roam with ctxs := s.roam.ctxs.del h } }
        let pingPong := decide (elapsed now ctx.start ≤ s.roam.settings.windowS * 1000000)
        let damps := pingPong && decide (s.roam.settings.threshold ≤ st.pingPong + 1)
        join = .next ({ u with
          stations := u.stations.put h { st with
            previous := some y, lastRoam := some now, target := none, state := .attached
            pingPong := if damps then 0 else if pingPong then st.pingPong + 1 else st.pingPong
            damped := if damps then some (now + usec (s.roam.settings.dampingS * 1000000)) else st.damped }
          roam := { u.roam with
            marks := u.roam.marks.put h x
            ctrs := { u.roam.ctrs with
              cancelled := bump u.roam.ctrs.cancelled
              damped := if damps then bump u.roam.ctrs.damped else u.roam.ctrs.damped } } } : State).ended)
      ∧ (r = y → part = .next ({ ((heard.setStation h { st with
            state := .unattached, current := none, target := none, linger := linger }).modRadio x
            (fun q => { q with stations := q.stations - 1 })) with
          roam := { s.roam with
            ctxs := s.roam.ctxs.del h, marks := s.roam.marks.put h x
            ctrs := { s.roam.ctrs with endedByTargetPart := bump s.roam.ctrs.endedByTargetPart } } } : State).ended)
      ∧ (r ≠ x → s.noQuarantine .serviceUnexpected r = true →
        let error := fun bytes => Host.Outcome.next (heard.faulted (anError .serviceUnexpected (some r) bytes) r).ended
        (r ≠ y → part = error (serviceBytes r a 0x02 []))
        ∧ ∀ n, exec (.release p radio a n) s = error (serviceBytes r a 0x03 (be 2 n.toNat))))
    ∧ (st.state ≠ .handoff → ∀ n,
      (s.roam.marks.find h = some r → exec (.release p radio a n) s = .next ({ heard with roam := { s.roam with
        marks := s.roam.marks.del h
        ctrs := { s.roam.ctrs with strayReleases := bump s.roam.ctrs.strayReleases } } } : State).ended)
      ∧ (s.roam.marks.find h ≠ some r → s.noQuarantine .lateRelease r = true →
        exec (.release p radio a n) s = .next (heard.faulted { anError .lateRelease (some r)
          (serviceBytes r a 0x03 (be 2 n.toNat)) with handle := some h } r).ended)))
  ∧ ∀ (s : State) (h y : Nat) (st : Station), s.station h = some st →
    let back := ∃ t, st.previous = some y ∧ st.lastRoam = some t
      ∧ elapsed s.venueTime t ≤ s.roam.settings.windowS * 1000000
    (¬ back → pingPongAtCompletion h y s = s.setStation h { st with pingPong := 0 })
    ∧ (back → st.pingPong + 1 < s.roam.settings.threshold →
      pingPongAtCompletion h y s = s.setStation h { st with pingPong := st.pingPong + 1 })
    ∧ (back → s.roam.settings.threshold ≤ st.pingPong + 1 →
      pingPongAtCompletion h y s = (s.setStation h { st with
        pingPong := 0, damped := some (s.venueTime + usec (s.roam.settings.dampingS * 1000000)) }).modRoamCtrs
        (fun k => { k with damped := bump k.damped }))

/-- A handoff completes (R33 to R35), here with no subscription: a RELEASE or a PART from the old radio, or the detach timer, leaves
the record ATTACHED to its target, with the old radio as its previous one and now as its last roam, its standing that of the new
zone, and its context dropped; each counts its own counter, and the timer raises HANDOFF_TIMEOUT where DETACH had been sent. With an
empty hold queue nothing drains; with one frame held, here while the target's port is sending, the frame is offered to the target in
the record's class: accepted it leaves the queue, declined it stays and the station joins the drain list (R28). A drain of any
ATTACHED record with frames held does the same frame by frame (R28). A transmit completion serves the drain list from head to tail,
one drain after another (R29, R57), here with no delivery stalled and, for every station listed, its radio's port sending; the
arbiters run then (log entries 7 and 23). -/
def Obligations.HandoffsComplete : Prop :=
  let stops := fun (h : Nat) (s : State) => { s with roam := { s.roam with
    drain := if h ∈ s.roam.drain then s.roam.drain else s.roam.drain ++ [h] } }
  let leaves := fun (h : Nat) (s : State) => { s with roam := { s.roam with
    drain := s.roam.drain.filter (fun k => decide (k ≠ h)) } }
  let holds := fun (h : Nat) (fs : List Frame) (s : State) => s.modStation h (fun st => { st with hold := fs })
  (∀ (s : State) (h : Fin 8192) (a : Addr) (x : Byte) (y : Nat) (st : Station) (ctx : RoamCtx), s.Between →
    s.lookup a = some h.val → s.station h.val = some st → noStation a = false →
    st.state = .handoff → st.current = some x.toNat → st.target = some y → st.sub = none →
    s.roam.ctxs.find h.val = some ctx → ctx.old = x.toNat → ctx.target = y →
    let moved := fun (s v : State) (m : RoamCtrs) (st' : Station) => v = { s with
          stations := s.stations.put h.val st'
          radios := ((s.modRadio x.toNat (fun r => { r with stations := r.stations - 1 })).modRadio y
            (fun r => { r with stations := r.stations + 1 })).radios
          roam := { s.roam with ctxs := s.roam.ctxs.del h.val, ctrs := { m with damped := v.roam.ctrs.damped } } }
      ∧ st'.addr = st.addr ∧ st'.state = .attached ∧ st'.current = some y ∧ st'.target = none
      ∧ st'.previous = some x.toNat ∧ st'.lastRoam = some s.venueTime ∧ st'.hold = st.hold ∧ st'.sub = none
      ∧ st'.binding = st.binding ∧ st'.pinned = st.pinned ∧ st'.egress = st.egress ∧ st'.linger = st.linger
      ∧ st'.standing = s.standingOf { st with current := some y }
    let completed := fun (s v : State) (m : RoamCtrs) => ∃ st', moved s v m st'
    let drained := fun (f : Frame) (s v : State) (m : RoamCtrs) => ∃ w st', moved s w m st'
      ∧ (∀ u, offer .declinable y st'.cls f w = (.accepted, u) → v.ended = (leaves h.val (holds h.val [] u)).ended)
      ∧ ∀ u, offer .declinable y st'.cls f w = (.declined, u) → v.ended = (stops h.val u).ended
    let m := s.roam.ctrs
    let ends := fun done : State → State → RoamCtrs → Prop =>
      (∀ (p : Fin 4) (n : Half), s.Passes p.val x.toNat →
        (∃ v, exec (.release p x a n) s = .next v.ended ∧ done (s.portHeard p.val) v { m with
          byRelease := bump m.byRelease, radioDiscarded := bumpBy m.radioDiscarded n.toNat })
        ∧ ∃ v, exec (.part p x a) s = .next v.ended
          ∧ done (s.portHeard p.val) v { m with byPart := bump m.byPart })
      ∧ (reached s.venueTime ctx.deadline = true → s.noQuarantine .handoffTimeout x.toNat = true →
        ∃ v, exec (.detachTimerExpiry h) s = .next (if ctx.sent
            then v.faulted { cls := .handoffTimeout, radio := some x.toNat, handle := some h.val } x.toNat else v).ended
          ∧ done s v { m with byTimeout := bump m.byTimeout })
    (st.hold = [] → ends completed)
    ∧ ∀ f, st.hold = [f] → s.inService y = true → s.portBusy y = true → ends (drained f))
  ∧ (∀ (s u : State) (h r : Nat) (st : Station) (f : Frame) (fs : List Frame), s.station h = some st →
    st.state = .attached → st.current = some r → st.hold = f :: fs →
    (offer .declinable r st.cls f s = (.declined, u) → drain h s = stops h u)
    ∧ (offer .declinable r st.cls f s = (.accepted, u) →
      (fs = [] → drain h s = leaves h (holds h [] u)) ∧ (fs ≠ [] → drain h s = drain h (holds h fs u))))
  ∧ ∀ (s : State) (p : Fin 4) (r : Nat) (c : Cls) (b : Burst) (bs : List Burst), s.Between →
    (s.port p.val).sending = some (r, c) → s.list r c = b :: bs → s.replay.stalled = [] →
    (∀ h ∈ s.roam.drain, ∀ st, s.station h = some st → ∀ y, st.current = some y → s.portBusy y = true) →
    let n := b.frames.length
    let s1 := b.frames.foldl (fun s f => lowerEgress f.handle s) (s.setList r c bs)
    let s2 := { s1 with egress := { s1.egress with
      buffers := s.egress.buffers - n, bursts := s.egress.bursts - 1 } }
    let k := (s.port p.val).ctrs
    let s3 := s2.setPort p.val { s.port p.val with
      sending := none
      wire := []
      ctrs := { k with
        sent := bumpBy k.sent n
        burstsSent := bump k.burstsSent
        framesSent := bumpBy k.framesSent n
        bytesSent := bumpBy k.bytesSent ((b.frames.map (fun f => f.payload.length)).sum) } }
    let runs := fun q => q = p.val ∨ (headEligible c bs = true ∧ (s.radio r).cfg.map RadioCfg.port = some q)
    exec (.transmitCompletion p) s = .next (([0, 1, 2, 3].filter (fun q => decide (runs q))).foldl (fun s q => runArbiter q s)
      (s.roam.drain.foldl (fun s h => drain h s) s3)).ended

/-- What SCAN and CHECKIN do at their arrival (R93, R117), step by step. A SCAN whose code is 0 or whose direction is neither
is dropped with CARRIER_MALFORMED; one that the radio's role does not allow (the table of R93) is dropped with GATE_ROLE; an
ENTRY scan while the event is closed is answered CLOSED, and one that finds 64 work items RETRY. A CHECKIN whose code is 0 or
whose station address is no station's is dropped with CARRIER_MALFORMED, one of an unknown station is a stray, one of a radio
that is neither the current nor the target one is dropped with SERVICE_UNEXPECTED, and one that finds 64 work items is
answered RETRY. An answer is a VERDICT or a CHECKIN_REPLY to the radio, in the ADMISSION class, here while its port is
sending; an error is here one whose strike, if it charges one, stays below the threshold. Otherwise, at an idle engine (R90,
R92), the work item joins the scan queue, takes fetch slot 0 and sends its fetch, with the ways to check; nothing else
changes. Read by inference: the bytes of a frame an error keeps (log entry 12), that the scans counter counts what passes step
1 (log entry 23), and the order in which waiting work takes fetch slots (log entry 25). The serial number of a work item is
the model's (log entry 18). -/
def Obligations.ScansAndCheckinsFetchTheirBucket : Prop :=
  (∀ (role : Role) (d : Direction), role.allows d = true ↔
    (d = .entry ∧ (role = .gateIn ∨ role = .gateBoth)) ∨ (d = .exit ∧ (role = .gateOut ∨ role = .gateBoth)))
  ∧ ∀ (s : State) (p : Fin 4) (radio : Byte) (a : Addr) (code : Word64) (c : RadioCfg), s.Between →
    s.Passes p.val radio.toNat → (s.radio radio.toNat).cfg = some c →
    let r := radio.toNat
    let b := credBucket code
    let heard := s.portHeard p.val
    let k := s.adm.ctrs
    let queued := fun (kind : ItemKind) (k : AdmCtrs) => ({ heard.ended with
      adm := { s.adm with
        items := [{ serial := s.adm.serial, kind := kind, code := code, bucket := b, radio := r, zone := c.zone,
                    station := a, time := s.venueTime, stage := .fetching 0 }]
        serial := s.adm.serial + 1
        ctrs := { k with fetches := bump k.fetches } }
      mem := s.mem.send (.fetch b (s.checkSet (positionsFrom b 1)) (.item s.adm.serial)) } : State)
    let counted := fun (k : AdmCtrs) => ({ heard with adm := { s.adm with ctrs := k } } : State)
    let error := fun (c : ErrClass) (code : Byte) (body : List Byte) (s : State) =>
      (s.faulted (anError c (some r) (serviceBytes r a code body)) r).ended
    let answer := fun (code : Byte) (body : List Byte) (s : State) =>
      (offer .droppable r .admission (serviceFrame a code body) s).2.ended
    (∀ (dir scanner : Byte),
      let scan := exec (.scan p radio a code dir scanner) s
      let body := be 8 code.toNat ++ [dir, scanner]
      let k1 := { k with scans := bump k.scans }
      let verdict := fun (n : Nat) => answer 0x12 (scanner :: (be 1 n ++ be 8 code.toNat ++ be 8 0))
      (code = 0 ∨ (dir ≠ 1 ∧ dir ≠ 2) → s.noQuarantine .carrierMalformed r = true →
        scan = .next (error .carrierMalformed 0x05 body heard))
      ∧ ∀ d, (dir = 1 ∧ d = .entry ∨ dir = 2 ∧ d = .exit) → code ≠ 0 →
        (c.role.allows d = false → s.noQuarantine .gateRole r = true →
          scan = .next (error .gateRole 0x05 body (counted k1)))
        ∧ (c.role.allows d = true →
          (d = .entry → s.adm.closed = true → s.portBusy r = true → scan = .next (verdict 11 (counted { k1 with
            verdicts := { k.verdicts with closed := bump k.verdicts.closed } })))
          ∧ (d = .exit ∨ s.adm.closed = false →
            (64 ≤ s.adm.items.length → s.portBusy r = true → scan = .next (verdict 10 (counted { k1 with
              queueFull := bump k.queueFull, verdicts := { k.verdicts with retry := bump k.verdicts.retry } })))
            ∧ (s.AdmissionIdle → scan = .next (queued (.scan d scanner) k1)))))
    ∧ (let checkin := exec (.checkin p radio a code) s
      let k1 := { k with checkins := bump k.checkins }
      (code = 0 ∨ noStation a = true → s.noQuarantine .carrierMalformed r = true →
        checkin = .next (error .carrierMalformed 0x06 (be 8 code.toNat) heard))
      ∧ (code ≠ 0 → noStation a = false →
        (s.lookup a = none →
          checkin = .next ((counted k1).modStationCtrs (fun k => { k with stray := bump k.stray })).ended)
        ∧ ∀ h st, s.lookup a = some h → s.station h = some st →
          (st.current ≠ some r → st.target ≠ some r → s.noQuarantine .serviceUnexpected r = true →
            checkin = .next (error .serviceUnexpected 0x06 (be 8 code.toNat) (counted k1)))
          ∧ (st.current = some r ∨ st.target = some r →
            (64 ≤ s.adm.items.length → s.portBusy r = true → checkin = .next (answer 0x13 (be 1 6) (counted { k1 with
              checkinsFull := bump k.checkinsFull, ciRetry := bump k.ciRetry })))
            ∧ (s.AdmissionIdle → checkin = .next (queued (.checkin h) k1)))))

/-- CUE is refused or decided. The refusals (R144): a CUE with a station address that is no station's, a reel above 15, a mode
that is none of the three, a start above 1,023 or a LOOP window code above 3 is dropped with CARRIER_MALFORMED; one of an
unknown station is a stray; one of a radio that is neither the current nor the target one is dropped with SERVICE_UNEXPECTED;
an error is here one whose strike, if it charges one, stays below the threshold. The decision (R145, R147, R150, R151, R153),
here while the radio's port is sending: NOT_ENTITLED, NO_REEL and EMPTY change no subscription, in any mode; a FOLLOW CUE on
an empty reel makes an IDLE subscription; a CUE on a reel with READY segments, in any of the three modes, starts at the
newest, or at the first READY sequence at or above the newest less the segments back, and makes a delivery of it at the radio,
ridden by the station, whose first chunk is read. A subscription held before, IDLE or riding a delivery of its own, is
removed: REPLACED; the delivery is abandoned, and the radio's subscriber count falls and rises by 1. The CUE_REPLY carries the
result, the reel and the start. The bytes of a frame an error keeps are read by inference (log entry 12); the number of the
delivery is the model's (log entry 20). -/
def Obligations.CuesAreDecided : Prop :=
  (∀ (s : State) (p : Fin 4) (radio : Byte) (a : Addr) (reel mode window : Byte) (start : Half), s.Between →
    s.Passes p.val radio.toNat →
    let r := radio.toNat
    let heard := s.portHeard p.val
    let cue := exec (.cue p radio a reel mode start window) s
    let error := fun c : ErrClass => Host.Outcome.next
      (heard.faulted (anError c (some r) (serviceBytes r a 0x07 ([reel, mode] ++ be 2 start.toNat ++ [window]))) r).ended
    let bad := noStation a = true ∨ 15 < reel.toNat ∨ (mode ≠ 1 ∧ mode ≠ 2 ∧ mode ≠ 3) ∨ 1023 < start.toNat
      ∨ (mode = 3 ∧ 3 < window.toNat)
    (bad → s.noQuarantine .carrierMalformed r = true → cue = error .carrierMalformed)
    ∧ (¬ bad →
      (s.lookup a = none → cue = .next (heard.modStationCtrs (fun k => { k with stray := bump k.stray })).ended)
      ∧ ∀ h st, s.lookup a = some h → s.station h = some st → st.current ≠ some r → st.target ≠ some r →
        s.noQuarantine .serviceUnexpected r = true → cue = error .serviceUnexpected))
  ∧ ∀ (s : State) (p : Fin 4) (radio : Byte) (a : Addr) (reel window : Byte) (start : Half) (h : Nat) (st : Station), s.Between →
    s.Passes p.val radio.toNat → s.portBusy radio.toNat = true → noStation a = false → reel.toNat ≤ 15 → start.toNat ≤ 1023 →
    s.lookup a = some h → s.station h = some st → st.current = some radio.toNat ∨ st.target = some radio.toNat →
    let r := radio.toNat
    let heard := s.portHeard p.val
    let answer := fun (n : Nat) (seq : Option Nat) (s : State) => (offer .droppable r .admission (serviceFrame a 0x14 (be 1 n ++ be 1 reel.toNat ++ optField 4 seq)) s).2
    let cue := fun (mode : Byte) => exec (.cue p radio a reel mode start window) s
    let modes := fun mode : Byte => mode = 1 ∨ mode = 2 ∨ (mode = 3 ∧ window.toNat ≤ 3)
    let subscribed := fun (b : Sub) (f : Radio → Radio) => (heard.setStation h { st with sub := some b }).modRadio r f
    let more := fun x : Radio => { x with subscribers := x.subscribers + 1 }
    let same := fun x : Radio => { x with subscribers := x.subscribers - 1 + 1 }
    let accepted := fun k : ReplayCtrs => { k with cueAccepted := bump k.cueAccepted }
    let replaced := fun k : ReplayCtrs => { k with cueReplaced := bump k.cueReplaced, removed := bump k.removed }
    (¬ (st.state = .attached ∧ st.entitled = true) → ∀ mode, modes mode → cue mode = .next (answer 3 none
      (heard.modReplayCtrs (fun k => { k with cueNotEntitled := bump k.cueNotEntitled }))).ended)
    ∧ (st.state = .attached → st.entitled = true → st.current = some radio.toNat →
      ((s.reel reel.toNat).cfg = none → ∀ mode, modes mode → cue mode = .next (answer 4 none
        (heard.modReplayCtrs (fun k => { k with cueNoReel := bump k.cueNoReel }))).ended)
      ∧ ∀ c, (s.reel reel.toNat).cfg = some c →
        (c.newest = none → ∀ mode, modes mode → mode ≠ 2 → cue mode = .next (answer 5 none
          (heard.modReplayCtrs (fun k => { k with cueEmpty := bump k.cueEmpty }))).ended)
        ∧ (c.newest = none →
          let idle : Sub := { reel := reel.toNat, mode := .follow, cursor := none, window := none, rider := some .idle }
          (st.sub = none → cue 2 = .next (answer 1 none ((subscribed idle more).modReplayCtrs accepted)).ended)
          ∧ ∀ old, st.sub = some old → old.rider = some .idle →
            cue 2 = .next (answer 2 none ((subscribed idle same).modReplayCtrs replaced)).ended)
        ∧ ∀ (n o m slot : Nat) (mode : Byte) (kind : Mode) (win : Option (Nat × Nat)), c.newest = some n → c.oldest = some o →
          (mode = 1 ∧ kind = .one ∧ win = none ∨ mode = 2 ∧ kind = .follow ∧ win = none
            ∨ mode = 3 ∧ kind = .loop ∧ 8 ≤ c.count
              ∧ ∃ size, [6, 12, 24, 48][window.toNat]? = some size ∧ win = some (m, min size c.count)) →
          let ready := fun k => (s.readySlot reel.toNat k).isSome = true
          s.readySlot reel.toNat m = some slot → o ≤ m →
          (if start = 0 then m = n else n - start.toNat ≤ m ∧ ∀ k, ready k → n - start.toNat ≤ k → m ≤ k) →
          s.waitList r = [] →
          let d := s.replay.nextId
          let v : Delivery := {
            radio := r, reel := (s.slot slot).reel.getD 0, slot := slot, seq := m,
            generation := (s.slot slot).generation, length := (s.slot slot).length.getD 0, riders := [h] }
          let rides := fun (res : Nat) (f : Radio → Radio) (k : ReplayCtrs → ReplayCtrs) (stalled : List Nat) =>
            let s1 := subscribed { reel := reel.toNat, mode := kind, cursor := some m, window := win, rider := some (.riding d) } f
            let k1 := k s.replay.ctrs
            cue mode = .next (answer res (some m) { s1 with
              replay := { s1.replay with
                deliveries := [(d, v)], nextId := d + 1, stalled := stalled
                ctrs := { k1 with created := bump k1.created, chunkReads := bump k1.chunkReads } }
              mem := s.mem.send (.chunk slot 0 (min 16384 v.length) d) }).ended
          (st.sub = none → s.replay.deliveries = [] → rides 1 more accepted s.replay.stalled)
          ∧ (∀ old, st.sub = some old → old.rider = some .idle → s.replay.deliveries = [] →
            rides 2 same replaced s.replay.stalled)
          ∧ ∀ old q x, st.sub = some old → old.rider = some (.riding q) → s.replay.deliveries = [(q, x)] → x.radio = r →
            x.riders = [h] → s.replay.waiting = [] →
            rides 2 (fun y => { same y with rep := { y.rep with abandoned := bump y.rep.abandoned } }) replaced
              (s.replay.stalled.filter (fun k => decide (k ≠ q))))

/-- HALT (R146, R147) removes the subscription of the station, here PAUSED or IDLE, and counts; with none it counts only. -/
def Obligations.HaltsRemoveSubscriptions : Prop :=
  ∀ (s : State) (p : Fin 4) (radio : Byte) (a : Addr) (h : Nat) (st : Station), s.Between → s.Passes p.val radio.toNat →
    noStation a = false → s.lookup a = some h → s.station h = some st →
    st.current = some radio.toNat ∨ st.target = some radio.toNat →
    let heard := s.portHeard p.val
    let halted := fun s : State => s.modReplayCtrs (fun k => { k with removed := bump k.removed, halts := bump k.halts })
    (∀ b, st.sub = some b → b.rider = none →
      exec (.halt p radio a) s = .next (halted (heard.setStation h { st with sub := none })).ended)
    ∧ (∀ b x, st.sub = some b → b.rider = some .idle → st.current = some x →
      exec (.halt p radio a) s = .next (halted ((heard.setStation h { st with sub := none }).modRadio x
        (fun r => { r with subscribers := r.subscribers - 1 }))).ended)
    ∧ (st.sub = none → exec (.halt p radio a) s
      = .next (heard.modReplayCtrs (fun k => { k with haltsNoSub := bump k.haltsNoSub })).ended)

/-! ### Timers -/

/-- What a timer that is due does: LINGER removes the record, here UNATTACHED with nothing queued and no subscription (R8, R9);
DAMPING clears its field (R41); SEAL closes every OPEN burst past its deadline (R49) and WAKE refills the radio and clears its
wake time (R71), both here while the radio's port is sending. -/
def Obligations.TimersExpire : Prop :=
  ∀ (s : State), s.Between →
    (∀ (h : Fin 8192) st d, s.station h.val = some st → st.linger = some d → reached s.venueTime d = true →
      st.state = .unattached → st.current = none → st.sub = none → s.egress.lists = [] →
      exec (.lingerExpiry h) s = .next { s.ended with
        stations := s.stations.del h.val
        stationCtrs := { s.stationCtrs with
          lingeredOut := bump s.stationCtrs.lingeredOut
          heldDiscarded := bumpBy s.stationCtrs.heldDiscarded st.hold.length }
        roam := { s.roam with drain := s.roam.drain.filter (· ≠ h.val), marks := s.roam.marks.del h.val } })
    ∧ (∀ (h : Fin 8192) st d, s.station h.val = some st → st.damped = some d → reached s.venueTime d = true →
      exec (.dampingExpiry h) s = .next (s.setStation h.val { st with damped := none }).ended)
    ∧ (∀ r : Fin 256, s.sealDue r.val = true → s.portBusy r.val = true →
      ∃ t : State, exec (.sealTimerExpiry r) s = .next t
        ∧ (∀ c, t.list r.val c = (s.list r.val c).map (fun b => match b.sealAt with
            | some d => if b.state = .opened ∧ reached s.venueTime d = true then { b with state := .closed, sealAt := none }
              else b
            | none => b))
        ∧ (∀ q, q ≠ r.val → t.lists q = s.lists q)
        ∧ t = { s.ended with egress := { s.egress with lists := t.egress.lists } })
    ∧ ∀ (r : Fin 256) d, (s.radio r.val).wake = some d → reached s.venueTime d = true → s.portBusy r.val = true →
      exec (.wakeTimerExpiry r) s
        = .next (s.modRadio r.val (fun x => { s.gov.refill s.venueTime x with wake := none })).ended

/-- The release ramp (R73, R75, R76): when surge stops being asserted, by the line that falls or by SURGE_SET that clears the
flag with the line low (R74), or a stage timer expires, surge moves to the first later stage whose percentage lies below the
one in force, with its timer, and is OFF where there is none; here while all four ports are sending. SURGE_CHANGED is sent,
and where p changes every radio present is refilled under the old p, its wake time is set anew and the change counted; nothing
else changes but the line or the flag, and SURGE_SET is answered DONE with the flag, the line, the surge state, the stage and
p as they then stand. Which radios are woken anew is read by inference (log entry 26); that p has one byte in the notice and
in the reply is the model's (log entry 14), and so is that SURGE_SET's notice is sent before its reply (log entry 42). -/
def Obligations.RampStepsThroughStages : Prop :=
  ∀ (s : State), s.Between → s.allBusy = true →
    let ctx := s.gov.activeCtx
    let lead := fun (below : Nat) (ks : List Nat) =>
      match ks.find? (fun k => decide (percent (ctx.stage k).code < below)) with
      | some k => Surge.ramping k (s.venueTime + usec ((ctx.stage k).dur.toNat * 1000))
      | none => Surge.off
    let moved := fun (x : Surge) (s : State) =>
      let s1 := surgeNotice { s with gov := { s.gov with surge := x } }
      if s1.gov.throttle = s.gov.throttle then s1
      else (s1.modPresentRadios (fun r => s1.gov.rewake s.venueTime (s.gov.refill s.venueTime r))).modGovCtrs
        (fun k => { k with throttleChanges := bump k.throttleChanges })
    (∀ k d, s.gov.surge = .ramping k d → reached s.venueTime d = true → 1 ≤ k → k ≤ 3 →
      exec .stageTimerExpiry s = .next
        (moved (lead (percent (ctx.stage k).code) (if k = 1 then [2, 3] else if k = 2 then [3] else [])) s).ended)
    ∧ (s.gov.surge = .on → s.surgeLine = true → s.gov.surgeFlag = false →
      exec (.surgeLineChange false) s = .next
        (moved (lead (percent ctx.surgeCode) [1, 2, 3]) { s with surgeLine := false }).ended)
    ∧ (s.gov.surge = .on → s.surgeLine = false → s.gov.surgeFlag = true → ∀ src tag, s.RunsAtOnce src →
      let x := lead (percent ctx.surgeCode) [1, 2, 3]
      let v := moved x { s with gov := { s.gov with surgeFlag := false } }
      exec (.surgeSet src tag 0) s = .next (v.concluded src 32 tag .done (flagByte false ++ flagByte false
        ++ (match x with
          | .ramping k _ => be 1 3 ++ optField 1 (some k)
          | _ => be 1 1 ++ optField 1 none)
        ++ be 1 v.gov.throttle)))

/-! ### Completions -/

/-- The transmit completion of a burst (R15, R56), here with nothing waiting to drain or stalled: the burst leaves the head of its
list, its buffers and its record are freed, each of its stations' egress counts falls, the port counts what it sent and is free,
and its arbiter runs (and that of the port the radio is on now, where that is another and the next head is eligible). The run of
an arbiter: a busy port grants nothing (R53); the radios on the port that can dispatch (R50) are asked in increasing order from
above the pointer, wrapping (R52); each is refilled, and is granted the first class allowed in the order of its eligible heads
(R69), whose head becomes TRANSMITTING and is charged (R54, R65), or is withheld; the waiting classes and the wake time of a
radio follow R70. THE MODEL'S CHOICES: a completion of a port that is not sending changes nothing (log entry 9); the arbiters asked in
an event run once each, in order of port number, after its announcements (log entry 7). That the port's frames-sent counter rises at
the completion is read by inference (log entry 23). -/
def Obligations.PortsCompleteAndDispatch : Prop :=
  (∀ (s : State) (p : Fin 4) (r : Nat) (c : Cls) (b : Burst) (bs : List Burst), s.Between →
    (s.port p.val).sending = some (r, c) → s.list r c = b :: bs → s.roam.drain = [] → s.replay.stalled = [] →
    let n := b.frames.length
    let s1 := b.frames.foldl (fun s f => lowerEgress f.handle s) (s.setList r c bs)
    let s2 := { s1 with egress := { s1.egress with
      buffers := s.egress.buffers - n, bursts := s.egress.bursts - 1 } }
    let k := (s.port p.val).ctrs
    let s3 := s2.setPort p.val { s.port p.val with
      sending := none
      wire := []
      ctrs := { k with
        sent := bumpBy k.sent n
        burstsSent := bump k.burstsSent
        framesSent := bumpBy k.framesSent n
        bytesSent := bumpBy k.bytesSent ((b.frames.map (fun f => f.payload.length)).sum) } }
    let runs := fun q => q = p.val ∨ (headEligible c bs = true ∧ (s.radio r).cfg.map RadioCfg.port = some q)
    exec (.transmitCompletion p) s
      = .next (([0, 1, 2, 3].filter (fun q => decide (runs q))).foldl (fun s q => runArbiter q s) s3).ended)
  ∧ (∀ (s : State) (p : Fin 4), s.Between → (s.port p.val).sending = none →
    exec (.transmitCompletion p) s = .next s.ended)
  ∧ (∀ (s : State) (p : Nat),
    ((s.port p).sending.isSome = true → runArbiter p s = s)
    ∧ ((s.port p).sending = none → runArbiter p s = arbiterOver p (arbiterOrder p s) s)
    ∧ (Table.sorted s.radios = true →
      (∀ r, r ∈ arbiterOrder p s ↔ (s.radio r).cfg.map RadioCfg.port = some p ∧ s.canDispatch r = true)
      ∧ ((s.port p).pointer = none → (arbiterOrder p s).Pairwise (fun a b => a < b))
      ∧ ∀ k, (s.port p).pointer = some k →
        (arbiterOrder p s).Pairwise (fun a b => (k < a ∧ ¬ k < b) ∨ ((k < a ↔ k < b) ∧ a < b)))
    ∧ (∀ r, s.canDispatch r = true ↔ (s.radio r).state = .inService ∧ (∀ c, ∀ b ∈ s.list r c, b.isTransmitting = false)
      ∧ ∃ c b bs, s.list r c = b :: bs ∧ (b.state = .closed ∨ (b.state = .opened ∧ c = .admission)))
    ∧ ∀ r rs, s.inService r = true →
      let named := Cls.all.filter (fun c => headEligible c (s.list r c))
      let x := s.gov.refill s.venueTime (s.radio r)
      (∀ c b bs, named.find? (s.gov.allows x) = some c → s.list r c = b :: bs →
        arbiterOver p (r :: rs) s = ((s.setList r c ({ b with state := .transmitting p, sealAt := none } :: bs)).setRadio r
          (s.gov.setWaiting s.venueTime (named.filter (fun d => decide (d ≠ c))) (s.gov.charge c
            (b.frames.map (fun f => f.payload.length)).sum x))).setPort p
          { s.port p with pointer := some r, sending := some (r, c), wire := b.frames.map (Frame.wire r) })
      ∧ (named.find? (s.gov.allows x) = none → arbiterOver p (r :: rs) s = arbiterOver p rs (s.setRadio r
          (s.gov.setWaiting s.venueTime named { x with gov := { x.gov with withheld := bump x.gov.withheld } }))))
  ∧ ∀ (g : Governor) (now : Time) (classes : List Cls) (r : Radio),
    let set := classes.filter (fun c => decide (¬ (g.groupOf r).threshold c < r.credit))
    let t := g.setWaiting now classes r
    t = { r with waiting := set, wake := t.wake }
    ∧ (set = [] ∨ g.eff r = 0 → t.wake = none)
    ∧ (set ≠ [] → 0 < g.eff r → ∃ w c, t.wake = some (now + usec w) ∧ w ≤ 1000000 ∧ c ∈ set
      ∧ (∀ d ∈ set, (g.groupOf r).threshold c ≤ (g.groupOf r).threshold d)
      ∧ (let needed := ((g.groupOf r).threshold c + 1 - r.credit).toNat * 1000
        (w < 1000000 → needed ≤ w * g.eff r + r.remainder) ∧ ∀ v, v < w → v * g.eff r + r.remainder < needed))

/-- A radio leaves service (R20, R59, R61) where nothing waits, drains or is in handoff and nothing is delivered: by RADIO_STATE
to DISABLED (R19); by the strike that reaches the threshold (R179), here charged by a malformed frame, with the QUARANTINE
notice behind the ERROR notice; and as RADIO_RESET detaches it (R21), which leaves a QUARANTINED radio IN_SERVICE. Its stations are
UNATTACHED, the bursts it is not transmitting are discarded and counted, its waiting classes and wake time removed. A handoff in
which a lost radio takes part (R42), here of a station with nothing held and no subscription, completes on the target, ends on
the old radio with KEEP, or leaves the station UNATTACHED. The deliveries of a lost radio (R157), here where no other radio has a
waiting list, are abandoned and counted. Which counters a reset clears and keeps, the counter sections of chapters 4 and 9 say; that the new state
is numbered by R19's own list is the model's (log entry 40); the frame bytes and the radio of a malformed frame (log entries 12 and 27) are read by inference. -/
def Obligations.RadiosLeaveService : Prop :=
  (∀ (s : State) (radio : Byte), s.Undisturbed →
    let r := radio.toNat
    let n := (s.unsent r).length
    let out := fun (state : RadioState) (x : Radio) => { x with
      state := state, noted := false, stations := 0, subscribers := 0, waiting := [], wake := none
      drops := { x.drops with purge := bumpBy x.drops.purge n } }
    (∀ src tag, s.Ready src → (s.radio r).state = .inService →
      exec (.radioState src tag radio 2) s = .next ((s.withoutRadio r (out .disabled)).concluded src 7 tag .done []))
    ∧ (∀ src tag c, s.Ready src → (s.radio r).state ≠ .absent → (s.radio r).cfg = some c →
      ((s.radio r).state = .quarantined → s.portBusy r = true) →
      exec (.radioReset src tag radio) s = .next ((s.withoutRadio r (fun x => { x with
        state := if x.state = .disabled then .disabled else .inService
        stations := 0, subscribers := 0, strikes := 0, drops := {}, gov := {}, noted := false
        credit := (s.gov.activeCtx.group c.group).ceiling.toNat
        remainder := 0, lastRefill := s.venueTime, waiting := [], wake := none })).concluded src 8 tag .done []))
    ∧ ∀ (p : Fin 4) (rest : List Byte), s.Between → parseCarrier (radio :: rest) = none →
      s.charges .carrierMalformed r = true →
      let k := min ((s.radio r).strikes + 1) 255
      let hit := takeOccurrence (anError .carrierMalformed (some r) (radio :: rest)) (s.portHeard p.val)
      let told := notice .quarantine (be 1 r ++ be 1 1 ++ be 2 k ++ be 6 s.venueTime.toNat)
        (hit.withoutRadio r (fun x => { out .quarantined x with strikes := k }))
      s.err.threshold ≤ k → exec (.malformedCarrierFrame p (radio :: rest)) s
        = .next ({ told with err := { told.err with quarantines := bump told.err.quarantines } } : State).ended)
  ∧ (∀ (s : State) (lost h x y : Nat) (st : Station) (ctx : RoamCtx), s.ev.deferring = false → s.roam.ctxs = [(h, ctx)] →
    s.station h = some st → st.state = .handoff → st.current = some x → st.target = some y → x ≠ y → st.hold = [] →
    st.sub = none → lost = x ∨ lost = y →
    let other := if lost = x then y else x
    let t := resolveHandoffs lost s
    t.roam.ctxs = [] ∧ t.roam.ctrs.resolvedByLoss = bump s.roam.ctrs.resolvedByLoss ∧ (∀ e ∈ t.roam.marks, e.2 ≠ lost)
    ∧ (s.inService other = false → t = ({ s with
        stations := s.stations.put h { st with
          state := .unattached, current := none, target := none
          linger := if st.pinned then none else some (s.venueTime + usec (s.roam.settings.lingerS * 1000000)) }
        roam := { s.roam with
          ctxs := [], marks := s.roam.marks.filter (fun e => decide (e.2 ≠ lost)), ctrs := t.roam.ctrs } } : State).modRadio x
          (fun r => { r with stations := r.stations - 1 }))
    ∧ (s.inService other = true → lost = x → ∃ st', t.station h = some st' ∧ st'.state = .attached ∧ st'.current = some y
        ∧ st'.target = none ∧ st'.previous = some x ∧ st'.lastRoam = some s.venueTime
        ∧ st'.standing = s.standingOf { st with current := some y }
        ∧ t.uplink = s.uplink ∧ t.egress = s.egress ∧ t.err = s.err)
    ∧ (s.inService other = true → lost = y →
        let o := offer .droppable x .admission (serviceFrame st.addr 0x11 []) s
        t.station h = some ({ st with
          state := .attached, target := none, standing := s.standingOf st } : Station).rederive
        ∧ t.roam.marks.find h = some x ∧ t.egress = o.2.egress ∧ t.err = o.2.err
        ∧ t.roam.ctrs.lostMessages = (if o.1 = .accepted then s.roam.ctrs.lostMessages else bump s.roam.ctrs.lostMessages)))
  ∧ ∀ (s : State) (r : Nat), s.replay.deliveries ≠ [] → Table.sorted s.replay.deliveries = true →
    (∀ e ∈ s.replay.deliveries, e.2.radio = r) → (∀ e ∈ s.replay.waiting, e.1 = r) →
    loseDeliveries r s = { s.modRadio r (fun x => { x with rep := { x.rep with
        abandoned := bumpBy x.rep.abandoned s.replay.deliveries.length } }) with
      replay := { s.replay with
        deliveries := [], waiting := s.replay.waiting.del r
        stalled := s.replay.stalled.filter (fun d => decide (∀ e ∈ s.replay.deliveries, e.1 ≠ d)) } }

/-- What a scan's evaluation decides (R99, R100): ENTRY outside the permit set is WRONG_GATE; ENTRY and EXIT inside it go by the
entry's state; every one sets the last gate and time, and only ADMIT the first. An EXIT keeps re-entries used. -/
def Obligations.ScansAreEvaluatedByState : Prop :=
  ∀ (s : State) (p zone : Nat) (g : GateTime),
    let e := s.entry p
    let r := { s.cred p with last := some g }
    (permits r.permit zone = false → evaluateEntry p zone g s = ⟨.wrongGate, r, s⟩)
    ∧ (permits r.permit zone = true →
      (e.state = .issued → evaluateEntry p zone g s = ⟨.admitIn, { r with first := some g },
        (s.setEntry p { e with state := .admitted }).setOccupancy e.home (s.occupancy e.home + 1)⟩)
      ∧ (e.state = .admitted → evaluateEntry p zone g s = ⟨.duplicate, r, s⟩)
      ∧ (e.state = .exited → e.used < r.allowance → evaluateEntry p zone g s = ⟨.readmit, r,
        (s.setEntry p { e with state := .admitted, used := e.used + 1 }).setOccupancy e.home (s.occupancy e.home + 1)⟩)
      ∧ (e.state = .exited → r.allowance ≤ e.used → evaluateEntry p zone g s = ⟨.duplicate, r, s⟩)
      ∧ (e.state = .void → evaluateEntry p zone g s = ⟨.void, r, s⟩))
    ∧ (e.state = .admitted → e.bound = none → evaluateExit p g s = ⟨.exitOk, r,
        (s.setEntry p { e with state := .exited }).setOccupancy e.home (s.occupancy e.home - 1)⟩)
    ∧ (e.state = .issued ∨ e.state = .exited → evaluateExit p g s = ⟨.notInside, r, s⟩)
    ∧ (e.state = .void → evaluateExit p g s = ⟨.void, r, s⟩)

/-- A scan is decided as its fetch completes. First the checks (R87, R165): each record of the check set that fails makes its
way faulty and raises RECORD_FAULT, is counted at the controller and at the engine, and nothing else changes but what the
occurrences do; bytes that a disturbance changed are read as they then are. Then the decision (R98, R99, R100, R102), here
while the radio's port is sending: an ENTRY scan at a closed event is CLOSED; a match that is FAULT or UNKNOWN is answered so;
these three end the item, here the only one, with no directive operation and no stride. An ENTRY scan of a credential found is
WRONG_GATE without the permit of the item's zone, ADMIT of an ISSUED entry, READMIT of an EXITED one with re-entries left,
else DUPLICATE with the gate and time of the record's first entry, and VOID of a VOID one; an EXIT scan is EXIT_OK of an
ADMITTED one, which leaves and gives up its binding (R88, R89), NOT_INSIDE of an ISSUED or EXITED one and VOID of a VOID one.
The entry and the occupancy change as the verdict says, it is offered and counted, and the record is written back with its
last gate and, at ADMIT, its first one (R101). The write-back's completion writes the record's 64 bytes and the item leaves
(here the last one, with no directive and no stride). Which bit of a permit set is a zone's (log entry 13), that the errors
are taken in order of position (log entry 28) and that a completion grants a waiting request before the new write-back is sent
(log entry 24) are read by inference. -/
def Obligations.ScanCompletionsAdmit : Prop :=
  (∀ (s : State) (check : List Nat),
    let t := s.checked check
    let n := (check.filter (fun p => !s.credPasses p)).length
    let e := s.errState .recordFault
    (∀ p, t.entry p = if p ∈ check ∧ s.credPasses p = false then { s.entry p with faulty := true } else s.entry p)
    ∧ (n ≠ 0 → t.errState .recordFault = { e with status := true, count := bumpBy e.count n })
    ∧ (∀ c, c ≠ .recordFault → t.errState c = s.errState c)
    ∧ t = { s with
        adm := { s.adm with
          map := t.adm.map, ctrs := { s.adm.ctrs with faultyFound := bumpBy s.adm.ctrs.faultyFound n } }
        mem := { s.mem with ctrs := { s.mem.ctrs with checkFailures := bumpBy s.mem.ctrs.checkFailures n } }
        err := { s.err with
          classes := t.err.classes, first := t.err.first, overflow := t.err.overflow, entries := t.err.entries }
        uplink := { s.uplink with tx := t.uplink.tx } })
  ∧ (∀ (s : State) (cells : List Host.Cell) (req : Request) (m : Bool), s.mem.transfer = some ⟨req, m⟩ →
    let spoilt : State := { s with mem := { s.mem with
      cred := Memory.spoil s.mem.cred (cells.filter (fun c => decide (c.1 < 4194304))) } }
    (req.kind = .fetch → exec (.credentialFetchCompletion cells) s = exec (.credentialFetchCompletion []) spoilt)
    ∧ (req.kind = .stride → exec (.sweepStrideCompletion cells) s = exec (.sweepStrideCompletion []) spoilt))
  ∧ (∀ (s : State) (b n slot : Nat) (check : List Nat) (dir : Direction) (scanner : Byte) (i : WorkItem), s.Between →
    s.mem.transfer = some ⟨.fetch b check (.item n), false⟩ → s.adm.items.find? (fun i => decide (i.serial = n)) = some i →
    i.kind = .scan dir scanner → i.bucket = b → i.stage = .fetching slot → s.portBusy i.radio = true →
    let base := ({ s with mem := ({ s.mem with transfer := none } : RecMem).grant } : State).checked check
    let run := exec (.credentialFetchCompletion []) s
    let verdict := fun (v : Nat) (first : List Byte) (f : VerdictCtrs → VerdictCtrs) (t : State) =>
      (offer .droppable i.radio .admission (serviceFrame i.station 0x12 (scanner :: (be 1 v ++ be 8 i.code.toNat ++ first)))
        (t.modAdmCtrs (fun k => { k with verdicts := f k.verdicts }))).2
    let answered := fun (v : Nat) (f : VerdictCtrs → VerdictCtrs) => s.adm.items = [i] → s.adm.op = none →
      s.adm.sweep.stride = none →
      let u := verdict v (be 8 0) f base
      run = .next ({ u with adm := { u.adm with items := [] } } : State).ended
    (dir = .entry → s.adm.closed = true → answered 11 (fun k => { k with closed := bump k.closed }))
    ∧ (dir = .exit ∨ s.adm.closed = false →
      (base.matchCode b i.code = .fault → answered 9 (fun k => { k with fault := bump k.fault }))
      ∧ (base.matchCode b i.code = .unknown → answered 6 (fun k => { k with unknown := bump k.unknown }))
      ∧ ∀ w, base.matchCode b i.code = .found w →
        let p := b * 4 + w
        let e := base.entry p
        let c := base.cred p
        let now : GateTime := ⟨i.radio, s.venueTime⟩
        let decided := fun (v : Nat) (first : List Byte) (f : VerdictCtrs → VerdictCtrs) (c : Cred) (t : State) =>
          let u := verdict v first f t
          run = .next ({ u with
            adm := { u.adm with
              items := u.adm.items.map (fun j => if j.serial = n then { j with stage := .writing (j.stage.slot.getD 0) } else j)
              ctrs := { u.adm.ctrs with writeBacks := bump u.adm.ctrs.writeBacks } }
            mem := u.mem.send (.writeBack p { c with last := some now } (.item n)) } : State).ended
        let enters := fun (used : Nat) => (base.setEntry p { e with state := .admitted, used := used }).setOccupancy e.home
          (base.occupancy e.home + 1)
        let leaves := (base.setEntry p { e with state := .exited, bound := none }).setOccupancy e.home
          (base.occupancy e.home - 1)
        let again := decided 3 (match c.first with
          | some g => [1] ++ be 1 g.gate ++ be 6 g.time.toNat
          | none => be 8 0) (fun k => { k with duplicate := bump k.duplicate }) c base
        let void := decided 5 (be 8 0) (fun k => { k with void := bump k.void }) c base
        (dir = .entry →
          (permits c.permit i.zone = false →
            decided 4 (be 8 0) (fun k => { k with wrongGate := bump k.wrongGate }) c base)
          ∧ (permits c.permit i.zone = true →
            (e.state = .issued → decided 1 (be 8 0) (fun k => { k with admitIn := bump k.admitIn })
              { c with first := some now } (enters e.used))
            ∧ (e.state = .exited → e.used < c.allowance → decided 2 (be 8 0) (fun k => { k with readmit := bump k.readmit }) c
              (enters (e.used + 1)))
            ∧ (e.state = .admitted → again) ∧ (e.state = .exited → c.allowance ≤ e.used → again)
            ∧ (e.state = .void → void)))
        ∧ (dir = .exit →
          let out := decided 7 (be 8 0) (fun k => { k with exitOk := bump k.exitOk }) c
          (e.state = .admitted →
            (e.bound = none → out leaves)
            ∧ ∀ h, e.bound = some h →
              (base.holder p = none → out (leaves.modAdmCtrs (fun k => { k with unbindsNoEffect := bump k.unbindsNoEffect })))
              ∧ ∀ st, base.holder p = some h → s.station h = some st → st.sub = none →
                out ((leaves.setStation h ({ st with binding := none, standing := .unbound } : Station).rederive).modAdmCtrs
                  (fun k => { k with unbinds := bump k.unbinds })))
          ∧ (e.state = .issued ∨ e.state = .exited →
            decided 8 (be 8 0) (fun k => { k with notInside := bump k.notInside }) c base)
          ∧ (e.state = .void → void))))
  ∧ ∀ (s : State) (p : Nat) (c : Cred) (i : WorkItem), s.Between →
    s.mem.transfer = some ⟨.writeBack p c (.item i.serial), false⟩ → s.adm.items = [i] → s.adm.op = none →
    s.adm.sweep.stride = none →
    exec .credentialWriteBackCompletion s = .next { s.ended with
      adm := { s.adm with items := [] }
      mem := { ({ s.mem with transfer := none } : RecMem).grant with cred := Memory.writeBytes s.mem.cred (p * 64) c.bytes } }

/-- The decision of a check-in (R118, R121, R122) as its fetch completes, here the only work item, its radio's port sending,
once the check results are applied (R87, R165; ScanCompletionsAdmit says what they do): abandoned where the record at its
handle is no longer the station's; else FAULT, UNKNOWN, NOT_INSIDE, BOUND_ELSEWHERE or ACCEPTED, with the CHECKIN_REPLY. An
ACCEPTED one binds (R119, R123), here where no subscription is held: the entry's bound handle, the binding, standing and
class; it takes the credential over from an UNATTACHED holder, which is unbound (R120), clears the bound handle of the
position the station held before, and counts a binding unless it renews one. An EXIT or CRED_VOID of an ADMITTED entry
releases its binding (R89). What the fetch completion of a credential directive does (R95 to R97), the only directive and no
work item, once the check results are applied: CRED_READ is answered, CRED_VOID voids and is answered, a load record is FAULT
or BUCKET_FULL, LOADED or UPDATED, here of an entry with no bound handle, and written back, whose completion ends it. The
arrangement of the replies is the model's (log entry 14). Read by inference: the order of the errors of several failing
records (log entry 28); that a takeover counts as an unbind, and that the voids counter counts only entries made VOID (log
entry 23); that a completion grants the next request before its requester's rule runs, and that data is read and written at
the completion (log entry 24). -/
def Obligations.CheckinsAndCredentialDirectivesDecide : Prop :=
  (∀ (s : State) (b h slot : Nat) (check : List Nat) (i : WorkItem), s.Between → s.portBusy i.radio = true →
    s.adm.items = [i] → s.adm.op = none → s.adm.sweep.stride = none → i.kind = .checkin h → i.bucket = b →
    i.stage = .fetching slot → s.mem.transfer = some ⟨.fetch b check (.item i.serial), false⟩ →
    let read := ({ s with mem := ({ s.mem with transfer := none } : RecMem).grant } : State).checked check
    let base : State := { read with adm := { read.adm with items := [] } }
    let run := exec (.credentialFetchCompletion []) s
    let answer := fun (n : Nat) (s : State) => Host.Outcome.next
      (offer .droppable i.radio .admission (serviceFrame i.station 0x13 (be 1 n)) s).2.ended
    ((s.station h).map Station.addr ≠ some i.station →
      run = .next (base.modAdmCtrs (fun k => { k with abandoned := bump k.abandoned })).ended)
    ∧ ∀ st, s.station h = some st → st.addr = i.station →
      (read.matchCode b i.code = .fault → run = answer 5 (base.modAdmCtrs (fun k => { k with ciFault := bump k.ciFault })))
      ∧ (read.matchCode b i.code = .unknown →
        run = answer 3 (base.modAdmCtrs (fun k => { k with ciUnknown := bump k.ciUnknown })))
      ∧ ∀ w, read.matchCode b i.code = .found w →
        let p := b * 4 + w
        let e := read.entry p
        let c := read.cred p
        (e.state ≠ .admitted → run = answer 2 (base.modAdmCtrs (fun k => { k with ciNotInside := bump k.ciNotInside })))
        ∧ (∀ h' st', e.state = .admitted → read.holder p = some h' → h' ≠ h → s.station h' = some st' →
          st'.state ≠ .unattached →
          run = answer 4 (base.modAdmCtrs (fun k => { k with ciElsewhere := bump k.ciElsewhere })))
        ∧ (e.state = .admitted → st.sub = none →
          let accepted := fun (f : AdmCtrs → AdmCtrs) (s : State) => answer 1 (((s.setEntry p { e with bound := some h }).setStation h
            ({ st with
              binding := some ⟨p / 4, p % 4, c.tier, c.permit, c.grant⟩
              standing := read.standingOf { st with binding := some ⟨p / 4, p % 4, c.tier, c.permit, c.grant⟩ } }
              : Station).rederive).modAdmCtrs (fun k => f { k with ciAccepted := bump k.ciAccepted }))
          let made := fun k : AdmCtrs => { k with bindings := bump k.bindings }
          (read.holder p = none → st.binding = none → run = accepted made base)
          ∧ (read.holder p = some h → run = accepted id base)
          ∧ (∀ x, read.holder p = none → st.binding = some x → x.bucket * 4 + x.way ≠ p →
            let q := x.bucket * 4 + x.way
            run = accepted made (if (read.entry q).bound = some h then base.setEntry q { read.entry q with bound := none } else base))
          ∧ ∀ h' st', read.holder p = some h' → h' ≠ h → st.binding = none → s.station h' = some st' →
            st'.state = .unattached → st'.sub = none →
            run = accepted made ((base.setStation h' ({ st' with
                binding := none, standing := .unbound } : Station).rederive).modAdmCtrs
              (fun k => { k with unbinds := bump k.unbinds, takeovers := bump k.takeovers }))))
  ∧ (∀ (s : State) (p h : Nat) (st : Station), (s.entry p).state = .admitted → s.holder p = some h → s.station h = some st →
    st.sub = none →
    let e := s.entry p
    let left := fun new : EntryState => (((s.setEntry p { e with state := new, bound := none }).setOccupancy e.home
      (s.occupancy e.home - 1)).setStation h ({ st with binding := none, standing := .unbound } : Station).rederive).modAdmCtrs
        (fun k => { k with unbinds := bump k.unbinds })
    (∀ g, (evaluateExit p g s).state = left .exited) ∧ voidEntry p s = left .void)
  ∧ ∀ (s : State) (e : MgmtEntry) (o : CredOp) (check : List Nat), s.Between → s.mgmt.queue = [e] → s.adm.items = [] →
    s.adm.sweep.stride = none → s.adm.op = some o →
    let b := o.bucket
    let done := fun (body : List Byte) (s : State) => Host.Outcome.next
      (({ s with mgmt := { s.mgmt with queue := [], started := false } } : State).replied e.src e.dir.kind e.tag .done body).ended
    let place := fun p : Nat => 1 :: (be 2 (p / 4) ++ be 1 (p % 4))
    (s.mem.transfer = some ⟨.fetch b check .op, false⟩ →
      let read := ({ s with mem := ({ s.mem with transfer := none } : RecMem).grant } : State).checked check
      let freed : State := { read with adm := { read.adm with op := none } }
      let run := exec (.credentialFetchCompletion []) s
      (∀ code, o.job = .readCode code →
        (∀ w, read.matchCode b code = .found w → let p := b * 4 + w
          run = done ([1] ++ place p ++ (read.entry p).bytes ++ (read.cred p).fields) freed)
        ∧ (read.matchCode b code = .fault → run = done [2, 0, 0, 0, 0] freed)
        ∧ (read.matchCode b code = .unknown → run = done [3, 0, 0, 0, 0] freed))
      ∧ (∀ w, o.job = .readPos w → let p := b * 4 + w
        run = done ((read.entry p).bytes ++ if (read.entry p).state = .free ∨ (read.entry p).faulty = true then be 36 0
          else 1 :: (read.cred p).fields) freed)
      ∧ (∀ code, o.job = .void code →
        let voids := fun s : State => s.modAdmCtrs (fun k => { k with voids := bump k.voids })
        (read.matchCode b code = .fault → run = done [4, 0, 0, 0, 0] freed)
        ∧ (read.matchCode b code = .unknown → run = done [5, 0, 0, 0, 0] freed)
        ∧ ∀ w, read.matchCode b code = .found w → let p := b * 4 + w
          ((read.entry p).state = .void → run = done (3 :: place p) freed)
          ∧ ((read.entry p).state = .issued ∨ (read.entry p).state = .exited → run = done (1 :: place p)
            (voids (freed.setEntry p { read.entry p with state := .void })))
          ∧ ((read.entry p).state = .admitted → (read.entry p).bound = none → run = done (2 :: place p)
            (voids ((freed.setEntry p { read.entry p with state := .void }).setOccupancy (read.entry p).home
              (read.occupancy (read.entry p).home - 1)))))
      ∧ ∀ r rest past, o.job = .load r rest past →
        let writes := fun (p : Nat) (c : Cred) (st : LoadStatus) (s : State) => Host.Outcome.next ({ s with
          adm := { s.adm with op := some { o with job := .load r rest (past ++ [(st, some p)]), stage := .writing } }
          mem := s.mem.send (.writeBack p c .op) } : State).ended
        (rest = [] → past = [] →
          (read.matchCode b r.code = .fault → run = done [1, 2, 0, 0, 0, 0]
            (freed.modAdmCtrs (fun k => { k with loadFault := bump k.loadFault })))
          ∧ (read.matchCode b r.code = .unknown → (∀ w, w < 4 → (read.entry (b * 4 + w)).state ≠ .free) → run = done [1, 4, 0, 0, 0, 0]
            (freed.modAdmCtrs (fun k => { k with bucketFull := bump k.bucketFull }))))
        ∧ (∀ w, read.matchCode b r.code = .unknown → w < 4 → (read.entry (b * 4 + w)).state = .free →
          (∀ v, v < w → (read.entry (b * 4 + v)).state ≠ .free) →
          run = writes (b * 4 + w) { code := r.code, tier := r.tierVal, permit := r.permit, allowance := r.allowance.toNat
                                     grant := decide (r.grant = 1) } .loaded
            ((freed.modAdmCtrs (fun k => { k with loaded := bump k.loaded })).setEntry (b * 4 + w)
              { state := .issued, home := r.home.toNat }))
        ∧ ∀ w, read.matchCode b r.code = .found w → (read.entry (b * 4 + w)).bound = none →
          let p := b * 4 + w
          let x := (freed.modAdmCtrs (fun k => { k with updated := bump k.updated })).setEntry p
            { read.entry p with home := r.home.toNat }
          run = writes p { read.cred p with
              tier := r.tierVal, permit := r.permit, allowance := r.allowance.toNat, grant := decide (r.grant = 1) } .updated
            (if (read.entry p).state = .admitted then
              (x.setOccupancy (read.entry p).home (x.occupancy (read.entry p).home - 1)).setOccupancy r.home.toNat
                ((x.setOccupancy (read.entry p).home (x.occupancy (read.entry p).home - 1)).occupancy r.home.toNat + 1)
            else x))
    ∧ ∀ r p c st, o.job = .load r [] [(st, some p)] → s.mem.transfer = some ⟨.writeBack p c .op, false⟩ →
      let freed : State := { s with mem := ({ s.mem with transfer := none } : RecMem).grant, adm := { s.adm with op := none } }
      exec .credentialWriteBackCompletion s = done (be 1 1 ++ be 1 st.code ++ place p)
        { freed with mem := { freed.mem with cred := Memory.writeBytes s.mem.cred (p * 64) c.bytes } }

/-- What a sweep does at one way (R109 steps 2 and 3): ISSUED, ADMITTED and EXITED entries are counted when faulty, and
otherwise voided when the selector matches, an ADMITTED one lowering its home zone's occupancy; FREE and VOID ways are passed
over. A stride's read completes (R109, R110, R112), here with no subscription held, no work item or operation, and no other
request at the controller: the check results are applied (R165; ScanCompletionsAdmit says what they do), each way of the
stride is swept, and the pointer rises by 64. Where no SWEEP_SUSPEND waits, the next stride's read is sent; one that waits at
the head suspends the sweep and is answered DONE with the state, the pointer and the counts. After the last stride the sweep
is IDLE and SWEEP_DONE is sent; a SWEEP_SUSPEND that waits is then answered STATE with IDLE, the pointer and the counts. The
arrangement of SWEEP_DONE and of the reply, with counts in 4 bytes, is the model's (log entry 14); that the ways of a stride
are taken in increasing order (log entry 28) and that SWEEP_DONE is sent before the reply (log entry 25) are read by
inference. What voiding an ADMITTED entry with a bound station does is in CheckinsAndCredentialDirectivesDecide. -/
def Obligations.SweepStridesVoidAndMove : Prop :=
  (∀ (s : State) (p : Nat), (s.entry p).bound = none →
    let e := s.entry p
    let voided := fun (s : State) (inside : Nat) => s.modSweep (fun w => { w with
      voided := w.voided + 1, voidedInside := w.voidedInside + inside })
    let picked := match s.adm.sweep.selector with
      | some (.zone z) => e.home = z
      | some (.tier t) => (s.cred p).tier = t
      | some .all => True
      | none => False
    (e.state = .free ∨ e.state = .void → sweepWay p s = s)
    ∧ (e.state ≠ .free → e.state ≠ .void → e.faulty = true →
      sweepWay p s = s.modSweep (fun w => { w with faultyPassed := w.faultyPassed + 1 }))
    ∧ (e.faulty = false → ¬ picked → sweepWay p s = s)
    ∧ (e.faulty = false → picked → e.state = .issued ∨ e.state = .exited →
      sweepWay p s = voided (s.setEntry p { e with state := .void }) 0)
    ∧ (e.faulty = false → picked → e.state = .admitted →
      sweepWay p s = voided ((s.setEntry p { e with state := .void }).setOccupancy e.home (s.occupancy e.home - 1)) 1))
  ∧ ∀ (s : State) (b : Nat) (check : List Nat), s.Between → s.mem.transfer = some ⟨.stride b check, false⟩ →
    s.mem.fetchQ = [] → s.mem.writeQ = [] → s.mem.chunkQ = [] → s.mem.strideQ = [] → s.mem.ingestQ = [] →
    s.adm.items = [] → s.adm.op = none → s.adm.sweep.stride = some .reading → s.adm.sweep.pointer = b →
    (∀ e ∈ s.stations, e.2.sub = none) →
    let read := ({ s with mem := { s.mem with transfer := none } } : State).checked check
    let swept := (positionsFrom b 64).foldl (fun s p => sweepWay p s) read
    let w := swept.adm.sweep
    let counts := be 4 w.voided ++ be 4 w.voidedInside ++ be 4 w.faultyPassed
    let run := exec (.sweepStrideCompletion []) s
    let moved := fun (w : Sweep) (f : AdmCtrs → AdmCtrs) => ({ swept with
      adm := { swept.adm with sweep := w, ctrs := f { swept.adm.ctrs with strides := bump swept.adm.ctrs.strides } } } : State)
    let replies := fun (e : MgmtEntry) (st : Status) (body : List Byte) (t : State) =>
      (({ t with mgmt := { t.mgmt with queue := [], started := false } } : State).replied e.src e.dir.kind e.tag st body).ended
    (b + 64 ≠ 16384 →
      (w.suspendRequested = false → run = .next ({ moved { w with pointer := b + 64, stride := some .reading } id with
        mem := swept.mem.send (.stride (b + 64) (swept.checkSet (positionsFrom (b + 64) 64))) } : State).ended)
      ∧ ∀ e, w.suspendRequested = true → s.mgmt.queue = [e] → run = .next (replies e .done (be 1 3 ++ be 2 (b + 64) ++ counts)
        (moved { w with state := .suspended, pointer := b + 64, stride := none, suspendRequested := false } id)))
    ∧ (b + 64 = 16384 → ∀ sel, w.selector = some sel →
      let ended := notice .sweepDone (sel.bytes ++ counts ++ be 6 w.startTime.toNat ++ be 6 s.venueTime.toNat)
        (moved { w with
          state := .idle, pointer := 16384, stride := none, suspendRequested := false, endTime := some s.venueTime }
          (fun k => { k with sweepsCompleted := bump k.sweepsCompleted }))
      (w.suspendRequested = false → run = .next ended.ended)
      ∧ ∀ e, w.suspendRequested = true → s.mgmt.queue = [e] →
        run = .next (replies e .state (be 1 1 ++ be 2 16384 ++ counts) ended))

/-- The completions of the clip area (R136, R153, R154, R164): a chunk read makes its delivery's held frames, cut from the bytes the
slot holds, and a delivery whose first frame is declined stalls; a write's bytes stand in the slot, and the outstanding counts
fall, or are discarded where the slot's generation has moved on; the last outstanding write of a WRITING slot makes it READY with
INGEST_DONE (R138), here where no station of its reel is IDLE (what it wakes is in SegmentsAreSoughtAndTaken). The slot's width in
INGEST_DONE is the model's (log entry 14), and so is that the count removed is 0 (log entry 37). That the next request is granted before the requester's rule runs,
and that a chunk's bytes are read and a write's bytes stand at the completion, is read by inference (log entry 24). -/
def Obligations.ClipCompletionsHoldAndWrite : Prop :=
  ∀ (s : State), s.Between →
    (∀ slot off len d v m, s.mem.transfer = some ⟨.chunk slot off len d, m⟩ → s.delivery d = some v →
      (s.slot slot).generation = v.generation → 1 ≤ len → s.inService v.radio = true → 3840 ≤ s.egress.buffers →
      d ∉ s.replay.stalled →
      let data := Memory.readBytes s.mem.clip (slot * 262144 + off) len
      let frames := cutChunk s.ingestAddr v len off data
      frames.flatMap (fun f => f.payload.drop 13) = data
      ∧ (∀ f ∈ frames, f.payload.length ≤ 1413)
      ∧ exec .clipChunkReadCompletion s = .next { s.ended with
          mem := ({ s.mem with transfer := none } : RecMem).grant
          egress := { s.egress with declined := bump s.egress.declined }
          replay := { s.replay with
            deliveries := s.replay.deliveries.put d { v with chunk := .held frames }
            stalled := s.replay.stalled ++ [d] } })
    ∧ ∀ f off data gen m, s.mem.transfer = some ⟨.ingest f off data gen, m⟩ →
      let written := { ({ s.mem with transfer := none } : RecMem).grant with
        clip := Memory.writeBytes s.mem.clip (f * 262144 + off) data }
      ((s.slot f).generation = gen → (s.slot f).state = .filling ∨ ((s.slot f).state = .writing ∧ 2 ≤ (s.slot f).outstanding) →
        exec .clipIngestWriteCompletion s = .next ({ s.setSlot f { s.slot f with
            outstanding := (s.slot f).outstanding - 1 } with
          mem := written
          replay := { (s.setSlot f { s.slot f with outstanding := (s.slot f).outstanding - 1 }).replay with
            outstanding := s.replay.outstanding - 1 } } : State).ended)
      ∧ ((s.slot f).generation ≠ gen →
        exec .clipIngestWriteCompletion s = .next { s.ended with
          mem := written
          replay := { s.replay with
            outstanding := s.replay.outstanding - 1
            ctrs := { s.replay.ctrs with discardedWrites := bump s.replay.ctrs.discardedWrites } } })
      ∧ ∀ r c n len, (s.slot f).generation = gen → (s.slot f).state = .writing → (s.slot f).outstanding = 1 →
        (s.slot f).reel = some r → (s.slot f).seq = some n → (s.slot f).length = some len → (s.reel r).cfg = some c →
        (∀ e ∈ s.stations, ∀ b, e.2.sub = some b → ¬ (b.reel = r ∧ b.rider = some .idle)) →
        let s1 := (s.setSlot f { s.slot f with
          state := .ready, received := none, outstanding := 0, readyTime := some s.venueTime }).setReel r
          { cfg := some { c with newest := some n, oldest := if c.oldest = none then some n else c.oldest }
            ctrs := { (s.reel r).ctrs with
              ready := bump (s.reel r).ctrs.ready, readyBytes := bumpBy (s.reel r).ctrs.readyBytes len } }
        exec .clipIngestWriteCompletion s = .next (notice .ingestDone
          (be 1 r ++ be 4 n ++ be 2 f ++ be 2 gen.toNat ++ be 4 len ++ be 6 s.venueTime.toNat)
          { s1 with mem := written, replay := { s1.replay with outstanding := s.replay.outstanding - 1 } }).ended

/-- What a seek finds (R150) for each mode, over the READY segments of its reel. A station that found a segment takes it
(R151): it joins the delivery of that slot and generation at its radio, or makes one, or waits; it is served from the waiting
list (R152) in the same way, and leaves it when IDLE. A chunk of one frame that egress accepts (R153, R154), here with the
radio's port sending, has the next chunk read, or completes the delivery (R155), whose one rider, of mode ONE, ends. A chunk
whose delivery is gone is discarded and counted; one whose slot has another generation than its delivery has the delivery
lapped (R153). A lapped delivery (R156) is freed with its places, leaves the stalled list and is counted at its radio; each
rider, in join order, moves its cursor to the oldest READY sequence, or, of mode FOLLOW, to the newest, seeks and takes its
segment; then the radio's waiting list is served, here where no other list holds a station. A segment that becomes READY wakes
an IDLE station (R158), which seeks anew; a PAUSED subscription resumes, or is removed (R148). SEGMENT_OPEN abandons a slot
still FILLING, and takes a WRITING or READY slot one generation on (R129, R130, R133, R134); an overwrite laps each delivery
of the slot's old generation, in increasing order of radio number, raises the overwrites counter and, for each of them, the
reel's lapped counter, and sends one REEL_LAPPED; with no such delivery it sends none. INGEST_INCOMPLETE carries no frame then
(log entry 36). How the fields of REEL_LAPPED lie is the model's (log entry 14). That a station served from the list is
counted as coalesced is the model's (log entry 23), and so are the number of a delivery (log entry 20) and the event number
beside a waiting-since time (log entry 18). That a rider of a lapped delivery keeps its cursor where its reel holds no READY
segment (log entry 21), and that a chunk is read at its completion, which grants the next request first (log entry 24), are
read by inference. -/
def Obligations.SegmentsAreSoughtAndTaken : Prop :=
  (∀ (s : State) (b : Sub) (cfg : ReelCfg) (lag : Bool), (s.reel b.reel).cfg = some cfg →
    let ready := fun n => (s.readySlot b.reel n).isSome = true
    let x := seek lag s b
    (∀ c, b.mode = .one → b.cursor = some c →
      (∀ n, x.found = some n ↔ ready n ∧ c ≤ n ∧ ∀ k, ready k → c ≤ k → n ≤ k)
      ∧ x.sub = { b with cursor := some (x.found.getD c) } ∧ x.skips = 0)
    ∧ (∀ new old, b.mode = .follow → cfg.newest = some new → cfg.oldest = some old →
      let c0 := b.cursor.getD new
      let c1 := if c0 < old then new else c0
      let far := lag && decide (s.gov.activeCtx.lagLimit.toNat < new - c1)
      let c2 := if far then new else c1
      x.sub = { b with cursor := some c2 } ∧ x.skips = (if far then new - c1 else 0)
      ∧ ∀ n, x.found = some n ↔ n = c2 ∧ ready c2)
    ∧ (b.mode = .follow → cfg.newest = none → x = ⟨b, none, 0⟩)
    ∧ ∀ w0 size c0, b.mode = .loop → b.window = some (w0, size) → b.cursor = some c0 →
      let w := max w0 (cfg.oldest.getD w0)
      let c := max c0 w
      let ahead := fun n => ready n ∧ c ≤ n ∧ n < w + size
      (∀ n, x.found = some n ↔ (ahead n ∧ ∀ k, ahead k → n ≤ k)
        ∨ ((∀ k, ¬ ahead k) ∧ ready n ∧ w ≤ n ∧ n ≤ c ∧ ∀ k, ready k → w ≤ k → n ≤ k))
      ∧ x.sub = { b with window := some (w, size), cursor := some (x.found.getD c) } ∧ x.skips = 0)
  ∧ (∀ (s : State) (h r : Nat) (st : Station) (b : Sub), s.station h = some st → st.sub = some b →
    let rides := fun (x : Rider) (s : State) => s.modStation h (fun st => { st with sub := st.sub.map (fun b => { b with rider := some x }) })
    let joins := fun (d : Nat) (v : Delivery) (s : State) =>
      (rides (.riding d) (s.setDelivery d { v with riders := v.riders ++ [h] })).modReplayCtrs (fun k => { k with
        coalesced := bump k.coalesced })
    let makes := fun (slot n : Nat) (s : State) =>
      let d := s.replay.nextId
      let len := (s.slot slot).length.getD 0
      let s1 := rides (.riding d) s
      ({ s1 with
        replay := { s1.replay with
          deliveries := s1.replay.deliveries.put d
            { radio := r, reel := (s.slot slot).reel.getD 0, slot := slot, seq := n
              generation := (s.slot slot).generation, length := len, riders := [h] }
          nextId := d + 1
          ctrs := { s1.replay.ctrs with created := bump s1.replay.ctrs.created, chunkReads := bump s1.replay.ctrs.chunkReads } }
        mem := s1.mem.send (.chunk slot 0 (min 16384 len) d) } : State)
    let room := fun s : State => s.deliveriesAt r < 8 ∧ s.replay.deliveries.length < 1024
    let x := seek true s b
    let moved := (s.modStation h (fun st => { st with
        sub := st.sub.map (fun b => { b with cursor := x.sub.cursor, window := x.sub.window }) })).modReplayCtrs
      (fun k => { k with lagSkips := bumpBy k.lagSkips x.skips })
    let leaves := fun s : State => s.setWaitList r ((s.waitList r).filter (fun k => decide (k ≠ h)))
    (∀ reel n slot, s.readySlot reel n = some slot →
      let at_ := s.deliveryAt r slot (s.slot slot).generation
      (∀ d v, at_ = some d → s.delivery d = some v → takeSegment h r reel n s = joins d v s)
      ∧ (at_ = none → s.waitList r = [] → room s → takeSegment h r reel n s = makes slot n s)
      ∧ (at_ = none → ¬ (s.waitList r = [] ∧ room s) → takeSegment h r reel n s
        = rides (.waiting s.venueTime s.ev.number) (s.setWaitList r (s.waitList r ++ [h]))))
    ∧ (x.found = none → serveStation r h s = rides .idle (leaves moved))
    ∧ (x.found = none → st.current = some r → seekAndTake true h s = rides .idle moved)
    ∧ ∀ n slot, x.found = some n → s.readySlot b.reel n = some slot →
      let at_ := s.deliveryAt r slot (s.slot slot).generation
      (∀ d v, at_ = some d → s.delivery d = some v → serveStation r h s = joins d v (leaves moved))
      ∧ (at_ = none → room s → serveStation r h s = makes slot n (leaves moved))
      ∧ (at_ = none → ¬ room s → serveStation r h s = moved)
      ∧ (st.current = some r → seekAndTake true h s = takeSegment h r b.reel n moved))
  ∧ (∀ (s : State) (slot off len d : Nat) (m : Bool) (v : Delivery) (f : Frame) (u : State), s.Between →
    s.mem.transfer = some ⟨.chunk slot off len d, m⟩ → s.delivery d = some v → (s.slot slot).generation = v.generation →
    Table.sorted s.replay.deliveries = true → s.portBusy v.radio = true →
    cutChunk s.ingestAddr v len off (Memory.readBytes s.mem.clip (slot * 262144 + off) len) = [f] →
    offer .declinable v.radio .replay f { s with mem := ({ s.mem with transfer := none } : RecMem).grant } = (.accepted, u) →
    let next := v.nextOffset + (f.payload.length - 13)
    let stalled := s.replay.stalled.filter (fun k => decide (k ≠ d))
    let k := { s.replay.ctrs with replayFrames := bump s.replay.ctrs.replayFrames }
    (next ≠ v.length → exec .clipChunkReadCompletion s = .next ({ u with
      replay := { s.replay with
        deliveries := s.replay.deliveries.put d { v with nextOffset := next, chunk := .reading }
        stalled := stalled, ctrs := { k with chunkReads := bump k.chunkReads } }
      mem := u.mem.send (.chunk v.slot next (min 16384 (v.length - next)) d) } : State).ended)
    ∧ ∀ h st b, next = v.length → v.riders = [h] → s.station h = some st → st.sub = some b → b.mode = .one →
      b.rider = some (.riding d) → st.current = some v.radio → s.replay.waiting = [] →
      exec .clipChunkReadCompletion s = .next ({ ((u.setStation h { st with sub := none }).modRadio v.radio
          (fun x => { x with subscribers := x.subscribers - 1 })) with
        replay := { s.replay with
          deliveries := s.replay.deliveries.del d, stalled := stalled
          ctrs := { k with
            completed := bump k.completed, removed := bump k.removed, ended := bump k.ended } } } : State).ended)
  ∧ (∀ (s : State) (slot off len d : Nat) (m : Bool), s.Between → s.mem.transfer = some ⟨.chunk slot off len d, m⟩ →
    let freed := ({ s with mem := ({ s.mem with transfer := none } : RecMem).grant } : State)
    (s.delivery d = none → exec .clipChunkReadCompletion s = .next (freed.modReplayCtrs (fun k => { k with
      discardedChunks := bump k.discardedChunks })).ended)
    ∧ ∀ v, s.delivery d = some v → (s.slot slot).generation ≠ v.generation →
      exec .clipChunkReadCompletion s = .next (lapDelivery d freed).ended)
  ∧ ((∀ (s : State) (d : Nat) (v : Delivery), s.delivery d = some v →
      lapDelivery d s = servePlaces v.radio (v.riders.foldl (fun s h => lapRider v.reel h s) (({ s with
        replay := { s.replay with
          deliveries := s.replay.deliveries.del d, stalled := s.replay.stalled.filter (fun k => decide (k ≠ d)) } } : State).modRadio
        v.radio (fun x => { x with rep := { x.rep with lapped := bump x.rep.lapped } }))))
    ∧ (∀ (s : State) (h reel : Nat) (st : Station) (b : Sub) (cfg : ReelCfg), s.station h = some st → st.sub = some b →
      (s.reel reel).cfg = some cfg →
      let dest := if b.mode = .follow then cfg.newest else cfg.oldest
      (∀ n, dest = some n →
        lapRider reel h s = seekAndTake true h (s.setStation h { st with sub := some { b with cursor := some n } }))
      ∧ (dest = none → lapRider reel h s = seekAndTake true h s))
    ∧ (∀ (s : State) (r : Nat), s.replay.waiting = [] → servePlaces r s = s)
    ∧ ∀ (s : State) (r : Nat) (l : List Nat), s.replay.waiting = [(r, l)] →
      servePlaces r s = l.foldl (fun s h => serveStation r h s) s)
  ∧ (∀ (s : State) (h : Nat) (st : Station) (b : Sub), s.station h = some st → st.sub = some b →
    (∀ reel, (s.stations.filter (fun e => decide (∃ c ∈ e.2.sub, c.reel = reel ∧ c.rider = some .idle))).map Prod.fst = [h] →
      let t := seekAndTake true h s
      wakeReel reel s = if ((t.station h).bind Station.sub).bind Sub.rider = some .idle then t
        else t.modReplayCtrs (fun k => { k with wakes := bump k.wakes }))
    ∧ ∀ r, st.current = some r → b.rider = none →
      (st.state = .attached → st.standing = .inZone → (∃ c, st.binding = some c ∧ c.grant = true) →
        resumeSub h s = seekAndTake true h (((s.setStation h { st with sub := some { b with rider := some .idle } }).modRadio r
          (fun x => { x with subscribers := x.subscribers + 1 })).modReplayCtrs (fun k => { k with
            resumptions := bump k.resumptions })))
      ∧ (¬ (st.state = .attached ∧ st.standing = .inZone ∧ ∃ c, st.binding = some c ∧ c.grant = true) →
        resumeSub h s = (s.setStation h { st with sub := none }).modReplayCtrs (fun k => { k with removed := bump k.removed })))
  ∧ ∀ (s : State) (src : Addr) (reel : Byte) (seq len : Word32) (c : ReelCfg), s.Between → reel.toNat ≤ 15 →
    1 ≤ len.toNat → len.toNat ≤ 262144 → (s.reel reel.toNat).cfg = some c → Table.sorted s.replay.slots = true →
    c.lastOpened = none ∨ (∃ l, c.lastOpened = some l ∧ seq.toNat = l + 1) →
    let r := reel.toNat
    let heard := s.modUplinkCtrs (fun k => { k with received := bump k.received })
    let run := exec (.segmentOpen src reel seq len) s
    let drops := fun (n : Nat) (s : State) => s.setSlot n { reel := (s.slot n).reel, generation := (s.slot n).generation + 1 }
    let incomplete := fun s : State => takeOccurrence { cls := .ingestIncomplete }
      (s.modReelCtrs r (fun k => { k with incomplete := bump k.incomplete }))
    let take := fun (newest oldest : Option Nat) (s : State) =>
      (s.setSlot c.writePos { s.slot c.writePos with
        state := .filling, seq := some seq.toNat, length := some len.toNat, received := some 0, outstanding := 0 }).setReel r
        { cfg := some { c with
            newest := newest, oldest := oldest, filling := some c.writePos, lastOpened := some seq.toNat
            writePos := if c.writePos + 1 < c.first + c.count then c.writePos + 1 else c.first }
          ctrs := { (s.reel r).ctrs with opens := bump (s.reel r).ctrs.opens } }
    let left := ((drops c.writePos heard).readySegs r).map Prod.fst
    (∀ f, c.filling = some f → f ≠ c.writePos → (s.slot c.writePos).state = .free →
      run = .next (take c.newest c.oldest (incomplete (drops f heard))).ended)
    ∧ (c.filling = none → (s.slot c.writePos).state = .writing →
      run = .next (take c.newest c.oldest (incomplete (drops c.writePos heard))).ended)
    ∧ (c.filling = none → (s.slot c.writePos).state = .ready →
      (∀ e ∈ s.replay.deliveries, e.2.slot = c.writePos → e.2.generation ≠ (s.slot c.writePos).generation) →
      run = .next (take (maxOf left) (minOf left) ((drops c.writePos heard).modReelCtrs r
        (fun k => { k with overwrites := bump k.overwrites }))).ended)
    ∧ ∀ (n : Nat) (ds : List (Nat × Delivery)), c.filling = none → (s.slot c.writePos).state = .ready →
      (s.slot c.writePos).seq = some n → ds ≠ [] →
      ds.Perm (s.replay.deliveries.filter (fun e => decide (e.2.slot = c.writePos
        ∧ e.2.generation = (s.slot c.writePos).generation))) →
      ds.Pairwise (fun x y => x.2.radio < y.2.radio) →
      let lapped := ds.foldl (fun s e => lapDelivery e.1 s) ((drops c.writePos heard).setReel r { s.reel r with
        cfg := some { c with newest := maxOf left, oldest := minOf left } })
      run = .next (take (maxOf left) (minOf left) (notice .reelLapped (be 1 r ++ be 2 c.writePos ++ be 4 n
        ++ be 2 ((s.slot c.writePos).generation + 1).toNat ++ be 2 ds.length) (lapped.modReelCtrs r (fun k => { k with
          overwrites := bump k.overwrites, lapped := bumpBy k.lapped ds.length })))).ended
end

