-- ==== Sys2Proof/Laws/Tables.lean ====
section
/-! SUPPORT. What the tables and the areas of record memory do: reading after writing, and the canonical form, which every
operation on them keeps. -/

namespace Sys2Proof.Machine

variable {α : Type}

/-- Every key of a table lies above `lo`. -/
def Table.above (lo : Nat) (t : Table α) : Prop := ∀ e ∈ t, lo < e.1

theorem Table.sortedFrom_some (lo : Nat) (t : Table α) :
    Table.sortedFrom (some lo) t = true ↔ Table.sorted t = true ∧ Table.above lo t := by
  induction t generalizing lo with
  | nil => simp [Table.sortedFrom, Table.sorted, Table.above]
  | cons e t ih =>
    obtain ⟨k, v⟩ := e
    simp only [Table.sortedFrom, Table.sorted, Bool.and_eq_true, decide_eq_true_eq, Table.above, List.mem_cons,
      forall_eq_or_imp]
    rw [ih k]
    constructor
    · rintro ⟨h, hs, ha⟩
      exact ⟨⟨hs, ha⟩, h, fun e he => lt_trans h (ha e he)⟩
    · rintro ⟨⟨hs, ha⟩, h, -⟩
      exact ⟨h, hs, ha⟩

theorem Table.sorted_cons (k : Nat) (v : α) (t : Table α) :
    Table.sorted ((k, v) :: t) = true ↔ Table.sorted t = true ∧ Table.above k t := by
  simp only [Table.sorted, Table.sortedFrom]
  exact Table.sortedFrom_some k t

@[simp] theorem Table.sorted_nil : Table.sorted ([] : Table α) = true := rfl

@[simp] theorem Table.find_nil (k : Nat) : Table.find ([] : Table α) k = none := rfl

/-- A key below every key of a table is not listed. -/
theorem Table.find_of_above {t : Table α} {k : Nat} (h : Table.above k t) : Table.find t k = none := by
  induction t with
  | nil => rfl
  | cons e t ih =>
    obtain ⟨k', v⟩ := e
    have h1 : k < k' := h (k', v) (by simp)
    simp only [Table.find]
    rw [if_neg (by omega)]
    exact ih fun e he => h e (by simp [he])

theorem Table.above_mono {lo lo' : Nat} {t : Table α} (h : lo' ≤ lo) (ha : Table.above lo t) : Table.above lo' t :=
  fun e he => lt_of_le_of_lt h (ha e he)

theorem Table.above_put {lo k : Nat} {v : α} {t : Table α} (hk : lo < k) (ha : Table.above lo t) :
    Table.above lo (t.put k v) := by
  induction t with
  | nil => intro e he; simp only [Table.put, List.mem_singleton] at he; subst he; exact hk
  | cons e t ih =>
    obtain ⟨k', v'⟩ := e
    have h1 : lo < k' := ha (k', v') (by simp)
    have h2 : Table.above lo t := fun e he => ha e (by simp [he])
    intro e he
    simp only [Table.put] at he
    split at he
    · simp only [List.mem_cons] at he
      rcases he with rfl | rfl | he
      exacts [hk, h1, h2 e he]
    · split at he
      · simp only [List.mem_cons] at he
        rcases he with rfl | he
        exacts [hk, h2 e he]
      · simp only [List.mem_cons] at he
        rcases he with rfl | he
        exacts [h1, ih h2 e he]

theorem Table.above_del {lo k : Nat} {t : Table α} (ha : Table.above lo t) : Table.above lo (t.del k) := by
  induction t with
  | nil => exact ha
  | cons e t ih =>
    obtain ⟨k', v'⟩ := e
    have h2 : Table.above lo t := fun e he => ha e (by simp [he])
    intro e he
    simp only [Table.del] at he
    split at he
    · exact h2 e he
    · simp only [List.mem_cons] at he
      rcases he with rfl | he
      exacts [ha _ (by simp), ih h2 e he]

/-- Writing an entry keeps the keys rising. -/
theorem Table.sorted_put {k : Nat} {v : α} {t : Table α} (h : t.sorted = true) : (t.put k v).sorted = true := by
  induction t with
  | nil => rfl
  | cons e t ih =>
    obtain ⟨k', v'⟩ := e
    rw [Table.sorted_cons] at h
    simp only [Table.put]
    split
    · next hlt =>
      rw [Table.sorted_cons, Table.sorted_cons]
      refine ⟨h, ?_⟩
      intro e he
      simp only [List.mem_cons] at he
      rcases he with rfl | he
      exacts [hlt, lt_trans hlt (h.2 e he)]
    · split
      · next heq => subst heq; rw [Table.sorted_cons]; exact h
      · next h1 h2 =>
        rw [Table.sorted_cons]
        exact ⟨ih h.1, Table.above_put (by omega) h.2⟩

/-- Removing an entry keeps the keys rising. -/
theorem Table.sorted_del {k : Nat} {t : Table α} (h : t.sorted = true) : (t.del k).sorted = true := by
  induction t with
  | nil => rfl
  | cons e t ih =>
    obtain ⟨k', v'⟩ := e
    rw [Table.sorted_cons] at h
    simp only [Table.del]
    split
    · exact h.1
    · rw [Table.sorted_cons]
      exact ⟨ih h.1, Table.above_del h.2⟩

/-- Reading the entry just written. -/
@[simp] theorem Table.find_put_self (k : Nat) (v : α) (t : Table α) : (t.put k v).find k = some v := by
  induction t with
  | nil => simp [Table.put, Table.find]
  | cons e t ih =>
    obtain ⟨k', v'⟩ := e
    simp only [Table.put]
    split
    · simp [Table.find]
    · split
      · simp [Table.find]
      · next h1 h2 => simp only [Table.find]; rw [if_neg h2]; exact ih

/-- Writing an entry leaves every other key alone. -/
@[simp] theorem Table.find_put_ne {k k' : Nat} (h : k' ≠ k) (v : α) (t : Table α) :
    (t.put k v).find k' = t.find k' := by
  induction t with
  | nil => simp [Table.put, Table.find, h]
  | cons e t ih =>
    obtain ⟨k2, v2⟩ := e
    simp only [Table.put]
    split
    · simp only [Table.find]; rw [if_neg h]
    · split
      · next h1 h2 => subst h2; simp only [Table.find]; rw [if_neg h, if_neg h]
      · simp only [Table.find]; rw [ih]

/-- Removing an entry leaves every other key alone. -/
@[simp] theorem Table.find_del_ne {k k' : Nat} (h : k' ≠ k) (t : Table α) : (t.del k).find k' = t.find k' := by
  induction t with
  | nil => rfl
  | cons e t ih =>
    obtain ⟨k2, v2⟩ := e
    simp only [Table.del]
    split
    · next h1 => subst h1; simp only [Table.find]; rw [if_neg h]
    · simp only [Table.find]; rw [ih]

/-- A removed key is not listed, in a table whose keys rise. -/
@[simp] theorem Table.find_del_self {k : Nat} {t : Table α} (h : t.sorted = true) : (t.del k).find k = none := by
  induction t with
  | nil => rfl
  | cons e t ih =>
    obtain ⟨k2, v2⟩ := e
    rw [Table.sorted_cons] at h
    simp only [Table.del]
    split
    · next h1 => subst h1; exact Table.find_of_above h.2
    · next h1 => simp only [Table.find]; rw [if_neg h1]; exact ih h.1

variable [DecidableEq α]

@[simp] theorem Table.get_set_ne {d : α} {k k' : Nat} (h : k' ≠ k) (v : α) (t : Table α) :
    (t.set d k v).get d k' = t.get d k' := by
  unfold Table.set Table.get
  split
  · rw [Table.find_del_ne h]
  · rw [Table.find_put_ne h]

@[simp] theorem Table.get_set_self {d : α} {k : Nat} {t : Table α} (h : t.sorted = true) (v : α) :
    (t.set d k v).get d k = v := by
  unfold Table.set Table.get
  split
  · next hv => rw [Table.find_del_self h]; exact hv.symm
  · rw [Table.find_put_self]; rfl

omit [DecidableEq α] in
theorem Table.mem_put {k : Nat} {v : α} {t : Table α} {e : Nat × α} (h : e ∈ t.put k v) : e = (k, v) ∨ e ∈ t := by
  induction t with
  | nil => simp only [Table.put, List.mem_singleton] at h; exact .inl h
  | cons x t ih =>
    obtain ⟨k2, v2⟩ := x
    simp only [Table.put] at h
    split at h
    · simpa using h
    · split at h
      · simp only [List.mem_cons] at h ⊢; tauto
      · simp only [List.mem_cons] at h ⊢; rcases h with h | h
        · exact .inr (.inl h)
        · rcases ih h with h | h <;> tauto

omit [DecidableEq α] in
theorem Table.mem_del {k : Nat} {t : Table α} {e : Nat × α} (h : e ∈ t.del k) : e ∈ t := by
  induction t with
  | nil => exact h
  | cons x t ih =>
    obtain ⟨k2, v2⟩ := x
    simp only [Table.del] at h
    split at h
    · exact List.mem_cons_of_mem _ h
    · simp only [List.mem_cons] at h ⊢; rcases h with h | h
      · exact .inl h
      · exact .inr (ih h)

/-- Writing keeps the canonical form. -/
theorem Table.wf_set {d : α} {k : Nat} {v : α} {t : Table α} (h : t.wf d = true) : (t.set d k v).wf d = true := by
  simp only [Table.wf, Bool.and_eq_true, List.all_eq_true, decide_eq_true_eq] at h ⊢
  unfold Table.set
  split
  · exact ⟨Table.sorted_del h.1, fun e he => h.2 e (Table.mem_del he)⟩
  · next hv =>
    refine ⟨Table.sorted_put h.1, fun e he => ?_⟩
    rcases Table.mem_put he with rfl | he
    exacts [hv, h.2 e he]

theorem Table.wf_sorted {d : α} {t : Table α} (h : t.wf d = true) : t.sorted = true := by
  simp only [Table.wf, Bool.and_eq_true] at h; exact h.1

omit [DecidableEq α] in
theorem Table.find_eq_of_mem_above {t : Table α} {k : Nat} (h : ∀ e ∈ t, k ≠ e.1) : t.find k = none := by
  induction t with
  | nil => rfl
  | cons e t ih =>
    obtain ⟨k', v⟩ := e
    simp only [Table.find]
    rw [if_neg (h (k', v) (by simp))]
    exact ih fun e he => h e (by simp [he])

/-- Two canonical tables that read the same everywhere are equal. -/
theorem Table.ext_of_get {d : α} {t u : Table α} (ht : t.wf d = true) (hu : u.wf d = true)
    (h : ∀ k, t.get d k = u.get d k) : t = u := by
  simp only [Table.wf, Bool.and_eq_true, List.all_eq_true, decide_eq_true_eq] at ht hu
  obtain ⟨ht, hdt⟩ := ht
  obtain ⟨hu, hdu⟩ := hu
  have key : ∀ k, t.find k = u.find k := by
    have aux : ∀ (t : Table α), (∀ e ∈ t, e.2 ≠ d) → ∀ k v, t.find k = some v → v ≠ d := by
      intro t hd k v hf
      induction t with
      | nil => simp at hf
      | cons e t ih =>
        obtain ⟨k', v'⟩ := e
        simp only [Table.find] at hf
        split at hf
        · simp only [Option.some.injEq] at hf; subst hf; exact hd (k', v') (by simp)
        · exact ih (fun e he => hd e (by simp [he])) hf
    intro k
    have hk := h k
    unfold Table.get at hk
    rcases h1 : t.find k with _ | v <;> rcases h2 : u.find k with _ | w <;> rw [h1, h2] at hk <;>
      simp only [Option.getD_none, Option.getD_some] at hk
    · exact absurd hk.symm (aux u hdu k w h2)
    · exact absurd hk (aux t hdt k v h1)
    · rw [hk]
  clear h hdt hdu
  induction t generalizing u with
  | nil =>
    cases u with
    | nil => rfl
    | cons e u => have := key e.1; simp [Table.find] at this
  | cons e t ih =>
    obtain ⟨k, v⟩ := e
    cases u with
    | nil => have := key k; simp [Table.find] at this
    | cons e' u =>
      obtain ⟨k', v'⟩ := e'
      rw [Table.sorted_cons] at ht hu
      have hkk : k = k' := by
        rcases lt_trichotomy k k' with hlt | heq | hgt
        · have h1 := key k
          simp only [Table.find] at h1
          rw [if_neg (show ¬ k = k' by omega), Table.find_of_above (Table.above_mono (le_of_lt hlt) hu.2)] at h1
          simp at h1
        · exact heq
        · have h1 := key k'
          simp only [Table.find] at h1
          rw [if_neg (show ¬ k' = k by omega), Table.find_of_above (Table.above_mono (le_of_lt hgt) ht.2)] at h1
          simp at h1
      subst hkk
      have hv : v = v' := by have := key k; simpa [Table.find] using this
      subst hv
      congr 1
      refine ih ht.1 hu.1 fun j => ?_
      by_cases hj : j = k
      · subst hj; rw [Table.find_of_above ht.2, Table.find_of_above hu.2]
      · have := key j; simpa [Table.find, hj] using this

/-! ### Record memory -/

/-- Reading the byte just written, in an area of canonical form. -/
theorem Memory.read_write_self {m : List Host.Cell} (h : Memory.wf m = true) (a : Nat) (b : Byte) :
    Memory.read (Memory.write m a b) a = b := Table.get_set_self (Table.wf_sorted h) b

/-- Writing a byte leaves every other byte alone. -/
theorem Memory.read_write_ne {m : List Host.Cell} {a a' : Nat} (h : a' ≠ a) (b : Byte) :
    Memory.read (Memory.write m a b) a' = Memory.read m a' := Table.get_set_ne h b m

/-- A write keeps the canonical form. -/
theorem Memory.wf_write {m : List Host.Cell} (h : Memory.wf m = true) (a : Nat) (b : Byte) :
    Memory.wf (Memory.write m a b) = true := Table.wf_set h

/-- A write of several bytes keeps the canonical form. -/
theorem Memory.wf_writeBytes {m : List Host.Cell} (h : Memory.wf m = true) (a : Nat) (bs : List Byte) :
    Memory.wf (Memory.writeBytes m a bs) = true := by
  induction bs generalizing m a with
  | nil => exact h
  | cons b bs ih => exact ih (Memory.wf_write h a b) (a + 1)

/-- A disturbance keeps the canonical form. -/
theorem Memory.wf_spoil {m : List Host.Cell} (h : Memory.wf m = true) (cs : List Host.Cell) :
    Memory.wf (Memory.spoil m cs) = true := by
  induction cs generalizing m with
  | nil => exact h
  | cons c cs ih => exact ih (Memory.wf_write h c.1 c.2)

/-- A write of several bytes leaves the bytes outside them alone. -/
theorem Memory.read_writeBytes_outside (m : List Host.Cell) (a : Nat) (bs : List Byte) (x : Nat)
    (h : x < a ∨ a + bs.length ≤ x) : Memory.read (Memory.writeBytes m a bs) x = Memory.read m x := by
  induction bs generalizing m a with
  | nil => rfl
  | cons b bs ih =>
    simp only [List.length_cons] at h
    simp only [Memory.writeBytes]
    rw [ih (Memory.write m a b) (a + 1) (by omega), Memory.read_write_ne (by omega)]

/-- The bytes just written read back. -/
theorem Memory.readBytes_writeBytes {m : List Host.Cell} (h : Memory.wf m = true) (a : Nat) (bs : List Byte) :
    Memory.readBytes (Memory.writeBytes m a bs) a bs.length = bs := by
  induction bs generalizing m a with
  | nil => rfl
  | cons b bs ih =>
    simp only [Memory.writeBytes, List.length_cons, Memory.readBytes]
    rw [Memory.read_writeBytes_outside _ _ _ _ (by omega), Memory.read_write_self h, ih (Memory.wf_write h a b)]

end Sys2Proof.Machine
end

