-- ==== Sys2Proof/Laws/State.lean ====
section
/-! SUPPORT. What each update of the state leaves alone: one lemma per update and field, true by definition. -/

namespace Sys2Proof.Machine.State

/-! ### setRadio changes `radios` only -/

@[simp] theorem setRadio_pending (s : State) (r : Nat) (v : Radio) : (s.setRadio r v).pending = s.pending := rfl
@[simp] theorem setRadio_venueTime (s : State) (r : Nat) (v : Radio) : (s.setRadio r v).venueTime = s.venueTime := rfl
@[simp] theorem setRadio_factory (s : State) (r : Nat) (v : Radio) : (s.setRadio r v).factory = s.factory := rfl
@[simp] theorem setRadio_surgeLine (s : State) (r : Nat) (v : Radio) : (s.setRadio r v).surgeLine = s.surgeLine := rfl
@[simp] theorem setRadio_uplink (s : State) (r : Nat) (v : Radio) : (s.setRadio r v).uplink = s.uplink := rfl
@[simp] theorem setRadio_ports (s : State) (r : Nat) (v : Radio) : (s.setRadio r v).ports = s.ports := rfl
@[simp] theorem setRadio_stations (s : State) (r : Nat) (v : Radio) : (s.setRadio r v).stations = s.stations := rfl
@[simp] theorem setRadio_stationCtrs (s : State) (r : Nat) (v : Radio) : (s.setRadio r v).stationCtrs = s.stationCtrs := rfl
@[simp] theorem setRadio_roam (s : State) (r : Nat) (v : Radio) : (s.setRadio r v).roam = s.roam := rfl
@[simp] theorem setRadio_egress (s : State) (r : Nat) (v : Radio) : (s.setRadio r v).egress = s.egress := rfl
@[simp] theorem setRadio_gov (s : State) (r : Nat) (v : Radio) : (s.setRadio r v).gov = s.gov := rfl
@[simp] theorem setRadio_adm (s : State) (r : Nat) (v : Radio) : (s.setRadio r v).adm = s.adm := rfl
@[simp] theorem setRadio_replay (s : State) (r : Nat) (v : Radio) : (s.setRadio r v).replay = s.replay := rfl
@[simp] theorem setRadio_mem (s : State) (r : Nat) (v : Radio) : (s.setRadio r v).mem = s.mem := rfl
@[simp] theorem setRadio_mgmt (s : State) (r : Nat) (v : Radio) : (s.setRadio r v).mgmt = s.mgmt := rfl
@[simp] theorem setRadio_err (s : State) (r : Nat) (v : Radio) : (s.setRadio r v).err = s.err := rfl
@[simp] theorem setRadio_ev (s : State) (r : Nat) (v : Radio) : (s.setRadio r v).ev = s.ev := rfl
@[simp] theorem setRadio_draws (s : State) (r : Nat) (v : Radio) : (s.setRadio r v).draws = s.draws := rfl

/-! ### setPort changes `ports` only -/

@[simp] theorem setPort_pending (s : State) (p : Nat) (v : Port) : (s.setPort p v).pending = s.pending := rfl
@[simp] theorem setPort_venueTime (s : State) (p : Nat) (v : Port) : (s.setPort p v).venueTime = s.venueTime := rfl
@[simp] theorem setPort_factory (s : State) (p : Nat) (v : Port) : (s.setPort p v).factory = s.factory := rfl
@[simp] theorem setPort_surgeLine (s : State) (p : Nat) (v : Port) : (s.setPort p v).surgeLine = s.surgeLine := rfl
@[simp] theorem setPort_uplink (s : State) (p : Nat) (v : Port) : (s.setPort p v).uplink = s.uplink := rfl
@[simp] theorem setPort_stations (s : State) (p : Nat) (v : Port) : (s.setPort p v).stations = s.stations := rfl
@[simp] theorem setPort_stationCtrs (s : State) (p : Nat) (v : Port) : (s.setPort p v).stationCtrs = s.stationCtrs := rfl
@[simp] theorem setPort_radios (s : State) (p : Nat) (v : Port) : (s.setPort p v).radios = s.radios := rfl
@[simp] theorem setPort_roam (s : State) (p : Nat) (v : Port) : (s.setPort p v).roam = s.roam := rfl
@[simp] theorem setPort_egress (s : State) (p : Nat) (v : Port) : (s.setPort p v).egress = s.egress := rfl
@[simp] theorem setPort_gov (s : State) (p : Nat) (v : Port) : (s.setPort p v).gov = s.gov := rfl
@[simp] theorem setPort_adm (s : State) (p : Nat) (v : Port) : (s.setPort p v).adm = s.adm := rfl
@[simp] theorem setPort_replay (s : State) (p : Nat) (v : Port) : (s.setPort p v).replay = s.replay := rfl
@[simp] theorem setPort_mem (s : State) (p : Nat) (v : Port) : (s.setPort p v).mem = s.mem := rfl
@[simp] theorem setPort_mgmt (s : State) (p : Nat) (v : Port) : (s.setPort p v).mgmt = s.mgmt := rfl
@[simp] theorem setPort_err (s : State) (p : Nat) (v : Port) : (s.setPort p v).err = s.err := rfl
@[simp] theorem setPort_ev (s : State) (p : Nat) (v : Port) : (s.setPort p v).ev = s.ev := rfl
@[simp] theorem setPort_draws (s : State) (p : Nat) (v : Port) : (s.setPort p v).draws = s.draws := rfl

/-! ### setStation changes `stations` only -/

@[simp] theorem setStation_pending (s : State) (h : Nat) (v : Station) : (s.setStation h v).pending = s.pending := rfl
@[simp] theorem setStation_venueTime (s : State) (h : Nat) (v : Station) : (s.setStation h v).venueTime = s.venueTime := rfl
@[simp] theorem setStation_factory (s : State) (h : Nat) (v : Station) : (s.setStation h v).factory = s.factory := rfl
@[simp] theorem setStation_surgeLine (s : State) (h : Nat) (v : Station) : (s.setStation h v).surgeLine = s.surgeLine := rfl
@[simp] theorem setStation_uplink (s : State) (h : Nat) (v : Station) : (s.setStation h v).uplink = s.uplink := rfl
@[simp] theorem setStation_ports (s : State) (h : Nat) (v : Station) : (s.setStation h v).ports = s.ports := rfl
@[simp] theorem setStation_stationCtrs (s : State) (h : Nat) (v : Station) : (s.setStation h v).stationCtrs = s.stationCtrs := rfl
@[simp] theorem setStation_radios (s : State) (h : Nat) (v : Station) : (s.setStation h v).radios = s.radios := rfl
@[simp] theorem setStation_roam (s : State) (h : Nat) (v : Station) : (s.setStation h v).roam = s.roam := rfl
@[simp] theorem setStation_egress (s : State) (h : Nat) (v : Station) : (s.setStation h v).egress = s.egress := rfl
@[simp] theorem setStation_gov (s : State) (h : Nat) (v : Station) : (s.setStation h v).gov = s.gov := rfl
@[simp] theorem setStation_adm (s : State) (h : Nat) (v : Station) : (s.setStation h v).adm = s.adm := rfl
@[simp] theorem setStation_replay (s : State) (h : Nat) (v : Station) : (s.setStation h v).replay = s.replay := rfl
@[simp] theorem setStation_mem (s : State) (h : Nat) (v : Station) : (s.setStation h v).mem = s.mem := rfl
@[simp] theorem setStation_mgmt (s : State) (h : Nat) (v : Station) : (s.setStation h v).mgmt = s.mgmt := rfl
@[simp] theorem setStation_err (s : State) (h : Nat) (v : Station) : (s.setStation h v).err = s.err := rfl
@[simp] theorem setStation_ev (s : State) (h : Nat) (v : Station) : (s.setStation h v).ev = s.ev := rfl
@[simp] theorem setStation_draws (s : State) (h : Nat) (v : Station) : (s.setStation h v).draws = s.draws := rfl

/-! ### delStation changes `stations` only -/

@[simp] theorem delStation_pending (s : State) (h : Nat) : (s.delStation h).pending = s.pending := rfl
@[simp] theorem delStation_venueTime (s : State) (h : Nat) : (s.delStation h).venueTime = s.venueTime := rfl
@[simp] theorem delStation_factory (s : State) (h : Nat) : (s.delStation h).factory = s.factory := rfl
@[simp] theorem delStation_surgeLine (s : State) (h : Nat) : (s.delStation h).surgeLine = s.surgeLine := rfl
@[simp] theorem delStation_uplink (s : State) (h : Nat) : (s.delStation h).uplink = s.uplink := rfl
@[simp] theorem delStation_ports (s : State) (h : Nat) : (s.delStation h).ports = s.ports := rfl
@[simp] theorem delStation_stationCtrs (s : State) (h : Nat) : (s.delStation h).stationCtrs = s.stationCtrs := rfl
@[simp] theorem delStation_radios (s : State) (h : Nat) : (s.delStation h).radios = s.radios := rfl
@[simp] theorem delStation_roam (s : State) (h : Nat) : (s.delStation h).roam = s.roam := rfl
@[simp] theorem delStation_egress (s : State) (h : Nat) : (s.delStation h).egress = s.egress := rfl
@[simp] theorem delStation_gov (s : State) (h : Nat) : (s.delStation h).gov = s.gov := rfl
@[simp] theorem delStation_adm (s : State) (h : Nat) : (s.delStation h).adm = s.adm := rfl
@[simp] theorem delStation_replay (s : State) (h : Nat) : (s.delStation h).replay = s.replay := rfl
@[simp] theorem delStation_mem (s : State) (h : Nat) : (s.delStation h).mem = s.mem := rfl
@[simp] theorem delStation_mgmt (s : State) (h : Nat) : (s.delStation h).mgmt = s.mgmt := rfl
@[simp] theorem delStation_err (s : State) (h : Nat) : (s.delStation h).err = s.err := rfl
@[simp] theorem delStation_ev (s : State) (h : Nat) : (s.delStation h).ev = s.ev := rfl
@[simp] theorem delStation_draws (s : State) (h : Nat) : (s.delStation h).draws = s.draws := rfl

/-! ### modStationCtrs changes `stationCtrs` only -/

@[simp] theorem modStationCtrs_pending (s : State) (f : StationCtrs → StationCtrs) : (s.modStationCtrs f).pending = s.pending := rfl
@[simp] theorem modStationCtrs_venueTime (s : State) (f : StationCtrs → StationCtrs) : (s.modStationCtrs f).venueTime = s.venueTime := rfl
@[simp] theorem modStationCtrs_factory (s : State) (f : StationCtrs → StationCtrs) : (s.modStationCtrs f).factory = s.factory := rfl
@[simp] theorem modStationCtrs_surgeLine (s : State) (f : StationCtrs → StationCtrs) : (s.modStationCtrs f).surgeLine = s.surgeLine := rfl
@[simp] theorem modStationCtrs_uplink (s : State) (f : StationCtrs → StationCtrs) : (s.modStationCtrs f).uplink = s.uplink := rfl
@[simp] theorem modStationCtrs_ports (s : State) (f : StationCtrs → StationCtrs) : (s.modStationCtrs f).ports = s.ports := rfl
@[simp] theorem modStationCtrs_stations (s : State) (f : StationCtrs → StationCtrs) : (s.modStationCtrs f).stations = s.stations := rfl
@[simp] theorem modStationCtrs_radios (s : State) (f : StationCtrs → StationCtrs) : (s.modStationCtrs f).radios = s.radios := rfl
@[simp] theorem modStationCtrs_roam (s : State) (f : StationCtrs → StationCtrs) : (s.modStationCtrs f).roam = s.roam := rfl
@[simp] theorem modStationCtrs_egress (s : State) (f : StationCtrs → StationCtrs) : (s.modStationCtrs f).egress = s.egress := rfl
@[simp] theorem modStationCtrs_gov (s : State) (f : StationCtrs → StationCtrs) : (s.modStationCtrs f).gov = s.gov := rfl
@[simp] theorem modStationCtrs_adm (s : State) (f : StationCtrs → StationCtrs) : (s.modStationCtrs f).adm = s.adm := rfl
@[simp] theorem modStationCtrs_replay (s : State) (f : StationCtrs → StationCtrs) : (s.modStationCtrs f).replay = s.replay := rfl
@[simp] theorem modStationCtrs_mem (s : State) (f : StationCtrs → StationCtrs) : (s.modStationCtrs f).mem = s.mem := rfl
@[simp] theorem modStationCtrs_mgmt (s : State) (f : StationCtrs → StationCtrs) : (s.modStationCtrs f).mgmt = s.mgmt := rfl
@[simp] theorem modStationCtrs_err (s : State) (f : StationCtrs → StationCtrs) : (s.modStationCtrs f).err = s.err := rfl
@[simp] theorem modStationCtrs_ev (s : State) (f : StationCtrs → StationCtrs) : (s.modStationCtrs f).ev = s.ev := rfl
@[simp] theorem modStationCtrs_draws (s : State) (f : StationCtrs → StationCtrs) : (s.modStationCtrs f).draws = s.draws := rfl

/-! ### modRoam changes `roam` only -/

@[simp] theorem modRoam_pending (s : State) (f : Roam → Roam) : (s.modRoam f).pending = s.pending := rfl
@[simp] theorem modRoam_venueTime (s : State) (f : Roam → Roam) : (s.modRoam f).venueTime = s.venueTime := rfl
@[simp] theorem modRoam_factory (s : State) (f : Roam → Roam) : (s.modRoam f).factory = s.factory := rfl
@[simp] theorem modRoam_surgeLine (s : State) (f : Roam → Roam) : (s.modRoam f).surgeLine = s.surgeLine := rfl
@[simp] theorem modRoam_uplink (s : State) (f : Roam → Roam) : (s.modRoam f).uplink = s.uplink := rfl
@[simp] theorem modRoam_ports (s : State) (f : Roam → Roam) : (s.modRoam f).ports = s.ports := rfl
@[simp] theorem modRoam_stations (s : State) (f : Roam → Roam) : (s.modRoam f).stations = s.stations := rfl
@[simp] theorem modRoam_stationCtrs (s : State) (f : Roam → Roam) : (s.modRoam f).stationCtrs = s.stationCtrs := rfl
@[simp] theorem modRoam_radios (s : State) (f : Roam → Roam) : (s.modRoam f).radios = s.radios := rfl
@[simp] theorem modRoam_egress (s : State) (f : Roam → Roam) : (s.modRoam f).egress = s.egress := rfl
@[simp] theorem modRoam_gov (s : State) (f : Roam → Roam) : (s.modRoam f).gov = s.gov := rfl
@[simp] theorem modRoam_adm (s : State) (f : Roam → Roam) : (s.modRoam f).adm = s.adm := rfl
@[simp] theorem modRoam_replay (s : State) (f : Roam → Roam) : (s.modRoam f).replay = s.replay := rfl
@[simp] theorem modRoam_mem (s : State) (f : Roam → Roam) : (s.modRoam f).mem = s.mem := rfl
@[simp] theorem modRoam_mgmt (s : State) (f : Roam → Roam) : (s.modRoam f).mgmt = s.mgmt := rfl
@[simp] theorem modRoam_err (s : State) (f : Roam → Roam) : (s.modRoam f).err = s.err := rfl
@[simp] theorem modRoam_ev (s : State) (f : Roam → Roam) : (s.modRoam f).ev = s.ev := rfl
@[simp] theorem modRoam_draws (s : State) (f : Roam → Roam) : (s.modRoam f).draws = s.draws := rfl

/-! ### modRoamCtrs changes `roam` only -/

@[simp] theorem modRoamCtrs_pending (s : State) (f : RoamCtrs → RoamCtrs) : (s.modRoamCtrs f).pending = s.pending := rfl
@[simp] theorem modRoamCtrs_venueTime (s : State) (f : RoamCtrs → RoamCtrs) : (s.modRoamCtrs f).venueTime = s.venueTime := rfl
@[simp] theorem modRoamCtrs_factory (s : State) (f : RoamCtrs → RoamCtrs) : (s.modRoamCtrs f).factory = s.factory := rfl
@[simp] theorem modRoamCtrs_surgeLine (s : State) (f : RoamCtrs → RoamCtrs) : (s.modRoamCtrs f).surgeLine = s.surgeLine := rfl
@[simp] theorem modRoamCtrs_uplink (s : State) (f : RoamCtrs → RoamCtrs) : (s.modRoamCtrs f).uplink = s.uplink := rfl
@[simp] theorem modRoamCtrs_ports (s : State) (f : RoamCtrs → RoamCtrs) : (s.modRoamCtrs f).ports = s.ports := rfl
@[simp] theorem modRoamCtrs_stations (s : State) (f : RoamCtrs → RoamCtrs) : (s.modRoamCtrs f).stations = s.stations := rfl
@[simp] theorem modRoamCtrs_stationCtrs (s : State) (f : RoamCtrs → RoamCtrs) : (s.modRoamCtrs f).stationCtrs = s.stationCtrs := rfl
@[simp] theorem modRoamCtrs_radios (s : State) (f : RoamCtrs → RoamCtrs) : (s.modRoamCtrs f).radios = s.radios := rfl
@[simp] theorem modRoamCtrs_egress (s : State) (f : RoamCtrs → RoamCtrs) : (s.modRoamCtrs f).egress = s.egress := rfl
@[simp] theorem modRoamCtrs_gov (s : State) (f : RoamCtrs → RoamCtrs) : (s.modRoamCtrs f).gov = s.gov := rfl
@[simp] theorem modRoamCtrs_adm (s : State) (f : RoamCtrs → RoamCtrs) : (s.modRoamCtrs f).adm = s.adm := rfl
@[simp] theorem modRoamCtrs_replay (s : State) (f : RoamCtrs → RoamCtrs) : (s.modRoamCtrs f).replay = s.replay := rfl
@[simp] theorem modRoamCtrs_mem (s : State) (f : RoamCtrs → RoamCtrs) : (s.modRoamCtrs f).mem = s.mem := rfl
@[simp] theorem modRoamCtrs_mgmt (s : State) (f : RoamCtrs → RoamCtrs) : (s.modRoamCtrs f).mgmt = s.mgmt := rfl
@[simp] theorem modRoamCtrs_err (s : State) (f : RoamCtrs → RoamCtrs) : (s.modRoamCtrs f).err = s.err := rfl
@[simp] theorem modRoamCtrs_ev (s : State) (f : RoamCtrs → RoamCtrs) : (s.modRoamCtrs f).ev = s.ev := rfl
@[simp] theorem modRoamCtrs_draws (s : State) (f : RoamCtrs → RoamCtrs) : (s.modRoamCtrs f).draws = s.draws := rfl

/-! ### modUplinkCtrs changes `uplink` only -/

@[simp] theorem modUplinkCtrs_pending (s : State) (f : UplinkCtrs → UplinkCtrs) : (s.modUplinkCtrs f).pending = s.pending := rfl
@[simp] theorem modUplinkCtrs_venueTime (s : State) (f : UplinkCtrs → UplinkCtrs) : (s.modUplinkCtrs f).venueTime = s.venueTime := rfl
@[simp] theorem modUplinkCtrs_factory (s : State) (f : UplinkCtrs → UplinkCtrs) : (s.modUplinkCtrs f).factory = s.factory := rfl
@[simp] theorem modUplinkCtrs_surgeLine (s : State) (f : UplinkCtrs → UplinkCtrs) : (s.modUplinkCtrs f).surgeLine = s.surgeLine := rfl
@[simp] theorem modUplinkCtrs_ports (s : State) (f : UplinkCtrs → UplinkCtrs) : (s.modUplinkCtrs f).ports = s.ports := rfl
@[simp] theorem modUplinkCtrs_stations (s : State) (f : UplinkCtrs → UplinkCtrs) : (s.modUplinkCtrs f).stations = s.stations := rfl
@[simp] theorem modUplinkCtrs_stationCtrs (s : State) (f : UplinkCtrs → UplinkCtrs) : (s.modUplinkCtrs f).stationCtrs = s.stationCtrs := rfl
@[simp] theorem modUplinkCtrs_radios (s : State) (f : UplinkCtrs → UplinkCtrs) : (s.modUplinkCtrs f).radios = s.radios := rfl
@[simp] theorem modUplinkCtrs_roam (s : State) (f : UplinkCtrs → UplinkCtrs) : (s.modUplinkCtrs f).roam = s.roam := rfl
@[simp] theorem modUplinkCtrs_egress (s : State) (f : UplinkCtrs → UplinkCtrs) : (s.modUplinkCtrs f).egress = s.egress := rfl
@[simp] theorem modUplinkCtrs_gov (s : State) (f : UplinkCtrs → UplinkCtrs) : (s.modUplinkCtrs f).gov = s.gov := rfl
@[simp] theorem modUplinkCtrs_adm (s : State) (f : UplinkCtrs → UplinkCtrs) : (s.modUplinkCtrs f).adm = s.adm := rfl
@[simp] theorem modUplinkCtrs_replay (s : State) (f : UplinkCtrs → UplinkCtrs) : (s.modUplinkCtrs f).replay = s.replay := rfl
@[simp] theorem modUplinkCtrs_mem (s : State) (f : UplinkCtrs → UplinkCtrs) : (s.modUplinkCtrs f).mem = s.mem := rfl
@[simp] theorem modUplinkCtrs_mgmt (s : State) (f : UplinkCtrs → UplinkCtrs) : (s.modUplinkCtrs f).mgmt = s.mgmt := rfl
@[simp] theorem modUplinkCtrs_err (s : State) (f : UplinkCtrs → UplinkCtrs) : (s.modUplinkCtrs f).err = s.err := rfl
@[simp] theorem modUplinkCtrs_ev (s : State) (f : UplinkCtrs → UplinkCtrs) : (s.modUplinkCtrs f).ev = s.ev := rfl
@[simp] theorem modUplinkCtrs_draws (s : State) (f : UplinkCtrs → UplinkCtrs) : (s.modUplinkCtrs f).draws = s.draws := rfl

/-! ### sendUplink changes `uplink` only -/

@[simp] theorem sendUplink_pending (s : State) (o : UplinkOut) : (s.sendUplink o).pending = s.pending := rfl
@[simp] theorem sendUplink_venueTime (s : State) (o : UplinkOut) : (s.sendUplink o).venueTime = s.venueTime := rfl
@[simp] theorem sendUplink_factory (s : State) (o : UplinkOut) : (s.sendUplink o).factory = s.factory := rfl
@[simp] theorem sendUplink_surgeLine (s : State) (o : UplinkOut) : (s.sendUplink o).surgeLine = s.surgeLine := rfl
@[simp] theorem sendUplink_ports (s : State) (o : UplinkOut) : (s.sendUplink o).ports = s.ports := rfl
@[simp] theorem sendUplink_stations (s : State) (o : UplinkOut) : (s.sendUplink o).stations = s.stations := rfl
@[simp] theorem sendUplink_stationCtrs (s : State) (o : UplinkOut) : (s.sendUplink o).stationCtrs = s.stationCtrs := rfl
@[simp] theorem sendUplink_radios (s : State) (o : UplinkOut) : (s.sendUplink o).radios = s.radios := rfl
@[simp] theorem sendUplink_roam (s : State) (o : UplinkOut) : (s.sendUplink o).roam = s.roam := rfl
@[simp] theorem sendUplink_egress (s : State) (o : UplinkOut) : (s.sendUplink o).egress = s.egress := rfl
@[simp] theorem sendUplink_gov (s : State) (o : UplinkOut) : (s.sendUplink o).gov = s.gov := rfl
@[simp] theorem sendUplink_adm (s : State) (o : UplinkOut) : (s.sendUplink o).adm = s.adm := rfl
@[simp] theorem sendUplink_replay (s : State) (o : UplinkOut) : (s.sendUplink o).replay = s.replay := rfl
@[simp] theorem sendUplink_mem (s : State) (o : UplinkOut) : (s.sendUplink o).mem = s.mem := rfl
@[simp] theorem sendUplink_mgmt (s : State) (o : UplinkOut) : (s.sendUplink o).mgmt = s.mgmt := rfl
@[simp] theorem sendUplink_err (s : State) (o : UplinkOut) : (s.sendUplink o).err = s.err := rfl
@[simp] theorem sendUplink_ev (s : State) (o : UplinkOut) : (s.sendUplink o).ev = s.ev := rfl
@[simp] theorem sendUplink_draws (s : State) (o : UplinkOut) : (s.sendUplink o).draws = s.draws := rfl

/-! ### modAdm changes `adm` only -/

@[simp] theorem modAdm_pending (s : State) (f : Admission → Admission) : (s.modAdm f).pending = s.pending := rfl
@[simp] theorem modAdm_venueTime (s : State) (f : Admission → Admission) : (s.modAdm f).venueTime = s.venueTime := rfl
@[simp] theorem modAdm_factory (s : State) (f : Admission → Admission) : (s.modAdm f).factory = s.factory := rfl
@[simp] theorem modAdm_surgeLine (s : State) (f : Admission → Admission) : (s.modAdm f).surgeLine = s.surgeLine := rfl
@[simp] theorem modAdm_uplink (s : State) (f : Admission → Admission) : (s.modAdm f).uplink = s.uplink := rfl
@[simp] theorem modAdm_ports (s : State) (f : Admission → Admission) : (s.modAdm f).ports = s.ports := rfl
@[simp] theorem modAdm_stations (s : State) (f : Admission → Admission) : (s.modAdm f).stations = s.stations := rfl
@[simp] theorem modAdm_stationCtrs (s : State) (f : Admission → Admission) : (s.modAdm f).stationCtrs = s.stationCtrs := rfl
@[simp] theorem modAdm_radios (s : State) (f : Admission → Admission) : (s.modAdm f).radios = s.radios := rfl
@[simp] theorem modAdm_roam (s : State) (f : Admission → Admission) : (s.modAdm f).roam = s.roam := rfl
@[simp] theorem modAdm_egress (s : State) (f : Admission → Admission) : (s.modAdm f).egress = s.egress := rfl
@[simp] theorem modAdm_gov (s : State) (f : Admission → Admission) : (s.modAdm f).gov = s.gov := rfl
@[simp] theorem modAdm_replay (s : State) (f : Admission → Admission) : (s.modAdm f).replay = s.replay := rfl
@[simp] theorem modAdm_mem (s : State) (f : Admission → Admission) : (s.modAdm f).mem = s.mem := rfl
@[simp] theorem modAdm_mgmt (s : State) (f : Admission → Admission) : (s.modAdm f).mgmt = s.mgmt := rfl
@[simp] theorem modAdm_err (s : State) (f : Admission → Admission) : (s.modAdm f).err = s.err := rfl
@[simp] theorem modAdm_ev (s : State) (f : Admission → Admission) : (s.modAdm f).ev = s.ev := rfl
@[simp] theorem modAdm_draws (s : State) (f : Admission → Admission) : (s.modAdm f).draws = s.draws := rfl

/-! ### modAdmCtrs changes `adm` only -/

@[simp] theorem modAdmCtrs_pending (s : State) (f : AdmCtrs → AdmCtrs) : (s.modAdmCtrs f).pending = s.pending := rfl
@[simp] theorem modAdmCtrs_venueTime (s : State) (f : AdmCtrs → AdmCtrs) : (s.modAdmCtrs f).venueTime = s.venueTime := rfl
@[simp] theorem modAdmCtrs_factory (s : State) (f : AdmCtrs → AdmCtrs) : (s.modAdmCtrs f).factory = s.factory := rfl
@[simp] theorem modAdmCtrs_surgeLine (s : State) (f : AdmCtrs → AdmCtrs) : (s.modAdmCtrs f).surgeLine = s.surgeLine := rfl
@[simp] theorem modAdmCtrs_uplink (s : State) (f : AdmCtrs → AdmCtrs) : (s.modAdmCtrs f).uplink = s.uplink := rfl
@[simp] theorem modAdmCtrs_ports (s : State) (f : AdmCtrs → AdmCtrs) : (s.modAdmCtrs f).ports = s.ports := rfl
@[simp] theorem modAdmCtrs_stations (s : State) (f : AdmCtrs → AdmCtrs) : (s.modAdmCtrs f).stations = s.stations := rfl
@[simp] theorem modAdmCtrs_stationCtrs (s : State) (f : AdmCtrs → AdmCtrs) : (s.modAdmCtrs f).stationCtrs = s.stationCtrs := rfl
@[simp] theorem modAdmCtrs_radios (s : State) (f : AdmCtrs → AdmCtrs) : (s.modAdmCtrs f).radios = s.radios := rfl
@[simp] theorem modAdmCtrs_roam (s : State) (f : AdmCtrs → AdmCtrs) : (s.modAdmCtrs f).roam = s.roam := rfl
@[simp] theorem modAdmCtrs_egress (s : State) (f : AdmCtrs → AdmCtrs) : (s.modAdmCtrs f).egress = s.egress := rfl
@[simp] theorem modAdmCtrs_gov (s : State) (f : AdmCtrs → AdmCtrs) : (s.modAdmCtrs f).gov = s.gov := rfl
@[simp] theorem modAdmCtrs_replay (s : State) (f : AdmCtrs → AdmCtrs) : (s.modAdmCtrs f).replay = s.replay := rfl
@[simp] theorem modAdmCtrs_mem (s : State) (f : AdmCtrs → AdmCtrs) : (s.modAdmCtrs f).mem = s.mem := rfl
@[simp] theorem modAdmCtrs_mgmt (s : State) (f : AdmCtrs → AdmCtrs) : (s.modAdmCtrs f).mgmt = s.mgmt := rfl
@[simp] theorem modAdmCtrs_err (s : State) (f : AdmCtrs → AdmCtrs) : (s.modAdmCtrs f).err = s.err := rfl
@[simp] theorem modAdmCtrs_ev (s : State) (f : AdmCtrs → AdmCtrs) : (s.modAdmCtrs f).ev = s.ev := rfl
@[simp] theorem modAdmCtrs_draws (s : State) (f : AdmCtrs → AdmCtrs) : (s.modAdmCtrs f).draws = s.draws := rfl

/-! ### modSweep changes `adm` only -/

@[simp] theorem modSweep_pending (s : State) (f : Sweep → Sweep) : (s.modSweep f).pending = s.pending := rfl
@[simp] theorem modSweep_venueTime (s : State) (f : Sweep → Sweep) : (s.modSweep f).venueTime = s.venueTime := rfl
@[simp] theorem modSweep_factory (s : State) (f : Sweep → Sweep) : (s.modSweep f).factory = s.factory := rfl
@[simp] theorem modSweep_surgeLine (s : State) (f : Sweep → Sweep) : (s.modSweep f).surgeLine = s.surgeLine := rfl
@[simp] theorem modSweep_uplink (s : State) (f : Sweep → Sweep) : (s.modSweep f).uplink = s.uplink := rfl
@[simp] theorem modSweep_ports (s : State) (f : Sweep → Sweep) : (s.modSweep f).ports = s.ports := rfl
@[simp] theorem modSweep_stations (s : State) (f : Sweep → Sweep) : (s.modSweep f).stations = s.stations := rfl
@[simp] theorem modSweep_stationCtrs (s : State) (f : Sweep → Sweep) : (s.modSweep f).stationCtrs = s.stationCtrs := rfl
@[simp] theorem modSweep_radios (s : State) (f : Sweep → Sweep) : (s.modSweep f).radios = s.radios := rfl
@[simp] theorem modSweep_roam (s : State) (f : Sweep → Sweep) : (s.modSweep f).roam = s.roam := rfl
@[simp] theorem modSweep_egress (s : State) (f : Sweep → Sweep) : (s.modSweep f).egress = s.egress := rfl
@[simp] theorem modSweep_gov (s : State) (f : Sweep → Sweep) : (s.modSweep f).gov = s.gov := rfl
@[simp] theorem modSweep_replay (s : State) (f : Sweep → Sweep) : (s.modSweep f).replay = s.replay := rfl
@[simp] theorem modSweep_mem (s : State) (f : Sweep → Sweep) : (s.modSweep f).mem = s.mem := rfl
@[simp] theorem modSweep_mgmt (s : State) (f : Sweep → Sweep) : (s.modSweep f).mgmt = s.mgmt := rfl
@[simp] theorem modSweep_err (s : State) (f : Sweep → Sweep) : (s.modSweep f).err = s.err := rfl
@[simp] theorem modSweep_ev (s : State) (f : Sweep → Sweep) : (s.modSweep f).ev = s.ev := rfl
@[simp] theorem modSweep_draws (s : State) (f : Sweep → Sweep) : (s.modSweep f).draws = s.draws := rfl

/-! ### setEntry changes `adm` only -/

@[simp] theorem setEntry_pending (s : State) (p : Nat) (e : MapEntry) : (s.setEntry p e).pending = s.pending := rfl
@[simp] theorem setEntry_venueTime (s : State) (p : Nat) (e : MapEntry) : (s.setEntry p e).venueTime = s.venueTime := rfl
@[simp] theorem setEntry_factory (s : State) (p : Nat) (e : MapEntry) : (s.setEntry p e).factory = s.factory := rfl
@[simp] theorem setEntry_surgeLine (s : State) (p : Nat) (e : MapEntry) : (s.setEntry p e).surgeLine = s.surgeLine := rfl
@[simp] theorem setEntry_uplink (s : State) (p : Nat) (e : MapEntry) : (s.setEntry p e).uplink = s.uplink := rfl
@[simp] theorem setEntry_ports (s : State) (p : Nat) (e : MapEntry) : (s.setEntry p e).ports = s.ports := rfl
@[simp] theorem setEntry_stations (s : State) (p : Nat) (e : MapEntry) : (s.setEntry p e).stations = s.stations := rfl
@[simp] theorem setEntry_stationCtrs (s : State) (p : Nat) (e : MapEntry) : (s.setEntry p e).stationCtrs = s.stationCtrs := rfl
@[simp] theorem setEntry_radios (s : State) (p : Nat) (e : MapEntry) : (s.setEntry p e).radios = s.radios := rfl
@[simp] theorem setEntry_roam (s : State) (p : Nat) (e : MapEntry) : (s.setEntry p e).roam = s.roam := rfl
@[simp] theorem setEntry_egress (s : State) (p : Nat) (e : MapEntry) : (s.setEntry p e).egress = s.egress := rfl
@[simp] theorem setEntry_gov (s : State) (p : Nat) (e : MapEntry) : (s.setEntry p e).gov = s.gov := rfl
@[simp] theorem setEntry_replay (s : State) (p : Nat) (e : MapEntry) : (s.setEntry p e).replay = s.replay := rfl
@[simp] theorem setEntry_mem (s : State) (p : Nat) (e : MapEntry) : (s.setEntry p e).mem = s.mem := rfl
@[simp] theorem setEntry_mgmt (s : State) (p : Nat) (e : MapEntry) : (s.setEntry p e).mgmt = s.mgmt := rfl
@[simp] theorem setEntry_err (s : State) (p : Nat) (e : MapEntry) : (s.setEntry p e).err = s.err := rfl
@[simp] theorem setEntry_ev (s : State) (p : Nat) (e : MapEntry) : (s.setEntry p e).ev = s.ev := rfl
@[simp] theorem setEntry_draws (s : State) (p : Nat) (e : MapEntry) : (s.setEntry p e).draws = s.draws := rfl

/-! ### setOccupancy changes `adm` only -/

@[simp] theorem setOccupancy_pending (s : State) (z n : Nat) : (s.setOccupancy z n).pending = s.pending := rfl
@[simp] theorem setOccupancy_venueTime (s : State) (z n : Nat) : (s.setOccupancy z n).venueTime = s.venueTime := rfl
@[simp] theorem setOccupancy_factory (s : State) (z n : Nat) : (s.setOccupancy z n).factory = s.factory := rfl
@[simp] theorem setOccupancy_surgeLine (s : State) (z n : Nat) : (s.setOccupancy z n).surgeLine = s.surgeLine := rfl
@[simp] theorem setOccupancy_uplink (s : State) (z n : Nat) : (s.setOccupancy z n).uplink = s.uplink := rfl
@[simp] theorem setOccupancy_ports (s : State) (z n : Nat) : (s.setOccupancy z n).ports = s.ports := rfl
@[simp] theorem setOccupancy_stations (s : State) (z n : Nat) : (s.setOccupancy z n).stations = s.stations := rfl
@[simp] theorem setOccupancy_stationCtrs (s : State) (z n : Nat) : (s.setOccupancy z n).stationCtrs = s.stationCtrs := rfl
@[simp] theorem setOccupancy_radios (s : State) (z n : Nat) : (s.setOccupancy z n).radios = s.radios := rfl
@[simp] theorem setOccupancy_roam (s : State) (z n : Nat) : (s.setOccupancy z n).roam = s.roam := rfl
@[simp] theorem setOccupancy_egress (s : State) (z n : Nat) : (s.setOccupancy z n).egress = s.egress := rfl
@[simp] theorem setOccupancy_gov (s : State) (z n : Nat) : (s.setOccupancy z n).gov = s.gov := rfl
@[simp] theorem setOccupancy_replay (s : State) (z n : Nat) : (s.setOccupancy z n).replay = s.replay := rfl
@[simp] theorem setOccupancy_mem (s : State) (z n : Nat) : (s.setOccupancy z n).mem = s.mem := rfl
@[simp] theorem setOccupancy_mgmt (s : State) (z n : Nat) : (s.setOccupancy z n).mgmt = s.mgmt := rfl
@[simp] theorem setOccupancy_err (s : State) (z n : Nat) : (s.setOccupancy z n).err = s.err := rfl
@[simp] theorem setOccupancy_ev (s : State) (z n : Nat) : (s.setOccupancy z n).ev = s.ev := rfl
@[simp] theorem setOccupancy_draws (s : State) (z n : Nat) : (s.setOccupancy z n).draws = s.draws := rfl

/-! ### modReplay changes `replay` only -/

@[simp] theorem modReplay_pending (s : State) (f : Replay → Replay) : (s.modReplay f).pending = s.pending := rfl
@[simp] theorem modReplay_venueTime (s : State) (f : Replay → Replay) : (s.modReplay f).venueTime = s.venueTime := rfl
@[simp] theorem modReplay_factory (s : State) (f : Replay → Replay) : (s.modReplay f).factory = s.factory := rfl
@[simp] theorem modReplay_surgeLine (s : State) (f : Replay → Replay) : (s.modReplay f).surgeLine = s.surgeLine := rfl
@[simp] theorem modReplay_uplink (s : State) (f : Replay → Replay) : (s.modReplay f).uplink = s.uplink := rfl
@[simp] theorem modReplay_ports (s : State) (f : Replay → Replay) : (s.modReplay f).ports = s.ports := rfl
@[simp] theorem modReplay_stations (s : State) (f : Replay → Replay) : (s.modReplay f).stations = s.stations := rfl
@[simp] theorem modReplay_stationCtrs (s : State) (f : Replay → Replay) : (s.modReplay f).stationCtrs = s.stationCtrs := rfl
@[simp] theorem modReplay_radios (s : State) (f : Replay → Replay) : (s.modReplay f).radios = s.radios := rfl
@[simp] theorem modReplay_roam (s : State) (f : Replay → Replay) : (s.modReplay f).roam = s.roam := rfl
@[simp] theorem modReplay_egress (s : State) (f : Replay → Replay) : (s.modReplay f).egress = s.egress := rfl
@[simp] theorem modReplay_gov (s : State) (f : Replay → Replay) : (s.modReplay f).gov = s.gov := rfl
@[simp] theorem modReplay_adm (s : State) (f : Replay → Replay) : (s.modReplay f).adm = s.adm := rfl
@[simp] theorem modReplay_mem (s : State) (f : Replay → Replay) : (s.modReplay f).mem = s.mem := rfl
@[simp] theorem modReplay_mgmt (s : State) (f : Replay → Replay) : (s.modReplay f).mgmt = s.mgmt := rfl
@[simp] theorem modReplay_err (s : State) (f : Replay → Replay) : (s.modReplay f).err = s.err := rfl
@[simp] theorem modReplay_ev (s : State) (f : Replay → Replay) : (s.modReplay f).ev = s.ev := rfl
@[simp] theorem modReplay_draws (s : State) (f : Replay → Replay) : (s.modReplay f).draws = s.draws := rfl

/-! ### modReplayCtrs changes `replay` only -/

@[simp] theorem modReplayCtrs_pending (s : State) (f : ReplayCtrs → ReplayCtrs) : (s.modReplayCtrs f).pending = s.pending := rfl
@[simp] theorem modReplayCtrs_venueTime (s : State) (f : ReplayCtrs → ReplayCtrs) : (s.modReplayCtrs f).venueTime = s.venueTime := rfl
@[simp] theorem modReplayCtrs_factory (s : State) (f : ReplayCtrs → ReplayCtrs) : (s.modReplayCtrs f).factory = s.factory := rfl
@[simp] theorem modReplayCtrs_surgeLine (s : State) (f : ReplayCtrs → ReplayCtrs) : (s.modReplayCtrs f).surgeLine = s.surgeLine := rfl
@[simp] theorem modReplayCtrs_uplink (s : State) (f : ReplayCtrs → ReplayCtrs) : (s.modReplayCtrs f).uplink = s.uplink := rfl
@[simp] theorem modReplayCtrs_ports (s : State) (f : ReplayCtrs → ReplayCtrs) : (s.modReplayCtrs f).ports = s.ports := rfl
@[simp] theorem modReplayCtrs_stations (s : State) (f : ReplayCtrs → ReplayCtrs) : (s.modReplayCtrs f).stations = s.stations := rfl
@[simp] theorem modReplayCtrs_stationCtrs (s : State) (f : ReplayCtrs → ReplayCtrs) : (s.modReplayCtrs f).stationCtrs = s.stationCtrs := rfl
@[simp] theorem modReplayCtrs_radios (s : State) (f : ReplayCtrs → ReplayCtrs) : (s.modReplayCtrs f).radios = s.radios := rfl
@[simp] theorem modReplayCtrs_roam (s : State) (f : ReplayCtrs → ReplayCtrs) : (s.modReplayCtrs f).roam = s.roam := rfl
@[simp] theorem modReplayCtrs_egress (s : State) (f : ReplayCtrs → ReplayCtrs) : (s.modReplayCtrs f).egress = s.egress := rfl
@[simp] theorem modReplayCtrs_gov (s : State) (f : ReplayCtrs → ReplayCtrs) : (s.modReplayCtrs f).gov = s.gov := rfl
@[simp] theorem modReplayCtrs_adm (s : State) (f : ReplayCtrs → ReplayCtrs) : (s.modReplayCtrs f).adm = s.adm := rfl
@[simp] theorem modReplayCtrs_mem (s : State) (f : ReplayCtrs → ReplayCtrs) : (s.modReplayCtrs f).mem = s.mem := rfl
@[simp] theorem modReplayCtrs_mgmt (s : State) (f : ReplayCtrs → ReplayCtrs) : (s.modReplayCtrs f).mgmt = s.mgmt := rfl
@[simp] theorem modReplayCtrs_err (s : State) (f : ReplayCtrs → ReplayCtrs) : (s.modReplayCtrs f).err = s.err := rfl
@[simp] theorem modReplayCtrs_ev (s : State) (f : ReplayCtrs → ReplayCtrs) : (s.modReplayCtrs f).ev = s.ev := rfl
@[simp] theorem modReplayCtrs_draws (s : State) (f : ReplayCtrs → ReplayCtrs) : (s.modReplayCtrs f).draws = s.draws := rfl

/-! ### setReel changes `replay` only -/

@[simp] theorem setReel_pending (s : State) (r : Nat) (v : Reel) : (s.setReel r v).pending = s.pending := rfl
@[simp] theorem setReel_venueTime (s : State) (r : Nat) (v : Reel) : (s.setReel r v).venueTime = s.venueTime := rfl
@[simp] theorem setReel_factory (s : State) (r : Nat) (v : Reel) : (s.setReel r v).factory = s.factory := rfl
@[simp] theorem setReel_surgeLine (s : State) (r : Nat) (v : Reel) : (s.setReel r v).surgeLine = s.surgeLine := rfl
@[simp] theorem setReel_uplink (s : State) (r : Nat) (v : Reel) : (s.setReel r v).uplink = s.uplink := rfl
@[simp] theorem setReel_ports (s : State) (r : Nat) (v : Reel) : (s.setReel r v).ports = s.ports := rfl
@[simp] theorem setReel_stations (s : State) (r : Nat) (v : Reel) : (s.setReel r v).stations = s.stations := rfl
@[simp] theorem setReel_stationCtrs (s : State) (r : Nat) (v : Reel) : (s.setReel r v).stationCtrs = s.stationCtrs := rfl
@[simp] theorem setReel_radios (s : State) (r : Nat) (v : Reel) : (s.setReel r v).radios = s.radios := rfl
@[simp] theorem setReel_roam (s : State) (r : Nat) (v : Reel) : (s.setReel r v).roam = s.roam := rfl
@[simp] theorem setReel_egress (s : State) (r : Nat) (v : Reel) : (s.setReel r v).egress = s.egress := rfl
@[simp] theorem setReel_gov (s : State) (r : Nat) (v : Reel) : (s.setReel r v).gov = s.gov := rfl
@[simp] theorem setReel_adm (s : State) (r : Nat) (v : Reel) : (s.setReel r v).adm = s.adm := rfl
@[simp] theorem setReel_mem (s : State) (r : Nat) (v : Reel) : (s.setReel r v).mem = s.mem := rfl
@[simp] theorem setReel_mgmt (s : State) (r : Nat) (v : Reel) : (s.setReel r v).mgmt = s.mgmt := rfl
@[simp] theorem setReel_err (s : State) (r : Nat) (v : Reel) : (s.setReel r v).err = s.err := rfl
@[simp] theorem setReel_ev (s : State) (r : Nat) (v : Reel) : (s.setReel r v).ev = s.ev := rfl
@[simp] theorem setReel_draws (s : State) (r : Nat) (v : Reel) : (s.setReel r v).draws = s.draws := rfl

/-! ### setSlot changes `replay` only -/

@[simp] theorem setSlot_pending (s : State) (n : Nat) (v : Slot) : (s.setSlot n v).pending = s.pending := rfl
@[simp] theorem setSlot_venueTime (s : State) (n : Nat) (v : Slot) : (s.setSlot n v).venueTime = s.venueTime := rfl
@[simp] theorem setSlot_factory (s : State) (n : Nat) (v : Slot) : (s.setSlot n v).factory = s.factory := rfl
@[simp] theorem setSlot_surgeLine (s : State) (n : Nat) (v : Slot) : (s.setSlot n v).surgeLine = s.surgeLine := rfl
@[simp] theorem setSlot_uplink (s : State) (n : Nat) (v : Slot) : (s.setSlot n v).uplink = s.uplink := rfl
@[simp] theorem setSlot_ports (s : State) (n : Nat) (v : Slot) : (s.setSlot n v).ports = s.ports := rfl
@[simp] theorem setSlot_stations (s : State) (n : Nat) (v : Slot) : (s.setSlot n v).stations = s.stations := rfl
@[simp] theorem setSlot_stationCtrs (s : State) (n : Nat) (v : Slot) : (s.setSlot n v).stationCtrs = s.stationCtrs := rfl
@[simp] theorem setSlot_radios (s : State) (n : Nat) (v : Slot) : (s.setSlot n v).radios = s.radios := rfl
@[simp] theorem setSlot_roam (s : State) (n : Nat) (v : Slot) : (s.setSlot n v).roam = s.roam := rfl
@[simp] theorem setSlot_egress (s : State) (n : Nat) (v : Slot) : (s.setSlot n v).egress = s.egress := rfl
@[simp] theorem setSlot_gov (s : State) (n : Nat) (v : Slot) : (s.setSlot n v).gov = s.gov := rfl
@[simp] theorem setSlot_adm (s : State) (n : Nat) (v : Slot) : (s.setSlot n v).adm = s.adm := rfl
@[simp] theorem setSlot_mem (s : State) (n : Nat) (v : Slot) : (s.setSlot n v).mem = s.mem := rfl
@[simp] theorem setSlot_mgmt (s : State) (n : Nat) (v : Slot) : (s.setSlot n v).mgmt = s.mgmt := rfl
@[simp] theorem setSlot_err (s : State) (n : Nat) (v : Slot) : (s.setSlot n v).err = s.err := rfl
@[simp] theorem setSlot_ev (s : State) (n : Nat) (v : Slot) : (s.setSlot n v).ev = s.ev := rfl
@[simp] theorem setSlot_draws (s : State) (n : Nat) (v : Slot) : (s.setSlot n v).draws = s.draws := rfl

/-! ### setDelivery changes `replay` only -/

@[simp] theorem setDelivery_pending (s : State) (d : Nat) (v : Delivery) : (s.setDelivery d v).pending = s.pending := rfl
@[simp] theorem setDelivery_venueTime (s : State) (d : Nat) (v : Delivery) : (s.setDelivery d v).venueTime = s.venueTime := rfl
@[simp] theorem setDelivery_factory (s : State) (d : Nat) (v : Delivery) : (s.setDelivery d v).factory = s.factory := rfl
@[simp] theorem setDelivery_surgeLine (s : State) (d : Nat) (v : Delivery) : (s.setDelivery d v).surgeLine = s.surgeLine := rfl
@[simp] theorem setDelivery_uplink (s : State) (d : Nat) (v : Delivery) : (s.setDelivery d v).uplink = s.uplink := rfl
@[simp] theorem setDelivery_ports (s : State) (d : Nat) (v : Delivery) : (s.setDelivery d v).ports = s.ports := rfl
@[simp] theorem setDelivery_stations (s : State) (d : Nat) (v : Delivery) : (s.setDelivery d v).stations = s.stations := rfl
@[simp] theorem setDelivery_stationCtrs (s : State) (d : Nat) (v : Delivery) : (s.setDelivery d v).stationCtrs = s.stationCtrs := rfl
@[simp] theorem setDelivery_radios (s : State) (d : Nat) (v : Delivery) : (s.setDelivery d v).radios = s.radios := rfl
@[simp] theorem setDelivery_roam (s : State) (d : Nat) (v : Delivery) : (s.setDelivery d v).roam = s.roam := rfl
@[simp] theorem setDelivery_egress (s : State) (d : Nat) (v : Delivery) : (s.setDelivery d v).egress = s.egress := rfl
@[simp] theorem setDelivery_gov (s : State) (d : Nat) (v : Delivery) : (s.setDelivery d v).gov = s.gov := rfl
@[simp] theorem setDelivery_adm (s : State) (d : Nat) (v : Delivery) : (s.setDelivery d v).adm = s.adm := rfl
@[simp] theorem setDelivery_mem (s : State) (d : Nat) (v : Delivery) : (s.setDelivery d v).mem = s.mem := rfl
@[simp] theorem setDelivery_mgmt (s : State) (d : Nat) (v : Delivery) : (s.setDelivery d v).mgmt = s.mgmt := rfl
@[simp] theorem setDelivery_err (s : State) (d : Nat) (v : Delivery) : (s.setDelivery d v).err = s.err := rfl
@[simp] theorem setDelivery_ev (s : State) (d : Nat) (v : Delivery) : (s.setDelivery d v).ev = s.ev := rfl
@[simp] theorem setDelivery_draws (s : State) (d : Nat) (v : Delivery) : (s.setDelivery d v).draws = s.draws := rfl

/-! ### setWaitList changes `replay` only -/

@[simp] theorem setWaitList_pending (s : State) (r : Nat) (l : List Nat) : (s.setWaitList r l).pending = s.pending := rfl
@[simp] theorem setWaitList_venueTime (s : State) (r : Nat) (l : List Nat) : (s.setWaitList r l).venueTime = s.venueTime := rfl
@[simp] theorem setWaitList_factory (s : State) (r : Nat) (l : List Nat) : (s.setWaitList r l).factory = s.factory := rfl
@[simp] theorem setWaitList_surgeLine (s : State) (r : Nat) (l : List Nat) : (s.setWaitList r l).surgeLine = s.surgeLine := rfl
@[simp] theorem setWaitList_uplink (s : State) (r : Nat) (l : List Nat) : (s.setWaitList r l).uplink = s.uplink := rfl
@[simp] theorem setWaitList_ports (s : State) (r : Nat) (l : List Nat) : (s.setWaitList r l).ports = s.ports := rfl
@[simp] theorem setWaitList_stations (s : State) (r : Nat) (l : List Nat) : (s.setWaitList r l).stations = s.stations := rfl
@[simp] theorem setWaitList_stationCtrs (s : State) (r : Nat) (l : List Nat) : (s.setWaitList r l).stationCtrs = s.stationCtrs := rfl
@[simp] theorem setWaitList_radios (s : State) (r : Nat) (l : List Nat) : (s.setWaitList r l).radios = s.radios := rfl
@[simp] theorem setWaitList_roam (s : State) (r : Nat) (l : List Nat) : (s.setWaitList r l).roam = s.roam := rfl
@[simp] theorem setWaitList_egress (s : State) (r : Nat) (l : List Nat) : (s.setWaitList r l).egress = s.egress := rfl
@[simp] theorem setWaitList_gov (s : State) (r : Nat) (l : List Nat) : (s.setWaitList r l).gov = s.gov := rfl
@[simp] theorem setWaitList_adm (s : State) (r : Nat) (l : List Nat) : (s.setWaitList r l).adm = s.adm := rfl
@[simp] theorem setWaitList_mem (s : State) (r : Nat) (l : List Nat) : (s.setWaitList r l).mem = s.mem := rfl
@[simp] theorem setWaitList_mgmt (s : State) (r : Nat) (l : List Nat) : (s.setWaitList r l).mgmt = s.mgmt := rfl
@[simp] theorem setWaitList_err (s : State) (r : Nat) (l : List Nat) : (s.setWaitList r l).err = s.err := rfl
@[simp] theorem setWaitList_ev (s : State) (r : Nat) (l : List Nat) : (s.setWaitList r l).ev = s.ev := rfl
@[simp] theorem setWaitList_draws (s : State) (r : Nat) (l : List Nat) : (s.setWaitList r l).draws = s.draws := rfl

/-! ### setLists changes `egress` only -/

@[simp] theorem setLists_pending (s : State) (r : Nat) (l : RadioLists) : (s.setLists r l).pending = s.pending := rfl
@[simp] theorem setLists_venueTime (s : State) (r : Nat) (l : RadioLists) : (s.setLists r l).venueTime = s.venueTime := rfl
@[simp] theorem setLists_factory (s : State) (r : Nat) (l : RadioLists) : (s.setLists r l).factory = s.factory := rfl
@[simp] theorem setLists_surgeLine (s : State) (r : Nat) (l : RadioLists) : (s.setLists r l).surgeLine = s.surgeLine := rfl
@[simp] theorem setLists_uplink (s : State) (r : Nat) (l : RadioLists) : (s.setLists r l).uplink = s.uplink := rfl
@[simp] theorem setLists_ports (s : State) (r : Nat) (l : RadioLists) : (s.setLists r l).ports = s.ports := rfl
@[simp] theorem setLists_stations (s : State) (r : Nat) (l : RadioLists) : (s.setLists r l).stations = s.stations := rfl
@[simp] theorem setLists_stationCtrs (s : State) (r : Nat) (l : RadioLists) : (s.setLists r l).stationCtrs = s.stationCtrs := rfl
@[simp] theorem setLists_radios (s : State) (r : Nat) (l : RadioLists) : (s.setLists r l).radios = s.radios := rfl
@[simp] theorem setLists_roam (s : State) (r : Nat) (l : RadioLists) : (s.setLists r l).roam = s.roam := rfl
@[simp] theorem setLists_gov (s : State) (r : Nat) (l : RadioLists) : (s.setLists r l).gov = s.gov := rfl
@[simp] theorem setLists_adm (s : State) (r : Nat) (l : RadioLists) : (s.setLists r l).adm = s.adm := rfl
@[simp] theorem setLists_replay (s : State) (r : Nat) (l : RadioLists) : (s.setLists r l).replay = s.replay := rfl
@[simp] theorem setLists_mem (s : State) (r : Nat) (l : RadioLists) : (s.setLists r l).mem = s.mem := rfl
@[simp] theorem setLists_mgmt (s : State) (r : Nat) (l : RadioLists) : (s.setLists r l).mgmt = s.mgmt := rfl
@[simp] theorem setLists_err (s : State) (r : Nat) (l : RadioLists) : (s.setLists r l).err = s.err := rfl
@[simp] theorem setLists_ev (s : State) (r : Nat) (l : RadioLists) : (s.setLists r l).ev = s.ev := rfl
@[simp] theorem setLists_draws (s : State) (r : Nat) (l : RadioLists) : (s.setLists r l).draws = s.draws := rfl

/-! ### freedRoom changes `ev` only -/

@[simp] theorem freedRoom_pending (s : State) : (s.freedRoom).pending = s.pending := rfl
@[simp] theorem freedRoom_venueTime (s : State) : (s.freedRoom).venueTime = s.venueTime := rfl
@[simp] theorem freedRoom_factory (s : State) : (s.freedRoom).factory = s.factory := rfl
@[simp] theorem freedRoom_surgeLine (s : State) : (s.freedRoom).surgeLine = s.surgeLine := rfl
@[simp] theorem freedRoom_uplink (s : State) : (s.freedRoom).uplink = s.uplink := rfl
@[simp] theorem freedRoom_ports (s : State) : (s.freedRoom).ports = s.ports := rfl
@[simp] theorem freedRoom_stations (s : State) : (s.freedRoom).stations = s.stations := rfl
@[simp] theorem freedRoom_stationCtrs (s : State) : (s.freedRoom).stationCtrs = s.stationCtrs := rfl
@[simp] theorem freedRoom_radios (s : State) : (s.freedRoom).radios = s.radios := rfl
@[simp] theorem freedRoom_roam (s : State) : (s.freedRoom).roam = s.roam := rfl
@[simp] theorem freedRoom_egress (s : State) : (s.freedRoom).egress = s.egress := rfl
@[simp] theorem freedRoom_gov (s : State) : (s.freedRoom).gov = s.gov := rfl
@[simp] theorem freedRoom_adm (s : State) : (s.freedRoom).adm = s.adm := rfl
@[simp] theorem freedRoom_replay (s : State) : (s.freedRoom).replay = s.replay := rfl
@[simp] theorem freedRoom_mem (s : State) : (s.freedRoom).mem = s.mem := rfl
@[simp] theorem freedRoom_mgmt (s : State) : (s.freedRoom).mgmt = s.mgmt := rfl
@[simp] theorem freedRoom_err (s : State) : (s.freedRoom).err = s.err := rfl
@[simp] theorem freedRoom_draws (s : State) : (s.freedRoom).draws = s.draws := rfl

/-! ### lookForSlot changes `ev` only -/

@[simp] theorem lookForSlot_pending (s : State) : (s.lookForSlot).pending = s.pending := rfl
@[simp] theorem lookForSlot_venueTime (s : State) : (s.lookForSlot).venueTime = s.venueTime := rfl
@[simp] theorem lookForSlot_factory (s : State) : (s.lookForSlot).factory = s.factory := rfl
@[simp] theorem lookForSlot_surgeLine (s : State) : (s.lookForSlot).surgeLine = s.surgeLine := rfl
@[simp] theorem lookForSlot_uplink (s : State) : (s.lookForSlot).uplink = s.uplink := rfl
@[simp] theorem lookForSlot_ports (s : State) : (s.lookForSlot).ports = s.ports := rfl
@[simp] theorem lookForSlot_stations (s : State) : (s.lookForSlot).stations = s.stations := rfl
@[simp] theorem lookForSlot_stationCtrs (s : State) : (s.lookForSlot).stationCtrs = s.stationCtrs := rfl
@[simp] theorem lookForSlot_radios (s : State) : (s.lookForSlot).radios = s.radios := rfl
@[simp] theorem lookForSlot_roam (s : State) : (s.lookForSlot).roam = s.roam := rfl
@[simp] theorem lookForSlot_egress (s : State) : (s.lookForSlot).egress = s.egress := rfl
@[simp] theorem lookForSlot_gov (s : State) : (s.lookForSlot).gov = s.gov := rfl
@[simp] theorem lookForSlot_adm (s : State) : (s.lookForSlot).adm = s.adm := rfl
@[simp] theorem lookForSlot_replay (s : State) : (s.lookForSlot).replay = s.replay := rfl
@[simp] theorem lookForSlot_mem (s : State) : (s.lookForSlot).mem = s.mem := rfl
@[simp] theorem lookForSlot_mgmt (s : State) : (s.lookForSlot).mgmt = s.mgmt := rfl
@[simp] theorem lookForSlot_err (s : State) : (s.lookForSlot).err = s.err := rfl
@[simp] theorem lookForSlot_draws (s : State) : (s.lookForSlot).draws = s.draws := rfl

/-! ### modGov changes `gov` only -/

@[simp] theorem modGov_pending (s : State) (f : Governor → Governor) : (s.modGov f).pending = s.pending := rfl
@[simp] theorem modGov_venueTime (s : State) (f : Governor → Governor) : (s.modGov f).venueTime = s.venueTime := rfl
@[simp] theorem modGov_factory (s : State) (f : Governor → Governor) : (s.modGov f).factory = s.factory := rfl
@[simp] theorem modGov_surgeLine (s : State) (f : Governor → Governor) : (s.modGov f).surgeLine = s.surgeLine := rfl
@[simp] theorem modGov_uplink (s : State) (f : Governor → Governor) : (s.modGov f).uplink = s.uplink := rfl
@[simp] theorem modGov_ports (s : State) (f : Governor → Governor) : (s.modGov f).ports = s.ports := rfl
@[simp] theorem modGov_stations (s : State) (f : Governor → Governor) : (s.modGov f).stations = s.stations := rfl
@[simp] theorem modGov_stationCtrs (s : State) (f : Governor → Governor) : (s.modGov f).stationCtrs = s.stationCtrs := rfl
@[simp] theorem modGov_radios (s : State) (f : Governor → Governor) : (s.modGov f).radios = s.radios := rfl
@[simp] theorem modGov_roam (s : State) (f : Governor → Governor) : (s.modGov f).roam = s.roam := rfl
@[simp] theorem modGov_egress (s : State) (f : Governor → Governor) : (s.modGov f).egress = s.egress := rfl
@[simp] theorem modGov_adm (s : State) (f : Governor → Governor) : (s.modGov f).adm = s.adm := rfl
@[simp] theorem modGov_replay (s : State) (f : Governor → Governor) : (s.modGov f).replay = s.replay := rfl
@[simp] theorem modGov_mem (s : State) (f : Governor → Governor) : (s.modGov f).mem = s.mem := rfl
@[simp] theorem modGov_mgmt (s : State) (f : Governor → Governor) : (s.modGov f).mgmt = s.mgmt := rfl
@[simp] theorem modGov_err (s : State) (f : Governor → Governor) : (s.modGov f).err = s.err := rfl
@[simp] theorem modGov_ev (s : State) (f : Governor → Governor) : (s.modGov f).ev = s.ev := rfl
@[simp] theorem modGov_draws (s : State) (f : Governor → Governor) : (s.modGov f).draws = s.draws := rfl

/-! ### modGovCtrs changes `gov` only -/

@[simp] theorem modGovCtrs_pending (s : State) (f : GovCtrs → GovCtrs) : (s.modGovCtrs f).pending = s.pending := rfl
@[simp] theorem modGovCtrs_venueTime (s : State) (f : GovCtrs → GovCtrs) : (s.modGovCtrs f).venueTime = s.venueTime := rfl
@[simp] theorem modGovCtrs_factory (s : State) (f : GovCtrs → GovCtrs) : (s.modGovCtrs f).factory = s.factory := rfl
@[simp] theorem modGovCtrs_surgeLine (s : State) (f : GovCtrs → GovCtrs) : (s.modGovCtrs f).surgeLine = s.surgeLine := rfl
@[simp] theorem modGovCtrs_uplink (s : State) (f : GovCtrs → GovCtrs) : (s.modGovCtrs f).uplink = s.uplink := rfl
@[simp] theorem modGovCtrs_ports (s : State) (f : GovCtrs → GovCtrs) : (s.modGovCtrs f).ports = s.ports := rfl
@[simp] theorem modGovCtrs_stations (s : State) (f : GovCtrs → GovCtrs) : (s.modGovCtrs f).stations = s.stations := rfl
@[simp] theorem modGovCtrs_stationCtrs (s : State) (f : GovCtrs → GovCtrs) : (s.modGovCtrs f).stationCtrs = s.stationCtrs := rfl
@[simp] theorem modGovCtrs_radios (s : State) (f : GovCtrs → GovCtrs) : (s.modGovCtrs f).radios = s.radios := rfl
@[simp] theorem modGovCtrs_roam (s : State) (f : GovCtrs → GovCtrs) : (s.modGovCtrs f).roam = s.roam := rfl
@[simp] theorem modGovCtrs_egress (s : State) (f : GovCtrs → GovCtrs) : (s.modGovCtrs f).egress = s.egress := rfl
@[simp] theorem modGovCtrs_adm (s : State) (f : GovCtrs → GovCtrs) : (s.modGovCtrs f).adm = s.adm := rfl
@[simp] theorem modGovCtrs_replay (s : State) (f : GovCtrs → GovCtrs) : (s.modGovCtrs f).replay = s.replay := rfl
@[simp] theorem modGovCtrs_mem (s : State) (f : GovCtrs → GovCtrs) : (s.modGovCtrs f).mem = s.mem := rfl
@[simp] theorem modGovCtrs_mgmt (s : State) (f : GovCtrs → GovCtrs) : (s.modGovCtrs f).mgmt = s.mgmt := rfl
@[simp] theorem modGovCtrs_err (s : State) (f : GovCtrs → GovCtrs) : (s.modGovCtrs f).err = s.err := rfl
@[simp] theorem modGovCtrs_ev (s : State) (f : GovCtrs → GovCtrs) : (s.modGovCtrs f).ev = s.ev := rfl
@[simp] theorem modGovCtrs_draws (s : State) (f : GovCtrs → GovCtrs) : (s.modGovCtrs f).draws = s.draws := rfl

/-! ### modMem changes `mem` only -/

@[simp] theorem modMem_pending (s : State) (f : RecMem → RecMem) : (s.modMem f).pending = s.pending := rfl
@[simp] theorem modMem_venueTime (s : State) (f : RecMem → RecMem) : (s.modMem f).venueTime = s.venueTime := rfl
@[simp] theorem modMem_factory (s : State) (f : RecMem → RecMem) : (s.modMem f).factory = s.factory := rfl
@[simp] theorem modMem_surgeLine (s : State) (f : RecMem → RecMem) : (s.modMem f).surgeLine = s.surgeLine := rfl
@[simp] theorem modMem_uplink (s : State) (f : RecMem → RecMem) : (s.modMem f).uplink = s.uplink := rfl
@[simp] theorem modMem_ports (s : State) (f : RecMem → RecMem) : (s.modMem f).ports = s.ports := rfl
@[simp] theorem modMem_stations (s : State) (f : RecMem → RecMem) : (s.modMem f).stations = s.stations := rfl
@[simp] theorem modMem_stationCtrs (s : State) (f : RecMem → RecMem) : (s.modMem f).stationCtrs = s.stationCtrs := rfl
@[simp] theorem modMem_radios (s : State) (f : RecMem → RecMem) : (s.modMem f).radios = s.radios := rfl
@[simp] theorem modMem_roam (s : State) (f : RecMem → RecMem) : (s.modMem f).roam = s.roam := rfl
@[simp] theorem modMem_egress (s : State) (f : RecMem → RecMem) : (s.modMem f).egress = s.egress := rfl
@[simp] theorem modMem_gov (s : State) (f : RecMem → RecMem) : (s.modMem f).gov = s.gov := rfl
@[simp] theorem modMem_adm (s : State) (f : RecMem → RecMem) : (s.modMem f).adm = s.adm := rfl
@[simp] theorem modMem_replay (s : State) (f : RecMem → RecMem) : (s.modMem f).replay = s.replay := rfl
@[simp] theorem modMem_mgmt (s : State) (f : RecMem → RecMem) : (s.modMem f).mgmt = s.mgmt := rfl
@[simp] theorem modMem_err (s : State) (f : RecMem → RecMem) : (s.modMem f).err = s.err := rfl
@[simp] theorem modMem_ev (s : State) (f : RecMem → RecMem) : (s.modMem f).ev = s.ev := rfl
@[simp] theorem modMem_draws (s : State) (f : RecMem → RecMem) : (s.modMem f).draws = s.draws := rfl

/-! ### setNoticeEntry changes `err` only -/

@[simp] theorem setNoticeEntry_pending (s : State) (n : Nat) (e : NoticeEntry) : (s.setNoticeEntry n e).pending = s.pending := rfl
@[simp] theorem setNoticeEntry_venueTime (s : State) (n : Nat) (e : NoticeEntry) : (s.setNoticeEntry n e).venueTime = s.venueTime := rfl
@[simp] theorem setNoticeEntry_factory (s : State) (n : Nat) (e : NoticeEntry) : (s.setNoticeEntry n e).factory = s.factory := rfl
@[simp] theorem setNoticeEntry_surgeLine (s : State) (n : Nat) (e : NoticeEntry) : (s.setNoticeEntry n e).surgeLine = s.surgeLine := rfl
@[simp] theorem setNoticeEntry_uplink (s : State) (n : Nat) (e : NoticeEntry) : (s.setNoticeEntry n e).uplink = s.uplink := rfl
@[simp] theorem setNoticeEntry_ports (s : State) (n : Nat) (e : NoticeEntry) : (s.setNoticeEntry n e).ports = s.ports := rfl
@[simp] theorem setNoticeEntry_stations (s : State) (n : Nat) (e : NoticeEntry) : (s.setNoticeEntry n e).stations = s.stations := rfl
@[simp] theorem setNoticeEntry_stationCtrs (s : State) (n : Nat) (e : NoticeEntry) : (s.setNoticeEntry n e).stationCtrs = s.stationCtrs := rfl
@[simp] theorem setNoticeEntry_radios (s : State) (n : Nat) (e : NoticeEntry) : (s.setNoticeEntry n e).radios = s.radios := rfl
@[simp] theorem setNoticeEntry_roam (s : State) (n : Nat) (e : NoticeEntry) : (s.setNoticeEntry n e).roam = s.roam := rfl
@[simp] theorem setNoticeEntry_egress (s : State) (n : Nat) (e : NoticeEntry) : (s.setNoticeEntry n e).egress = s.egress := rfl
@[simp] theorem setNoticeEntry_gov (s : State) (n : Nat) (e : NoticeEntry) : (s.setNoticeEntry n e).gov = s.gov := rfl
@[simp] theorem setNoticeEntry_adm (s : State) (n : Nat) (e : NoticeEntry) : (s.setNoticeEntry n e).adm = s.adm := rfl
@[simp] theorem setNoticeEntry_replay (s : State) (n : Nat) (e : NoticeEntry) : (s.setNoticeEntry n e).replay = s.replay := rfl
@[simp] theorem setNoticeEntry_mem (s : State) (n : Nat) (e : NoticeEntry) : (s.setNoticeEntry n e).mem = s.mem := rfl
@[simp] theorem setNoticeEntry_mgmt (s : State) (n : Nat) (e : NoticeEntry) : (s.setNoticeEntry n e).mgmt = s.mgmt := rfl
@[simp] theorem setNoticeEntry_ev (s : State) (n : Nat) (e : NoticeEntry) : (s.setNoticeEntry n e).ev = s.ev := rfl
@[simp] theorem setNoticeEntry_draws (s : State) (n : Nat) (e : NoticeEntry) : (s.setNoticeEntry n e).draws = s.draws := rfl

/-! ### setErrState changes `err` only -/

@[simp] theorem setErrState_pending (s : State) (c : ErrClass) (v : ErrState) : (s.setErrState c v).pending = s.pending := rfl
@[simp] theorem setErrState_venueTime (s : State) (c : ErrClass) (v : ErrState) : (s.setErrState c v).venueTime = s.venueTime := rfl
@[simp] theorem setErrState_factory (s : State) (c : ErrClass) (v : ErrState) : (s.setErrState c v).factory = s.factory := rfl
@[simp] theorem setErrState_surgeLine (s : State) (c : ErrClass) (v : ErrState) : (s.setErrState c v).surgeLine = s.surgeLine := rfl
@[simp] theorem setErrState_uplink (s : State) (c : ErrClass) (v : ErrState) : (s.setErrState c v).uplink = s.uplink := rfl
@[simp] theorem setErrState_ports (s : State) (c : ErrClass) (v : ErrState) : (s.setErrState c v).ports = s.ports := rfl
@[simp] theorem setErrState_stations (s : State) (c : ErrClass) (v : ErrState) : (s.setErrState c v).stations = s.stations := rfl
@[simp] theorem setErrState_stationCtrs (s : State) (c : ErrClass) (v : ErrState) : (s.setErrState c v).stationCtrs = s.stationCtrs := rfl
@[simp] theorem setErrState_radios (s : State) (c : ErrClass) (v : ErrState) : (s.setErrState c v).radios = s.radios := rfl
@[simp] theorem setErrState_roam (s : State) (c : ErrClass) (v : ErrState) : (s.setErrState c v).roam = s.roam := rfl
@[simp] theorem setErrState_egress (s : State) (c : ErrClass) (v : ErrState) : (s.setErrState c v).egress = s.egress := rfl
@[simp] theorem setErrState_gov (s : State) (c : ErrClass) (v : ErrState) : (s.setErrState c v).gov = s.gov := rfl
@[simp] theorem setErrState_adm (s : State) (c : ErrClass) (v : ErrState) : (s.setErrState c v).adm = s.adm := rfl
@[simp] theorem setErrState_replay (s : State) (c : ErrClass) (v : ErrState) : (s.setErrState c v).replay = s.replay := rfl
@[simp] theorem setErrState_mem (s : State) (c : ErrClass) (v : ErrState) : (s.setErrState c v).mem = s.mem := rfl
@[simp] theorem setErrState_mgmt (s : State) (c : ErrClass) (v : ErrState) : (s.setErrState c v).mgmt = s.mgmt := rfl
@[simp] theorem setErrState_ev (s : State) (c : ErrClass) (v : ErrState) : (s.setErrState c v).ev = s.ev := rfl
@[simp] theorem setErrState_draws (s : State) (c : ErrClass) (v : ErrState) : (s.setErrState c v).draws = s.draws := rfl

/-! ### modMgmt changes `mgmt` only -/

@[simp] theorem modMgmt_pending (s : State) (f : Mgmt → Mgmt) : (s.modMgmt f).pending = s.pending := rfl
@[simp] theorem modMgmt_venueTime (s : State) (f : Mgmt → Mgmt) : (s.modMgmt f).venueTime = s.venueTime := rfl
@[simp] theorem modMgmt_factory (s : State) (f : Mgmt → Mgmt) : (s.modMgmt f).factory = s.factory := rfl
@[simp] theorem modMgmt_surgeLine (s : State) (f : Mgmt → Mgmt) : (s.modMgmt f).surgeLine = s.surgeLine := rfl
@[simp] theorem modMgmt_uplink (s : State) (f : Mgmt → Mgmt) : (s.modMgmt f).uplink = s.uplink := rfl
@[simp] theorem modMgmt_ports (s : State) (f : Mgmt → Mgmt) : (s.modMgmt f).ports = s.ports := rfl
@[simp] theorem modMgmt_stations (s : State) (f : Mgmt → Mgmt) : (s.modMgmt f).stations = s.stations := rfl
@[simp] theorem modMgmt_stationCtrs (s : State) (f : Mgmt → Mgmt) : (s.modMgmt f).stationCtrs = s.stationCtrs := rfl
@[simp] theorem modMgmt_radios (s : State) (f : Mgmt → Mgmt) : (s.modMgmt f).radios = s.radios := rfl
@[simp] theorem modMgmt_roam (s : State) (f : Mgmt → Mgmt) : (s.modMgmt f).roam = s.roam := rfl
@[simp] theorem modMgmt_egress (s : State) (f : Mgmt → Mgmt) : (s.modMgmt f).egress = s.egress := rfl
@[simp] theorem modMgmt_gov (s : State) (f : Mgmt → Mgmt) : (s.modMgmt f).gov = s.gov := rfl
@[simp] theorem modMgmt_adm (s : State) (f : Mgmt → Mgmt) : (s.modMgmt f).adm = s.adm := rfl
@[simp] theorem modMgmt_replay (s : State) (f : Mgmt → Mgmt) : (s.modMgmt f).replay = s.replay := rfl
@[simp] theorem modMgmt_mem (s : State) (f : Mgmt → Mgmt) : (s.modMgmt f).mem = s.mem := rfl
@[simp] theorem modMgmt_err (s : State) (f : Mgmt → Mgmt) : (s.modMgmt f).err = s.err := rfl
@[simp] theorem modMgmt_ev (s : State) (f : Mgmt → Mgmt) : (s.modMgmt f).ev = s.ev := rfl
@[simp] theorem modMgmt_draws (s : State) (f : Mgmt → Mgmt) : (s.modMgmt f).draws = s.draws := rfl

/-! ### modMgmtCtrs changes `mgmt` only -/

@[simp] theorem modMgmtCtrs_pending (s : State) (f : MgmtCtrs → MgmtCtrs) : (s.modMgmtCtrs f).pending = s.pending := rfl
@[simp] theorem modMgmtCtrs_venueTime (s : State) (f : MgmtCtrs → MgmtCtrs) : (s.modMgmtCtrs f).venueTime = s.venueTime := rfl
@[simp] theorem modMgmtCtrs_factory (s : State) (f : MgmtCtrs → MgmtCtrs) : (s.modMgmtCtrs f).factory = s.factory := rfl
@[simp] theorem modMgmtCtrs_surgeLine (s : State) (f : MgmtCtrs → MgmtCtrs) : (s.modMgmtCtrs f).surgeLine = s.surgeLine := rfl
@[simp] theorem modMgmtCtrs_uplink (s : State) (f : MgmtCtrs → MgmtCtrs) : (s.modMgmtCtrs f).uplink = s.uplink := rfl
@[simp] theorem modMgmtCtrs_ports (s : State) (f : MgmtCtrs → MgmtCtrs) : (s.modMgmtCtrs f).ports = s.ports := rfl
@[simp] theorem modMgmtCtrs_stations (s : State) (f : MgmtCtrs → MgmtCtrs) : (s.modMgmtCtrs f).stations = s.stations := rfl
@[simp] theorem modMgmtCtrs_stationCtrs (s : State) (f : MgmtCtrs → MgmtCtrs) : (s.modMgmtCtrs f).stationCtrs = s.stationCtrs := rfl
@[simp] theorem modMgmtCtrs_radios (s : State) (f : MgmtCtrs → MgmtCtrs) : (s.modMgmtCtrs f).radios = s.radios := rfl
@[simp] theorem modMgmtCtrs_roam (s : State) (f : MgmtCtrs → MgmtCtrs) : (s.modMgmtCtrs f).roam = s.roam := rfl
@[simp] theorem modMgmtCtrs_egress (s : State) (f : MgmtCtrs → MgmtCtrs) : (s.modMgmtCtrs f).egress = s.egress := rfl
@[simp] theorem modMgmtCtrs_gov (s : State) (f : MgmtCtrs → MgmtCtrs) : (s.modMgmtCtrs f).gov = s.gov := rfl
@[simp] theorem modMgmtCtrs_adm (s : State) (f : MgmtCtrs → MgmtCtrs) : (s.modMgmtCtrs f).adm = s.adm := rfl
@[simp] theorem modMgmtCtrs_replay (s : State) (f : MgmtCtrs → MgmtCtrs) : (s.modMgmtCtrs f).replay = s.replay := rfl
@[simp] theorem modMgmtCtrs_mem (s : State) (f : MgmtCtrs → MgmtCtrs) : (s.modMgmtCtrs f).mem = s.mem := rfl
@[simp] theorem modMgmtCtrs_err (s : State) (f : MgmtCtrs → MgmtCtrs) : (s.modMgmtCtrs f).err = s.err := rfl
@[simp] theorem modMgmtCtrs_ev (s : State) (f : MgmtCtrs → MgmtCtrs) : (s.modMgmtCtrs f).ev = s.ev := rfl
@[simp] theorem modMgmtCtrs_draws (s : State) (f : MgmtCtrs → MgmtCtrs) : (s.modMgmtCtrs f).draws = s.draws := rfl

end Sys2Proof.Machine.State
end

