-- ==== Sys2Proof/Laws/Event.lean ====
section
/-! SUPPORT. What the rest of an event does: nothing, where a command's own effect leaves nothing to follow; and a directive
that is answered as it arrives. -/

namespace Sys2Proof.Machine

/-- With no arbiter asked for, none runs. -/
theorem runArbiters_none {s : State} (h : s.ev.ask = []) : runArbiters s = s := by
  have hs : { s with ev := { s.ev with ask := [] } } = s := by
    obtain ⟨⟩ := s
    simp only at h
    simp [← h]
  unfold runArbiters
  simp [h, hs]

theorem announce_none {s : State} (h : s.ev.roomFreed = false) : announce s = s := by
  unfold announce; simp [h]

theorem settle_none {s : State} (h : s.ev.look = false) : settle s = s := by
  unfold settle; simp [h]

theorem quiet_ask {s : State} (h : s.Quiet) : s.ev.ask = [] := by rw [h]
theorem quiet_room {s : State} (h : s.Quiet) : s.ev.roomFreed = false := by rw [h]
theorem quiet_look {s : State} (h : s.Quiet) : s.ev.look = false := by rw [h]
theorem quiet_deferring {s : State} (h : s.Quiet) : s.ev.deferring = false := by rw [h]
theorem quiet_deferred {s : State} (h : s.Quiet) : s.ev.deferred = [] := by rw [h]

/-- Nothing follows from a state without bookkeeping. -/
theorem flush_quiet {s : State} (h : s.Quiet) : flush s = s := by
  unfold flush
  rw [announce_none (quiet_room h), settle_none (quiet_look h), runArbiters_none (quiet_ask h)]

/-- Where only arbiters are asked for, they alone run. -/
theorem flush_arbiters {s : State} (hr : s.ev.roomFreed = false) (hl : s.ev.look = false) :
    flush s = runArbiters s := by
  unfold flush
  rw [announce_none hr, settle_none hl]

/-- A settled queue runs no directive. -/
theorem runQueue_settled {s : State} (h : s.Settled) (n : Nat) : runQueue n s = s := by
  cases n with
  | zero => rfl
  | succ n =>
    unfold runQueue
    unfold State.Settled at h
    rw [if_pos h]

/-- An event whose own effect leaves nothing to follow ends with that effect. -/
theorem finish_quiet {s : State} (h : s.Quiet) (hs : s.Settled) : finish s = s.ended := by
  unfold finish
  rw [flush_quiet h, runQueue_settled hs]
  rfl

/-- A command whose own effect leaves nothing to follow. -/
theorem event_quiet {f : State → State} {s : State} (h : (f s).Quiet) (hs : (f s).Settled) :
    event f s = .next (f s).ended := by
  unfold event; rw [finish_quiet h hs]

/-! ### The arbiters -/

theorem State.Dispatched.refl (s : State) : s.Dispatched s := rfl

theorem State.Dispatched.trans {s t u : State} (h : s.Dispatched t) (h' : t.Dispatched u) : s.Dispatched u := by
  unfold State.Dispatched at *
  rw [h', h]

theorem grantRequest_same (r : Nat) (cs : List Cls) (s : State) : s.Dispatched (grantRequest r cs s).2 := by
  unfold grantRequest
  simp only
  split <;> rfl

theorem dispatch_same (p r : Nat) (cs : List Cls) (c : Cls) (s : State) : s.Dispatched (dispatch p r cs c s) := by
  unfold dispatch
  split <;> rfl

theorem arbiterOver_same (p : Nat) (rs : List Nat) (s : State) : s.Dispatched (arbiterOver p rs s) := by
  induction rs generalizing s with
  | nil => exact .refl s
  | cons r rs ih =>
    unfold arbiterOver
    simp only
    have h := grantRequest_same r (eligible (s.lists r)) s
    split
    · next c s1 heq => rw [heq] at h; exact h.trans (dispatch_same p r _ c s1)
    · next s1 heq => rw [heq] at h; exact h.trans (ih s1)

theorem runArbiter_same (p : Nat) (s : State) : s.Dispatched (runArbiter p s) := by
  unfold runArbiter
  split
  · exact .refl s
  · exact arbiterOver_same p _ s

theorem foldl_runArbiter_same (l : List Nat) (s : State) :
    s.Dispatched (l.foldl (fun s p => runArbiter p s) s) := by
  induction l generalizing s with
  | nil => exact .refl s
  | cons p l ih => exact (runArbiter_same p s).trans (ih _)

/-- The arbiters change the radios, the egress buffer and the ports, and nothing else is asked for after them. -/
theorem runArbiters_same (s : State) :
    State.Dispatched { s with ev := { s.ev with ask := [] } } (runArbiters s) := by
  unfold runArbiters
  exact foldl_runArbiter_same _ _

/-- An event that only asks for arbiters changes nothing more than the radios, the egress buffer and the ports. -/
theorem finish_arbiters {s : State} (hr : s.ev.roomFreed = false) (hl : s.ev.look = false) (hs : s.Settled) :
    s.ended.Dispatched (finish s) := by
  have h := runArbiters_same s
  have hq : (runArbiters s).Settled := by
    unfold State.Dispatched at h
    unfold State.Settled
    rw [h]
    exact hs
  unfold finish
  rw [flush_arbiters hr hl, runQueue_settled hq]
  unfold State.Dispatched at h ⊢
  unfold closeEvent State.ended
  rw [h]

/-- A directive accepted at an empty queue stands at its head. -/
theorem directiveArrives_queued {s : State} {src : Addr} (tag : Half) (d : Directive) (hr : s.RunsAtOnce src) :
    directiveArrives src tag d s = s.queued ⟨src, tag, d⟩ := by
  obtain ⟨hf, hq, hn⟩ := hr
  have h1 : ¬ ((fromUplink s).mgmt.filter ≠ [] ∧ (!(fromUplink s).mgmt.filter.contains src) = true) := by
    simp only [fromUplink, State.modUplinkCtrs_mgmt]
    rcases hf with hf | hf
    · simp [hf]
    · rintro ⟨-, h⟩; rw [hf] at h; simp at h
  have h2 : ¬ Config.mgmtQueue ≤ (fromUplink s).mgmt.queue.length := by
    simp [fromUplink, hq, Config.mgmtQueue]
  unfold directiveArrives takeDirective
  rw [if_neg h1, if_neg h2]
  simp [State.queued, State.arrived, fromUplink, State.modUplinkCtrs, State.modMgmt, hq]

/-- A directive that is answered as it arrives: the reply is sent and the event ends. -/
theorem directive_answered {s u : State} {src : Addr} {tag : Half} {d : Directive} {a : Answer} (hq : s.Quiet)
    (hr : s.RunsAtOnce src) (hrun : runDirective d (s.queued ⟨src, tag, d⟩) = (some a, u)) (hu : u.Quiet)
    (hm : u.mgmt.queue = [⟨src, tag, d⟩]) :
    event (directiveArrives src tag d) s = .next (reply a u).ended := by
  have hqq : (s.queued ⟨src, tag, d⟩).Quiet := hq
  have hst : startHead (s.queued ⟨src, tag, d⟩) = reply a u := by
    unfold startHead
    simp only [State.queued]
    simp only [State.queued] at hrun
    rw [hrun]
  have hrq : (reply a u).Quiet := by
    unfold reply State.Quiet
    rw [hm]
    exact hu
  have hrs : (reply a u).Settled := by
    left
    unfold reply
    rw [hm]
    rfl
  have hn : ¬ ((s.queued ⟨src, tag, d⟩).mgmt.queue = [] ∨ (s.queued ⟨src, tag, d⟩).mgmt.started = true) := by
    have hs : (s.queued ⟨src, tag, d⟩).mgmt.started = s.mgmt.started := rfl
    rw [hs, hr.2.2]
    simp [State.queued]
  unfold event finish
  rw [directiveArrives_queued tag d hr, flush_quiet hqq]
  unfold runQueue
  rw [if_neg hn, hst, flush_quiet hrq, runQueue_settled hrs]
  rfl

/-- A directive answered as it arrives, in the terms of statements: its effect on the part makes `v` of it, and nothing
follows. -/
theorem directive_concluded {s v : State} {src : Addr} {tag : Half} {d : Directive} {st : Status} {body : List Byte}
    (hs : s.Ready src) (hrun : runDirective d (s.queued ⟨src, tag, d⟩) = (some ⟨st, body⟩, v.queued ⟨src, tag, d⟩))
    (hv : v.Quiet) (he : v.mgmt.queue = []) (hn : v.mgmt.started = false) :
    event (directiveArrives src tag d) s = .next (v.concluded src d.kind tag st body) := by
  rw [directive_answered hs.1 hs.2 hrun hv rfl]
  unfold State.concluded reply State.replied State.sendUplink State.modMgmt State.queued State.arrived
  simp only [State.ended]
  congr 3
  simp only [he]
  rw [hn]

/-- Arbiters of ports that are sending do not run. -/
theorem runArbiters_busy {s : State} (h : ∀ p ∈ s.ev.ask, (s.port p).sending.isSome = true) :
    runArbiters s = { s with ev := { s.ev with ask := [] } } := by
  have key : ∀ l : List Nat, (∀ p ∈ l, p ∈ s.ev.ask) →
      l.foldl (fun s p => runArbiter p s) { s with ev := { s.ev with ask := [] } }
        = { s with ev := { s.ev with ask := [] } } := by
    intro l
    induction l with
    | nil => intro _; rfl
    | cons p l ih =>
      intro hl
      have hp : (State.port { s with ev := { s.ev with ask := [] } } p).sending.isSome = true :=
        h p (hl p (by simp))
      have h1 : runArbiter p { s with ev := { s.ev with ask := [] } } = { s with ev := { s.ev with ask := [] } } := by
        unfold runArbiter
        split
        · rfl
        · next he => rw [he] at hp; simp at hp
      rw [List.foldl_cons, h1]
      exact ih (fun q hq => hl q (by simp [hq]))
  unfold runArbiters
  exact key _ (fun p hp => by simpa using (List.mem_filter.1 hp).2)

/-- An event that asks only the arbiters of ports that are sending ends with its own effect. -/
theorem finish_busy {s : State} (hr : s.ev.roomFreed = false) (hl : s.ev.look = false)
    (ha : ∀ p ∈ s.ev.ask, (s.port p).sending.isSome = true) (hs : s.Settled) : finish s = s.ended := by
  have hq : (runArbiters s).Settled := by
    rw [runArbiters_busy ha]; exact hs
  unfold finish
  rw [flush_arbiters hr hl, runQueue_settled hq, runArbiters_busy ha]
  rfl

/-- A directive answered as it arrives whose effect asks only the arbiters of ports that are sending. -/
theorem directive_concluded_busy {s v : State} {src : Addr} {tag : Half} {d : Directive} {st : Status} {body : List Byte}
    {x : Scratch} (hs : s.Ready src)
    (hrun : runDirective d (s.queued ⟨src, tag, d⟩) = (some ⟨st, body⟩, { v.queued ⟨src, tag, d⟩ with ev := x }))
    (hr : x.roomFreed = false) (hl : x.look = false) (hnum : x.number = v.ev.number)
    (ha : ∀ p ∈ x.ask, (v.port p).sending.isSome = true) (he : v.mgmt.queue = []) (hn : v.mgmt.started = false) :
    event (directiveArrives src tag d) s = .next (v.concluded src d.kind tag st body) := by
  have hst : startHead (s.queued ⟨src, tag, d⟩) = reply ⟨st, body⟩ { v.queued ⟨src, tag, d⟩ with ev := x } := by
    unfold startHead
    simp only [State.queued]
    simp only [State.queued] at hrun
    rw [hrun]
  have hgo : ¬ ((s.queued ⟨src, tag, d⟩).mgmt.queue = [] ∨ (s.queued ⟨src, tag, d⟩).mgmt.started = true) := by
    have hs' : (s.queued ⟨src, tag, d⟩).mgmt.started = s.mgmt.started := rfl
    rw [hs', hs.2.2.2]
    simp [State.queued]
  have hflush : flush (reply ⟨st, body⟩ { v.queued ⟨src, tag, d⟩ with ev := x })
      = reply ⟨st, body⟩ { v.queued ⟨src, tag, d⟩ with ev := { x with ask := [] } } := by
    rw [flush_arbiters (show Scratch.roomFreed _ = false from hr) (show Scratch.look _ = false from hl),
      runArbiters_busy (show ∀ p ∈ x.ask, _ from ha)]
    rfl
  unfold event finish
  rw [directiveArrives_queued tag d hs.2, flush_quiet (show (s.queued ⟨src, tag, d⟩).Quiet from hs.1)]
  unfold runQueue
  rw [if_neg hgo, hst, hflush, runQueue_settled (Or.inl rfl)]
  unfold closeEvent State.concluded State.ended State.replied reply State.sendUplink State.modMgmt
  simp only [State.queued, State.arrived, hnum, he, hn]

end Sys2Proof.Machine
end

