-- ==== Sys2Proof/Laws/Effects.lean ====
section
/-! SUPPORT. What shared operations can do to a state, said once each: notices, occurrences, offers and the checks of a read,
which leave an event with nothing more to follow; and the replay engine's moves, which keep reels and slots. -/

namespace Sys2Proof.Machine

/-! ### Operations after which an event ends at once -/

/-- An operation that leaves an event with only the arbiters of busy ports asked. -/
structure Calm (s t : State) : Prop where
  room : t.ev.roomFreed = s.ev.roomFreed
  look : t.ev.look = s.ev.look
  defr : t.ev.deferring = s.ev.deferring
  mgmt : t.mgmt = s.mgmt
  busy : ∀ p, (t.port p).sending = (s.port p).sending
  cfgs : ∀ r, (t.radio r).cfg = (s.radio r).cfg
  ask : ∀ p ∈ t.ev.ask, p ∈ s.ev.ask ∨ (s.port p).sending.isSome = true

/-- Doing nothing is calm. -/
theorem Calm.refl (s : State) : Calm s s := ⟨rfl, rfl, rfl, rfl, fun _ => rfl, fun _ => rfl, fun _ h => .inl h⟩

/-- Calm operations follow one another. -/
theorem Calm.trans {s t u : State} (h : Calm s t) (k : Calm t u) : Calm s u :=
  ⟨k.room.trans h.room, k.look.trans h.look, k.defr.trans h.defr, k.mgmt.trans h.mgmt, fun p => (k.busy p).trans (h.busy p),
   fun r => (k.cfgs r).trans (h.cfgs r),
   fun p hp => (k.ask p hp).elim (h.ask p) (fun x => .inr (by rw [← h.busy p]; exact x))⟩

/-- After a calm operation the event ends (R53, R170). -/
theorem finish_calm {s t : State} (hs : s.Quiet) (h : Calm s t) (hm : s.Settled) : finish t = t.ended := by
  apply finish_busy
  · rw [h.room]; exact quiet_room hs
  · rw [h.look]; exact quiet_look hs
  · intro p hp
    rw [h.busy p]
    exact (h.ask p hp).elim (fun x => by rw [quiet_ask hs] at x; simp at x) id
  · unfold State.Settled; rw [h.mgmt]; exact hm

/-- An operation that keeps the bookkeeping, the management queue, the ports and the radios is calm. -/
theorem calm_of_fields {s t : State} (h1 : t.ev = s.ev) (h2 : t.mgmt = s.mgmt) (h3 : t.ports = s.ports) (h4 : t.radios = s.radios) :
    Calm s t :=
  ⟨by rw [h1], by rw [h1], by rw [h1], h2, fun p => by simp [State.port, h3], fun r => by simp [State.radio, h4], fun p hp => .inl (by rwa [h1] at hp)⟩

/-- A value other than the default is read back. -/
theorem Table.get_set_of_ne {α : Type} [DecidableEq α] {d : α} {k : Nat} {t : Table α} {v : α} (h : v ≠ d) :
    (t.set d k v).get d k = v := by
  simp [Table.set, h, Table.get]

/-- Counting a frame from a port leaves what each port is sending. -/
theorem heard_port (s : State) (p q : Nat) : ((s.portHeard p).port q).sending = (s.port q).sending := by
  unfold State.portHeard State.modPortCtrs State.port State.setPort
  by_cases h : q = p
  · subst h
    rw [Table.get_set_of_ne (by
      intro hc
      have := congrArg (fun x : Port => x.ctrs.received.toNat) hc
      simp [bump, bumpBy] at this; omega)]
  · simp [Table.get_set_ne h]

/-- Counting a frame from a port is calm. -/
theorem heard_calm (s : State) (p : Nat) : Calm s (s.portHeard p) :=
  ⟨rfl, rfl, rfl, rfl, heard_port s p, fun _ => rfl, fun _ h => .inl h⟩

/-- Changing one radio, where it stays listed, changes no other. -/
theorem modRadio_radio {s : State} {r : Nat} {f : Radio → Radio} (h : f (s.radio r) ≠ {}) (q : Nat) :
    (s.modRadio r f).radio q = if q = r then f (s.radio r) else s.radio q := by
  unfold State.modRadio State.radio State.setRadio
  by_cases hq : q = r
  · subst hq; simp only [if_true]; exact Table.get_set_of_ne h
  · simp [hq, Table.get_set_ne hq]

/-- Changing one radio, where it keeps its configuration, is calm. -/
theorem modRadio_calm {s : State} {r : Nat} {f : Radio → Radio} (h : f (s.radio r) ≠ {}) (hc : (f (s.radio r)).cfg = (s.radio r).cfg) :
    Calm s (s.modRadio r f) :=
  ⟨rfl, rfl, rfl, rfl, fun _ => rfl, fun q => by rw [modRadio_radio h]; split <;> simp_all, fun _ h => .inl h⟩

/-! ### Notices, occurrences and errors -/

/-- A notice writes the transmit FIFO and the notice entries, and nothing else (R182). -/
theorem notice_only (k : NoticeKind) (b : List Byte) (s : State) : ∃ tx es, notice k b s =
    { s with uplink := { s.uplink with tx := tx }, err := { s.err with entries := es } } := by
  unfold notice
  by_cases c : (s.noticeEntry (s.noticeEntryOf k)).enable = false
  · exact ⟨_, _, by rw [if_pos c]; rfl⟩
  · by_cases d : (s.noticeEntry (s.noticeEntryOf k)).mask = true
    · exact ⟨_, _, by rw [if_neg c, if_pos d]; rfl⟩
    · exact ⟨_, _, by rw [if_neg c, if_neg d]; rfl⟩

/-- An occurrence writes the transmit FIFO and the error unit, and nothing else (R178). -/
theorem takeOccurrence_only (o : Occurrence) (s : State) : ∃ tx e, takeOccurrence o s =
    { s with uplink := { s.uplink with tx := tx }, err := e } := by
  unfold takeOccurrence
  by_cases c : (s.errState o.cls).masked = true
  · exact ⟨_, _, by simp only [c, if_true]; rfl⟩
  · simp only [if_neg c]
    obtain ⟨tx, es, h⟩ := notice_only .error (errorBody o (s.setErrState o.cls { s.errState o.cls with status := true, count := bump (s.errState o.cls).count }).venueTime (bump (s.errState o.cls).count))
      (recordFirst o (s.setErrState o.cls { s.errState o.cls with status := true, count := bump (s.errState o.cls).count }))
    rw [h]
    unfold recordFirst
    cases (s.setErrState o.cls { s.errState o.cls with status := true, count := bump (s.errState o.cls).count }).err.first with
    | none => exact ⟨_, _, rfl⟩
    | some f => exact ⟨_, _, rfl⟩

/-- A notice is calm. -/
theorem notice_calm (k b) (s : State) : Calm s (notice k b s) := by
  obtain ⟨tx, es, h⟩ := notice_only k b s; rw [h]; exact calm_of_fields rfl rfl rfl rfl

/-- An occurrence is calm. -/
theorem takeOccurrence_calm (o : Occurrence) (s : State) : Calm s (takeOccurrence o s) := by
  obtain ⟨tx, e, h⟩ := takeOccurrence_only o s
  rw [h]; exact calm_of_fields rfl rfl rfl rfl

/-- An error that charges no last strike is its occurrence, and its strike (R178, R179). -/
theorem raiseError_faulted {s : State} {o : Occurrence} {r : Nat} (hd : s.ev.deferring = false) (ho : o.radio = some r)
    (hn : s.noQuarantine o.cls r = true) : raiseError o s = s.faulted o r := by
  have hsame : (takeOccurrence o s).radios = s.radios ∧ (takeOccurrence o s).err.threshold = s.err.threshold := by
    refine ⟨?_, ?_⟩
    · obtain ⟨tx, e, h⟩ := takeOccurrence_only o s; rw [h]
    · unfold takeOccurrence
      by_cases c : (s.errState o.cls).masked = true
      · simp only [c, if_true]; rfl
      · simp only [if_neg c]
        obtain ⟨tx, es, h⟩ := notice_only .error (errorBody o (s.setErrState o.cls { s.errState o.cls with status := true, count := bump (s.errState o.cls).count }).venueTime (bump (s.errState o.cls).count))
          (recordFirst o (s.setErrState o.cls { s.errState o.cls with status := true, count := bump (s.errState o.cls).count }))
        rw [h]
        unfold recordFirst
        cases (s.setErrState o.cls { s.errState o.cls with status := true, count := bump (s.errState o.cls).count }).err.first <;> rfl
  have hrad : ∀ q, (takeOccurrence o s).radio q = s.radio q := fun q => by unfold State.radio; rw [hsame.1]
  unfold raiseError State.faulted occur
  simp only [hd, Bool.false_eq_true, if_false, ho]
  unfold State.noQuarantine State.charges at *
  unfold strike
  have hin : (takeOccurrence o s).inService r = s.inService r := by unfold State.inService; rw [hrad]
  rw [hin, hrad, hsame.2]
  cases hm : (s.errState o.cls).masked <;> cases hq : o.cls.quarantinable <;> cases hv : (s.errState o.cls).quarantine <;>
    cases hi : s.inService r <;> simp_all
  split
  · omega
  · rw [State.modRadio, State.modRadio, hrad]

/-- An error of a configured radio is calm, where it charges no last strike. -/
theorem faulted_calm {s : State} {o : Occurrence} {r : Nat} (hc : (s.radio r).cfg ≠ none) : Calm s (s.faulted o r) := by
  unfold State.faulted
  split
  · refine (takeOccurrence_calm o s).trans (modRadio_calm ?_ rfl)
    intro h
    have := congrArg Radio.cfg h
    simp at this
    rw [(takeOccurrence_calm o s).cfgs r] at this
    exact hc this
  · exact takeOccurrence_calm o s

/-! ### Arrivals and offers -/

/-- A radio whose frames pass is configured on the port. -/
theorem Passes_cfg {s : State} {p r : Nat} (h : s.Passes p r) : ∃ c, (s.radio r).cfg = some c ∧ c.port = p := by
  obtain ⟨c, h1, h2⟩ := Option.map_eq_some_iff.1 h.2
  exact ⟨c, h1, h2⟩

/-- A frame that passes the carrier checks is counted and taken (R23). -/
theorem arrive_passes {s : State} {p : Fin 4} {radio : Byte} (a : Addr) (m : CarrierMsg) (h : s.Passes p.val radio.toNat) :
    arrive p radio a m s = takeCarrierMsg p.val radio.toNat a m (CarrierFrame.bytes ⟨radio, a, m⟩) (s.portHeard p.val) := by
  unfold arrive takeCarrierFrame carrierChecks
  have h1 : ((fromPort p.val s).radio radio.toNat) = s.radio radio.toNat := rfl
  simp only [h1, h.1, h.2]
  simp
  rfl

/-- Raising the egress count of a station is calm. -/
theorem raiseEgress_calm (h : Option Nat) (s : State) : Calm s (raiseEgress h s) := by
  cases h with
  | none => exact Calm.refl s
  | some k =>
    unfold raiseEgress State.modStation
    simp only
    cases s.station k with
    | none => exact Calm.refl s
    | some st => exact calm_of_fields rfl rfl rfl rfl

/-- Asking the arbiter of a busy port is calm. -/
theorem askRadio_calm {s : State} {r : Nat} (h : s.portBusy r = true) : Calm s (s.askRadio r) := by
  unfold State.askRadio State.portBusy at *
  cases hc : (s.radio r).cfg with
  | none => exact Calm.refl s
  | some c =>
    rw [hc] at h
    unfold State.askPort
    simp only
    split
    · exact Calm.refl s
    · exact ⟨rfl, rfl, rfl, rfl, fun _ => rfl, fun _ => rfl, fun p hp => by
        simp at hp; rcases hp with hp | hp
        · exact .inl hp
        · exact .inr (by rw [hp]; exact h)⟩

/-- A calm operation leaves a busy port busy. -/
theorem Calm.portBusy {s t : State} (h : Calm s t) (r : Nat) : t.portBusy r = s.portBusy r := by
  unfold State.portBusy; rw [h.cfgs]; cases (s.radio r).cfg <;> simp [h.busy]

/-- An offer to a radio of a busy port is calm (R46, R53). -/
theorem offer_calm {sort : OfferSort} {r : Nat} {c : Cls} {f : Frame} {s : State} (hd : s.ev.deferring = false) (hb : s.portBusy r = true) :
    Calm s (offer sort r c f s).2 := by
  unfold offer
  split
  · apply @modRadio_calm s r (fun x => { x with drops := { x.drops with notInService := bump x.drops.notInService } })
    · intro h
      have := congrArg (fun x : Radio => x.drops.notInService.toNat) h
      simp [bump, bumpBy] at this; omega
    · rfl
  · split
    · next l opened hp =>
      unfold acceptFrame askIfEligible
      simp only
      have h2 : Calm s (raiseEgress f.handle { s.setList r c l with
          egress := { (s.setList r c l).egress with
            buffers := (s.setList r c l).egress.buffers + 1
            bursts := (s.setList r c l).egress.bursts + (if opened then 1 else 0)
            accepted := bump (s.setList r c l).egress.accepted } }) :=
        (fun u (hu : Calm s u) => hu.trans (raiseEgress_calm f.handle u)) _ (calm_of_fields rfl rfl rfl rfl)
      split
      · exact h2.trans (askRadio_calm (by rw [h2.portBusy]; exact hb))
      · exact h2
    · cases sort with
      | declinable => exact calm_of_fields rfl rfl rfl rfl
      | droppable =>
        have h1 : Calm s (s.modRadio r (fun x => { x with drops := { x.drops with overflow := bump x.drops.overflow } })) := by
          apply @modRadio_calm s r (fun x => { x with drops := { x.drops with overflow := bump x.drops.overflow } })
          · intro h
            have := congrArg (fun x : Radio => x.drops.overflow.toNat) h
            simp [bump, bumpBy] at this; omega
          · rfl
        simp only [occur]
        split
        · next hx => rw [h1.defr, hd] at hx; simp at hx
        · exact h1.trans (takeOccurrence_calm _ _)

/-- An offer leaves the admission engine as it is. -/
theorem offer_adm {sort : OfferSort} {r : Nat} {c : Cls} {f : Frame} {s : State} : (offer sort r c f s).2.adm = s.adm := by
  unfold offer
  split
  · rfl
  · split
    · unfold acceptFrame askIfEligible
      simp only
      have h2 : ∀ (h : Option Nat) (u : State), (raiseEgress h u).adm = u.adm := by
        intro h u
        cases h with
        | none => rfl
        | some k => unfold raiseEgress State.modStation; simp only; cases u.station k <;> rfl
      have h3 : ∀ u : State, (u.askRadio r).adm = u.adm := by
        intro u; unfold State.askRadio State.askPort; cases (u.radio r).cfg with
        | none => rfl
        | some c => simp only; split <;> rfl
      split
      · rw [h3, h2]; rfl
      · rw [h2]; rfl
    · cases sort with
      | declinable => rfl
      | droppable =>
        simp only [occur]
        split
        · rfl
        · obtain ⟨tx, e, h⟩ := takeOccurrence_only { cls := .egressOverflow, radio := some r, frame := some (f.offered r) } (s.modRadio r (fun x => { x with drops := { x.drops with overflow := bump x.drops.overflow } }))
          rw [h]; rfl

/-! ### The checks of a completed read, and looking for slots -/

/-- Applying check results writes the map, the counters, the error unit and the transmit FIFO, and nothing else (R87, R165). -/
theorem checked_only (s : State) (check : List Nat) : ∃ map k m e tx, s.checked check = { s with
    adm := { s.adm with map := map, ctrs := k }
    mem := { s.mem with ctrs := m }
    err := e
    uplink := { s.uplink with tx := tx } } := by
  have key : ∀ (l : List Nat) (u : State), ∃ map k e tx,
      l.foldl (fun t p => takeOccurrence { cls := .recordFault, place := some (p / 4, p % 4) }
        ((t.setEntry p { t.entry p with faulty := true }).modAdmCtrs (fun k => { k with faultyFound := bump k.faultyFound }))) u
      = { u with adm := { u.adm with map := map, ctrs := k }, err := e, uplink := { u.uplink with tx := tx } } := by
    intro l
    induction l with
    | nil => intro u; exact ⟨_, _, _, _, rfl⟩
    | cons p l ih =>
      intro u
      obtain ⟨tx, e, h⟩ := takeOccurrence_only { cls := .recordFault, place := some (p / 4, p % 4) }
        ((u.setEntry p { u.entry p with faulty := true }).modAdmCtrs (fun k => { k with faultyFound := bump k.faultyFound }))
      rw [List.foldl_cons, h]
      obtain ⟨map, k, e', tx', h'⟩ := ih _
      rw [h']
      exact ⟨_, _, _, _, rfl⟩
  obtain ⟨map, k, e, tx, h⟩ := key (check.filter (fun p => !s.credPasses p)) { s with mem := { s.mem with ctrs := { s.mem.ctrs with
    checkFailures := bumpBy s.mem.ctrs.checkFailures (check.filter (fun p => !s.credPasses p)).length } } }
  exact ⟨map, k, _, e, tx, h⟩

/-- Applying check results is calm. -/
theorem checked_calm (s : State) (check : List Nat) : Calm s (s.checked check) := by
  obtain ⟨_, _, _, _, _, h⟩ := checked_only s check
  rw [h]; exact calm_of_fields rfl rfl rfl rfl

/-- The checks of a read are applied as they come, where errors are not put off (R87). -/
theorem applyChecks_checked {s : State} (hd : s.ev.deferring = false) (check : List Nat) : applyChecks check s = s.checked check := by
  unfold applyChecks State.checked failedChecks
  simp only
  have : ∀ (l : List Nat) (u : State), u.ev.deferring = false → l.foldl (fun s p => markFaulty p s) u =
      l.foldl (fun t p => takeOccurrence { cls := .recordFault, place := some (p / 4, p % 4) }
      ((t.setEntry p { t.entry p with faulty := true }).modAdmCtrs (fun k => { k with faultyFound := bump k.faultyFound }))) u := by
    intro l
    induction l with
    | nil => intro u _; rfl
    | cons q l ih =>
      intro u hu
      rw [List.foldl_cons, List.foldl_cons]
      have hq : markFaulty q u = takeOccurrence { cls := .recordFault, place := some (q / 4, q % 4) }
        ((u.setEntry q { u.entry q with faulty := true }).modAdmCtrs (fun k => { k with faultyFound := bump k.faultyFound })) := by
        unfold markFaulty occur
        rw [if_neg (by show ¬ u.ev.deferring = true; simp [hu])]
        rfl
      rw [hq]
      apply ih
      rw [(takeOccurrence_calm _ _).defr]
      exact hu
  exact this _ _ hd

/-- With no item that may fetch, no slot is granted (R92). -/
theorem grant_none {s : State} (h : s.adm.items.find? s.mayFetch = none) (n : Nat) : grantSlots n s = s := by
  cases n with
  | zero => rfl
  | succ n => unfold grantSlots; rw [h]; cases s.adm.freeSlot <;> rfl

/-- At an idle engine a look for a slot finds nothing, and the event ends (R92). -/
theorem finish_look {s t : State} (hs : s.Quiet) (h : Calm s t) (hm : s.Settled) (hi : t.adm.items = []) (ho : t.adm.op = none)
    (hst : t.adm.sweep.stride = none) : finish t.lookForSlot = t.ended := by
  have hl : t.ev.look = false := by rw [h.look]; exact quiet_look hs
  have hclear : { t.lookForSlot with ev := { t.lookForSlot.ev with look := false } } = t := by
    unfold State.lookForSlot
    have h2 : ({ t.ev with look := false } : Scratch) = t.ev := by rw [← hl]
    show ({ t with ev := { t.ev with look := false } } : State) = t
    rw [h2]
  have hset : settle t.lookForSlot = t := by
    unfold settle
    rw [if_pos (show t.lookForSlot.ev.look = true from rfl), hclear]
    have h1 : sendStride t = t := by
      unfold sendStride
      rw [if_neg]
      rintro ⟨h, _⟩
      rw [hst] at h; simp at h
    have h2 : takeBucket t = t := by unfold takeBucket; rw [ho]
    rw [h1, h2]
    exact grant_none (by rw [hi]; rfl) _
  have hr : t.ev.roomFreed = false := by rw [h.room]; exact quiet_room hs
  have : finish t.lookForSlot = finish t := by
    unfold finish flush
    rw [announce_none (show t.lookForSlot.ev.roomFreed = false from hr), hset, announce_none hr, settle_none hl]
  rw [this]
  exact finish_calm hs h hm

/-! ### The replay engine keeps reels and slots -/

/-- An operation that keeps the bookkeeping, the management and error units, the uplink, the reels and the slots. -/
structure KeepsReels (s t : State) : Prop where
  ev : t.ev = s.ev
  mgmt : t.mgmt = s.mgmt
  err : t.err = s.err
  uplink : t.uplink = s.uplink
  reels : t.replay.reels = s.replay.reels
  slots : t.replay.slots = s.replay.slots
/-- Doing nothing keeps them. -/
theorem KeepsReels.refl (s : State) : KeepsReels s s := ⟨rfl, rfl, rfl, rfl, rfl, rfl⟩
/-- Such operations follow one another. -/
theorem KeepsReels.trans {s t u : State} (h : KeepsReels s t) (k : KeepsReels t u) : KeepsReels s u :=
  ⟨k.1.trans h.1, k.2.trans h.2, k.3.trans h.3, k.4.trans h.4, k.5.trans h.5, k.6.trans h.6⟩
/-- Such an operation may be repeated. -/
theorem KeepsReels.foldl {α} (f : State → α → State) (hf : ∀ s a, KeepsReels s (f s a)) (l : List α) (s : State) : KeepsReels s (l.foldl f s) := by
  induction l generalizing s with
  | nil => exact KeepsReels.refl s
  | cons a l ih => exact (hf s a).trans (ih _)
theorem KeepsReels.modStation (s : State) (h f) : KeepsReels s (s.modStation h f) := by
  unfold State.modStation; split <;> exact ⟨rfl, rfl, rfl, rfl, rfl, rfl⟩
theorem KeepsReels.modDelivery (s : State) (h f) : KeepsReels s (s.modDelivery h f) := by
  unfold State.modDelivery; split <;> exact ⟨rfl, rfl, rfl, rfl, rfl, rfl⟩
theorem KeepsReels.setRider (s : State) (h r) : KeepsReels s (s.setRider h r) := KeepsReels.modStation _ _ _
/-- Reading a chunk keeps them (R153). -/
theorem KeepsReels.readChunk (s : State) (d) : KeepsReels s (readChunk d s) := by
  unfold Machine.readChunk; split <;> exact ⟨rfl, rfl, rfl, rfl, rfl, rfl⟩
/-- Making a delivery keeps them (R151). -/
theorem KeepsReels.create (s : State) (h r slot n) : KeepsReels s (createDelivery h r slot n s) := by
  unfold createDelivery
  refine KeepsReels.trans ?_ (KeepsReels.readChunk _ _)
  refine KeepsReels.trans ?_ (KeepsReels.setRider _ _ _)
  exact ⟨rfl, rfl, rfl, rfl, rfl, rfl⟩
/-- Joining one keeps them (R151). -/
theorem KeepsReels.join (s : State) (h d) : KeepsReels s (joinDelivery h d s) := by
  unfold joinDelivery
  exact ((KeepsReels.modDelivery _ _ _).trans (KeepsReels.setRider _ _ _)).trans ⟨rfl, rfl, rfl, rfl, rfl, rfl⟩
/-- Taking a segment keeps them (R151). -/
theorem KeepsReels.take (s : State) (h r reel n) : KeepsReels s (takeSegment h r reel n s) := by
  unfold takeSegment
  split
  · exact KeepsReels.setRider _ _ _
  · split
    · exact KeepsReels.join _ _ _
    · split
      · exact KeepsReels.create _ _ _ _ _
      · unfold joinWaiting
        exact KeepsReels.trans (t := s.setWaitList r (s.waitList r ++ [h])) ⟨rfl, rfl, rfl, rfl, rfl, rfl⟩ (KeepsReels.setRider _ _ _)
/-- A seek keeps them (R150). -/
theorem KeepsReels.sought (s : State) (h x) : KeepsReels s (applySought h x s) := by
  unfold applySought
  simp only
  split
  · exact KeepsReels.modStation _ _ _
  · exact (KeepsReels.modStation _ _ _).trans ⟨rfl, rfl, rfl, rfl, rfl, rfl⟩
/-- Seeking and taking keep them (R150, R151). -/
theorem KeepsReels.seekTake (s : State) (l h) : KeepsReels s (seekAndTake l h s) := by
  unfold seekAndTake
  split
  · exact KeepsReels.refl _
  · split
    · simp only
      split
      · exact (KeepsReels.sought _ _ _).trans (KeepsReels.take _ _ _ _ _)
      · exact (KeepsReels.sought _ _ _).trans (KeepsReels.setRider _ _ _)
    · exact KeepsReels.refl _
theorem KeepsReels.leave (s : State) (r l) : KeepsReels s (s.setWaitList r l) := ⟨rfl, rfl, rfl, rfl, rfl, rfl⟩
/-- Serving a station keeps them (R152). -/
theorem KeepsReels.serve (s : State) (r h) : KeepsReels s (serveStation r h s) := by
  unfold serveStation
  split
  · exact KeepsReels.refl _
  · split
    · exact KeepsReels.refl _
    · simp only
      split
      · exact ((KeepsReels.sought _ _ _).trans (KeepsReels.leave _ _ _)).trans (KeepsReels.setRider _ _ _)
      · split
        · exact ((KeepsReels.sought _ _ _).trans (KeepsReels.leave _ _ _)).trans (KeepsReels.join _ _ _)
        · split
          · exact ((KeepsReels.sought _ _ _).trans (KeepsReels.leave _ _ _)).trans (KeepsReels.create _ _ _ _ _)
          · exact KeepsReels.sought _ _ _
/-- Serving the lists keeps them (R152). -/
theorem KeepsReels.places (s : State) (r) : KeepsReels s (servePlaces r s) := by
  have h : ∀ r s, KeepsReels s (serveList r s) := fun r s => KeepsReels.foldl _ (fun s h => KeepsReels.serve s r h) _ _
  unfold servePlaces serveOthers
  refine (h r s).trans (KeepsReels.foldl _ ?_ _ _)
  intro s q; split
  · exact h q s
  · exact KeepsReels.refl _
/-- Moving a rider keeps them (R156). -/
theorem KeepsReels.lapRider (s : State) (reel h) : KeepsReels s (lapRider reel h s) := by
  unfold Machine.lapRider
  split
  · simp only
    split
    · exact (KeepsReels.modStation _ _ _).trans (KeepsReels.seekTake _ _ _)
    · exact KeepsReels.seekTake _ _ _
  · exact KeepsReels.refl _
/-- A lapped delivery, with its riders and lists, keeps them (R156). -/
theorem KeepsReels.lap (s : State) (d) : KeepsReels s (lapDelivery d s) := by
  unfold lapDelivery
  split
  · exact KeepsReels.refl _
  · refine KeepsReels.trans (KeepsReels.trans ?_ (KeepsReels.foldl _ (fun s h => KeepsReels.lapRider s _ h) _ _)) (KeepsReels.places _ _)
    exact ⟨rfl, rfl, rfl, rfl, rfl, rfl⟩

end Sys2Proof.Machine
end

