-- ==== Sys2Proof/Laws/Keep.lean ====
section
/-! SUPPORT. What every operation keeps: the bounds of the queues and pools, the canonical form of the two memory areas, and a
management queue that does not grow. One lemma per operation, each from those of the operations it calls. -/

namespace Sys2Proof.Machine

/-- What is kept, of the fields it speaks of. `m` bounds the directives held; `n` bounds them too, but for a head that waits
at its owner. -/
structure Kept (m n buffers bursts items outstanding : Nat) (mem : RecMem) (mgmt : Mgmt) : Prop where
  buffers : buffers ≤ 4096
  bursts : bursts ≤ 1024
  items : items ≤ 64
  outstanding : outstanding ≤ 128
  starveIngest : mem.starveIngest ≤ 16
  starveStride : mem.starveStride ≤ 64
  cred : Memory.wf mem.cred = true
  clip : Memory.wf mem.clip = true
  filter : mgmt.filter.length ≤ 4
  queue : mgmt.queue.length ≤ m
  waits : mgmt.queue.length ≤ n ∨ (mgmt.started = true ∧ mgmt.queue.length ≤ n + 1)

/-- What is kept, of a state. -/
def K (m n : Nat) (s : State) : Prop :=
  Kept m n s.egress.buffers s.egress.bursts s.adm.items.length s.replay.outstanding s.mem s.mgmt

variable {m n : Nat} {s : State}

/-- A chain of operations, each of which keeps it. -/
theorem K.foldl {α : Type} {f : State → α → State} (hf : ∀ s a, K m n s → K m n (f s a)) (l : List α) {s : State}
    (h : K m n s) : K m n (l.foldl f s) := by
  induction l generalizing s with
  | nil => exact h
  | cons a l ih => exact ih (hf s a h)

/-- A chain of operations that also carries a value. -/
theorem K.foldl_snd {α β : Type} {f : β × State → α → β × State} (hf : ∀ x a, K m n x.2 → K m n (f x a).2)
    (l : List α) {x : β × State} (h : K m n x.2) : K m n (l.foldl f x).2 := by
  induction l generalizing x with
  | nil => exact h
  | cons a l ih => exact ih (hf x a h)

theorem K.snd {β : Type} {x : β × State} {b : β} {t : State} (h : K m n x.2) (he : x = (b, t)) : K m n t := by
  rw [he] at h; exact h

/-! ### Ops -/

theorem K.modStation (h : K m n s) (k : Nat) (f : Station → Station) : K m n (s.modStation k f) := by
  unfold State.modStation
  split
  · exact h
  · exact h

theorem K.askPort (h : K m n s) (p : Nat) : K m n (s.askPort p) := by
  unfold State.askPort
  split
  · exact h
  · exact h

theorem K.askRadio (h : K m n s) (r : Nat) : K m n (s.askRadio r) := by
  unfold State.askRadio
  split
  · exact h.askPort _
  · exact h

theorem K.askAll (h : K m n s) : K m n s.askAll := (((h.askPort 0).askPort 1).askPort 2).askPort 3

/-! ### Flags -/

theorem K.notice (h : K m n s) (k : NoticeKind) (body : List Byte) : K m n (Machine.notice k body s) := by
  unfold Machine.notice
  simp only
  split
  · exact h
  · split
    · exact h
    · exact h

theorem K.recordFirst (h : K m n s) (o : Occurrence) : K m n (Machine.recordFirst o s) := by
  unfold Machine.recordFirst
  split
  · exact h
  · exact h

theorem K.takeOccurrence (h : K m n s) (o : Occurrence) : K m n (Machine.takeOccurrence o s) := by
  unfold Machine.takeOccurrence
  simp only
  split
  · exact h
  · refine K.notice (K.recordFirst ?_ _) _ _
    exact h

theorem K.occur (h : K m n s) (o : Occurrence) : K m n (Machine.occur o s) := by
  unfold Machine.occur
  split
  · exact h
  · exact h.takeOccurrence o

/-! ### Airtime -/

theorem K.changeSurge (h : K m n s) (new : Surge) : K m n (Machine.changeSurge new s) := by
  unfold Machine.changeSurge
  simp only
  have h1 : K m n (surgeNotice (s.modGov (fun g => { g with surge := new }))) := by
    unfold surgeNotice
    refine K.notice ?_ _ _
    exact h
  split
  · exact h1
  · refine K.askAll ?_
    exact h1

theorem K.takeSurge (h : K m n s) (was : Bool) : K m n (Machine.takeSurge was s) := by
  unfold Machine.takeSurge
  simp only
  split
  · exact h
  · split
    · split
      · exact K.changeSurge (s := s.modGovCtrs _) h _
      · exact h.changeSurge _
      · exact h
    · split
      · exact h.changeSurge _
      · exact h

theorem K.stageExpired (h : K m n s) (k : Nat) : K m n (Machine.stageExpired k s) := h.changeSurge _

theorem K.grantRequest (h : K m n s) (r : Nat) (cs : List Cls) : K m n (Machine.grantRequest r cs s).2 := by
  unfold Machine.grantRequest
  simp only
  split <;> exact h

/-! ### Egress -/

theorem K.raiseEgress (h : K m n s) (x : Option Nat) : K m n (Machine.raiseEgress x s) := by
  unfold Machine.raiseEgress
  split
  · exact h.modStation _ _
  · exact h

theorem K.lowerEgress (h : K m n s) (x : Option Nat) : K m n (Machine.lowerEgress x s) := by
  unfold Machine.lowerEgress
  split
  · exact h.modStation _ _
  · exact h

theorem K.askIfEligible (h : K m n s) (r : Nat) (c : Cls) (was new : List Burst) (u : Bool) :
    K m n (Machine.askIfEligible r c was new u s) := by
  unfold Machine.askIfEligible
  split
  · exact h.askRadio r
  · exact h

/-- A frame is placed only while a buffer is free, and opens a burst only while one is (R44). -/
theorem place_room {s : State} {r : Nat} {c : Cls} {f : Frame} {l : List Burst} {opened : Bool}
    (h : place s r c f = some (l, opened)) :
    s.egress.buffers < 4096 ∧ (opened = true → s.egress.bursts < 1024) := by
  unfold place at h
  simp only at h
  split at h
  · next hb =>
    have hb' : s.egress.buffers < 4096 := by
      unfold bufferFree at hb
      simp only [decide_eq_true_eq, Config.frameBuffers, Config.sharedBuffers] at hb
      split at hb <;> omega
    refine ⟨hb', fun ho => ?_⟩
    split at h
    · simp only [Option.some.injEq, Prod.mk.injEq] at h
      rw [ho] at h; simp at h
    · split at h
      · next hc =>
        have := hc.1
        unfold burstFree at this
        simp only [decide_eq_true_eq, Config.burstRecords, Config.sharedBursts] at this
        split at this <;> omega
      · simp at h
  · simp at h

theorem K.acceptFrame (h : K m n s) {r : Nat} {c : Cls} {f : Frame} {l : List Burst} {opened : Bool}
    (hp : place s r c f = some (l, opened)) : K m n (Machine.acceptFrame r c f l opened s) := by
  obtain ⟨hb, ho⟩ := place_room hp
  unfold Machine.acceptFrame
  simp only
  refine K.askIfEligible (K.raiseEgress ?_ _) _ _ _ _ _
  refine { h with buffers := ?_, bursts := ?_ }
  · show s.egress.buffers + 1 ≤ 4096
    omega
  · show s.egress.bursts + (if opened = true then 1 else 0) ≤ 1024
    have := h.bursts
    split
    · next hh => have := ho hh; omega
    · omega

theorem K.offer (h : K m n s) (sort : OfferSort) (r : Nat) (c : Cls) (f : Frame) : K m n (Machine.offer sort r c f s).2 := by
  unfold Machine.offer
  split
  · exact h
  · split
    · next hp => exact h.acceptFrame hp
    · split
      · exact h
      · refine K.occur ?_ _
        exact h

theorem K.offerService (h : K m n s) (r : Nat) (a : Addr) (code : Byte) (body : List Byte) :
    K m n (Machine.offerService r a code body s).2 := h.offer _ _ _ _

theorem K.takeFromList (h : K m n s) (x r : Nat) (c : Cls) : K m n (Machine.takeFromList x r c s).2 := by
  unfold Machine.takeFromList
  simp only
  split
  · exact h
  · refine K.askIfEligible ?_ _ _ _ _ _
    exact { h with
      buffers := le_trans (Nat.sub_le _ _) h.buffers
      bursts := le_trans (Nat.sub_le _ _) h.bursts }

theorem K.takeFromRadio (h : K m n s) (x r : Nat) : K m n (Machine.takeFromRadio x r s).2 := by
  unfold Machine.takeFromRadio
  refine K.foldl_snd (fun y c hy => ?_) _ (x := ([], s)) h
  exact hy.takeFromList x r c

theorem K.setEgressLists (h : K m n s) (l : Table RadioLists) :
    K m n { s with egress := { s.egress with lists := l } } := h

theorem K.discardQueued (h : K m n s) (x : Nat) : K m n (Machine.discardQueued x s).2 := by
  unfold Machine.discardQueued
  have h1 : K m n (s.egress.lists.keys.foldl (fun acc r =>
      let (fs, s1) := Machine.takeFromRadio x r acc.2
      (acc.1 + fs.length, s1)) (0, s)).2 := by
    refine K.foldl_snd (fun y r hy => ?_) _ (x := (0, s)) h
    have hy' := hy.takeFromRadio x r
    generalize Machine.takeFromRadio x r y.2 = q at hy' ⊢
    exact hy'
  generalize s.egress.lists.keys.foldl _ (0, s) = q at h1 ⊢
  exact h1

theorem K.modRadioFreed (h : K m n s) (r : Nat) (f : Radio → Radio) : K m n (s.modRadio r f).freedRoom := h

theorem K.lowerAll (h : K m n s) (l : List Frame) : K m n (l.foldl (fun s f => Machine.lowerEgress f.handle s) s) :=
  K.foldl (fun _ f hs => hs.lowerEgress f.handle) l h

theorem K.purge (h : K m n s) (r : Nat) : K m n (Machine.purge r s) := by
  unfold Machine.purge
  simp only
  split
  · exact h
  · refine K.modRadioFreed (K.lowerAll ?_ _) _ _
    exact { h with
      buffers := le_trans (Nat.sub_le _ _) h.buffers
      bursts := le_trans (Nat.sub_le _ _) h.bursts }

theorem K.dispatch (h : K m n s) (p r : Nat) (cs : List Cls) (c : Cls) : K m n (Machine.dispatch p r cs c s) := by
  unfold Machine.dispatch
  split <;> exact h

theorem K.arbiterOver (h : K m n s) (p : Nat) (rs : List Nat) : K m n (Machine.arbiterOver p rs s) := by
  induction rs generalizing s with
  | nil => exact h
  | cons r rs ih =>
    unfold Machine.arbiterOver
    simp only
    have hg := h.grantRequest r (eligible (s.lists r))
    split
    · next heq => exact (hg.snd heq).dispatch _ _ _ _
    · next heq => exact ih (hg.snd heq)

theorem K.runArbiter (h : K m n s) (p : Nat) : K m n (Machine.runArbiter p s) := by
  unfold Machine.runArbiter
  split
  · exact h
  · exact h.arbiterOver p _

theorem K.runArbiters (h : K m n s) : K m n (Machine.runArbiters s) := by
  unfold Machine.runArbiters
  exact K.foldl (fun _ p hs => hs.runArbiter p) _ h

theorem K.closeListByAge (h : K m n s) (r : Nat) (c : Cls) : K m n (Machine.closeListByAge r c s) := by
  unfold Machine.closeListByAge
  simp only
  split
  · exact h
  · refine K.askIfEligible ?_ _ _ _ _ _
    exact h

theorem K.closeByAge (h : K m n s) (r : Nat) : K m n (Machine.closeByAge r s) :=
  K.foldl (fun _ c hs => hs.closeListByAge r c) _ h

theorem K.finishBurst (h : K m n s) (r : Nat) (c : Cls) : K m n (Machine.finishBurst r c s).2 := by
  unfold Machine.finishBurst
  split
  · exact h
  · refine K.askIfEligible ?_ _ _ _ _ _
    next b bs heq =>
    have h4 : K m n (b.frames.foldl (fun s f => Machine.lowerEgress f.handle s) (s.setList r c bs)) :=
      K.lowerAll (s := s.setList r c bs) h _
    exact { h4 with
      buffers := le_trans (Nat.sub_le _ _) h4.buffers
      bursts := le_trans (Nat.sub_le _ _) h4.bursts }

theorem K.completeTransmit (h : K m n s) (p : Nat) : K m n (Machine.completeTransmit p s) := by
  unfold Machine.completeTransmit
  split
  · exact h
  · next r c heq =>
    refine K.askPort ?_ _
    exact h.finishBurst r c

/-! ### Record memory -/

/-- A grant keeps the starvation counters within their due values, and the areas as they are (R163). -/
theorem grant_keeps (k : RecMem) (hi : k.starveIngest ≤ 16) (hs : k.starveStride ≤ 64) :
    k.grant.starveIngest ≤ 16 ∧ k.grant.starveStride ≤ 64 ∧ k.grant.cred = k.cred ∧ k.grant.clip = k.clip := by
  have hst : ∀ (own x : ReqKind) (q : List Tagged) (due c : Nat), c ≤ due → starveAfter own x q due c ≤ due := by
    intro own x q due c hc
    unfold starveAfter
    split
    · omega
    · split
      · exact hc
      · exact Nat.min_le_left _ _
  have hc : ∀ (x : ReqKind) (q : List Tagged), (k.setQueue x q).cred = k.cred ∧ (k.setQueue x q).clip = k.clip := by
    intro x q
    cases x <;> exact ⟨rfl, rfl⟩
  unfold RecMem.grant
  split
  · split
    · exact ⟨hi, hs, rfl, rfl⟩
    · exact ⟨hst _ _ _ _ _ hi, hst _ _ _ _ _ hs, (hc _ _).1, (hc _ _).2⟩
  · exact ⟨hi, hs, rfl, rfl⟩

theorem send_keeps (k : RecMem) (r : Request) (hi : k.starveIngest ≤ 16) (hs : k.starveStride ≤ 64) :
    (k.send r).starveIngest ≤ 16 ∧ (k.send r).starveStride ≤ 64 ∧ (k.send r).cred = k.cred ∧ (k.send r).clip = k.clip := by
  unfold RecMem.send
  simp only
  have h1 : ∀ (x : ReqKind) (q : List Tagged), (k.setQueue x q).starveIngest = k.starveIngest ∧
      (k.setQueue x q).starveStride = k.starveStride ∧ (k.setQueue x q).cred = k.cred ∧ (k.setQueue x q).clip = k.clip := by
    intro x q
    cases x <;> exact ⟨rfl, rfl, rfl, rfl⟩
  obtain ⟨a, b, c, d⟩ := h1 r.kind (k.queue r.kind ++ [⟨r, false⟩])
  split
  · split
    · have := grant_keeps { k.setQueue r.kind (k.queue r.kind ++ [⟨r, false⟩]) with starveIngest := 0 } (by simp) (by simpa [b] using hs)
      exact ⟨this.1, this.2.1, this.2.2.1.trans c, this.2.2.2.trans d⟩
    · have := grant_keeps { k.setQueue r.kind (k.queue r.kind ++ [⟨r, false⟩]) with starveStride := 0 } (by simpa [a] using hi) (by simp)
      exact ⟨this.1, this.2.1, this.2.2.1.trans c, this.2.2.2.trans d⟩
    · have := grant_keeps (k.setQueue r.kind (k.queue r.kind ++ [⟨r, false⟩])) (by simpa [a] using hi) (by simpa [b] using hs)
      exact ⟨this.1, this.2.1, this.2.2.1.trans c, this.2.2.2.trans d⟩
  · have := grant_keeps (k.setQueue r.kind (k.queue r.kind ++ [⟨r, false⟩])) (by simpa [a] using hi) (by simpa [b] using hs)
    exact ⟨this.1, this.2.1, this.2.2.1.trans c, this.2.2.2.trans d⟩

theorem K.sendRequest (h : K m n s) (r : Request) : K m n (s.sendRequest r) := by
  obtain ⟨a, b, c, d⟩ := send_keeps s.mem r h.starveIngest h.starveStride
  exact { h with
    starveIngest := a
    starveStride := b
    cred := by show Memory.wf (s.mem.send r).cred = true; rw [c]; exact h.cred
    clip := by show Memory.wf (s.mem.send r).clip = true; rw [d]; exact h.clip }

theorem K.failedChecks (h : K m n s) (check : List Nat) : K m n (Machine.failedChecks check s).2 := by
  unfold Machine.failedChecks
  exact { h with starveIngest := h.starveIngest, starveStride := h.starveStride, cred := h.cred, clip := h.clip }

theorem K.markAll (h : K m n s) : K m n (s.modMem RecMem.markAll) :=
  { h with starveIngest := h.starveIngest, starveStride := h.starveStride, cred := h.cred, clip := h.clip }

end Sys2Proof.Machine
end

