-- ==== Sys2Proof/Laws/KeepBlocks.lean ====
section
/-! SUPPORT. What the operations of the replay engine, the station table, the roam engine, the error unit, the admission engine
and the clip store keep (Laws/Keep.lean). -/

namespace Sys2Proof.Machine

variable {m n : Nat} {s : State}

/-! ### Updates of fields that are not spoken of -/

theorem K.modRadio (h : K m n s) (r : Nat) (f : Radio → Radio) : K m n (s.modRadio r f) := h
theorem K.setStation (h : K m n s) (x : Nat) (v : Station) : K m n (s.setStation x v) := h
theorem K.delStation (h : K m n s) (x : Nat) : K m n (s.delStation x) := h
theorem K.modStationCtrs (h : K m n s) (f : StationCtrs → StationCtrs) : K m n (s.modStationCtrs f) := h
theorem K.modRoam (h : K m n s) (f : Roam → Roam) : K m n (s.modRoam f) := h
theorem K.modRoamCtrs (h : K m n s) (f : RoamCtrs → RoamCtrs) : K m n (s.modRoamCtrs f) := h
theorem K.modAdmCtrs (h : K m n s) (f : AdmCtrs → AdmCtrs) : K m n (s.modAdmCtrs f) := h
theorem K.modSweep (h : K m n s) (f : Sweep → Sweep) : K m n (s.modSweep f) := h
theorem K.setEntry (h : K m n s) (p : Nat) (e : MapEntry) : K m n (s.setEntry p e) := h
theorem K.setOccupancy (h : K m n s) (z k : Nat) : K m n (s.setOccupancy z k) := h
theorem K.modEntry (h : K m n s) (p : Nat) (f : MapEntry → MapEntry) : K m n (s.modEntry p f) := h
theorem K.modReplayCtrs (h : K m n s) (f : ReplayCtrs → ReplayCtrs) : K m n (s.modReplayCtrs f) := h
theorem K.setReel (h : K m n s) (r : Nat) (v : Reel) : K m n (s.setReel r v) := h
theorem K.modReelCfg (h : K m n s) (r : Nat) (f : ReelCfg → ReelCfg) : K m n (s.modReelCfg r f) := h
theorem K.modReelCtrs (h : K m n s) (r : Nat) (f : ReelCtrs → ReelCtrs) : K m n (s.modReelCtrs r f) := h
theorem K.setSlot (h : K m n s) (k : Nat) (v : Slot) : K m n (s.setSlot k v) := h
theorem K.modSlot (h : K m n s) (k : Nat) (f : Slot → Slot) : K m n (s.modSlot k f) := h
theorem K.setDelivery (h : K m n s) (d : Nat) (v : Delivery) : K m n (s.setDelivery d v) := h
theorem K.setWaitList (h : K m n s) (r : Nat) (l : List Nat) : K m n (s.setWaitList r l) := h
theorem K.freedRoom (h : K m n s) : K m n s.freedRoom := h
theorem K.lookForSlot (h : K m n s) : K m n s.lookForSlot := h
theorem K.modGov (h : K m n s) (f : Governor → Governor) : K m n (s.modGov f) := h
theorem K.modGovCtrs (h : K m n s) (f : GovCtrs → GovCtrs) : K m n (s.modGovCtrs f) := h

/-- A change of the replay engine that leaves the writes outstanding alone. -/
theorem K.modReplay (h : K m n s) {f : Replay → Replay} (hf : (f s.replay).outstanding = s.replay.outstanding) :
    K m n (s.modReplay f) := by
  refine { h with outstanding := ?_ }
  show (f s.replay).outstanding ≤ 128
  rw [hf]; exact h.outstanding

/-- A change of the admission engine that adds no work item. -/
theorem K.modAdm (h : K m n s) {f : Admission → Admission} (hf : (f s.adm).items.length ≤ s.adm.items.length) :
    K m n (s.modAdm f) :=
  { h with items := le_trans hf h.items }

/-! ### Replay -/

theorem K.modSub (h : K m n s) (x : Nat) (f : Sub → Sub) : K m n (s.modSub x f) := h.modStation _ _

theorem K.setRider (h : K m n s) (x : Nat) (r : Option Rider) : K m n (s.setRider x r) := h.modSub _ _

theorem K.modDelivery (h : K m n s) (d : Nat) (f : Delivery → Delivery) : K m n (s.modDelivery d f) := by
  unfold State.modDelivery
  split
  · exact h.setDelivery _ _
  · exact h

theorem K.readChunk (h : K m n s) (d : Nat) : K m n (Machine.readChunk d s) := by
  unfold Machine.readChunk
  split
  · exact h
  · exact ((h.setDelivery _ _).modReplayCtrs _).sendRequest _

theorem K.createDelivery (h : K m n s) (x r slot k : Nat) : K m n (Machine.createDelivery x r slot k s) := by
  unfold Machine.createDelivery
  exact ((((h.setDelivery _ _).modReplay rfl).modReplayCtrs _).setRider _ _).readChunk _

theorem K.joinDelivery (h : K m n s) (x d : Nat) : K m n (Machine.joinDelivery x d s) :=
  ((h.modDelivery _ _).setRider _ _).modReplayCtrs _

theorem K.joinWaiting (h : K m n s) (x r : Nat) : K m n (Machine.joinWaiting x r s) := (h.setWaitList _ _).setRider _ _

theorem K.takeSegment (h : K m n s) (x r reel k : Nat) : K m n (Machine.takeSegment x r reel k s) := by
  unfold Machine.takeSegment
  split
  · exact h.setRider _ _
  · split
    · exact h.joinDelivery _ _
    · split
      · exact h.createDelivery _ _ _ _
      · exact h.joinWaiting _ _

theorem K.applySought (h : K m n s) (x : Nat) (y : Sought) : K m n (Machine.applySought x y s) := by
  unfold Machine.applySought
  simp only
  split
  · exact h.modSub _ _
  · exact (h.modSub _ _).modReplayCtrs _

theorem K.seekAndTake (h : K m n s) (b : Bool) (x : Nat) : K m n (Machine.seekAndTake b x s) := by
  unfold Machine.seekAndTake
  split
  · exact h
  · split
    · simp only
      split
      · exact (h.applySought _ _).takeSegment _ _ _ _
      · exact (h.applySought _ _).setRider _ _
    · exact h

theorem K.serveStation (h : K m n s) (r x : Nat) : K m n (Machine.serveStation r x s) := by
  unfold Machine.serveStation
  split
  · exact h
  · split
    · exact h
    · simp only
      split
      · exact ((h.applySought _ _).setWaitList _ _).setRider _ _
      · split
        · exact ((h.applySought _ _).setWaitList _ _).joinDelivery _ _
        · split
          · exact ((h.applySought _ _).setWaitList _ _).createDelivery _ _ _ _
          · exact h.applySought _ _

theorem K.serveList (h : K m n s) (r : Nat) : K m n (Machine.serveList r s) :=
  K.foldl (fun _ x hs => hs.serveStation r x) _ h

theorem K.serveOthers (h : K m n s) (r : Nat) : K m n (Machine.serveOthers r s) := by
  unfold Machine.serveOthers
  refine K.foldl (fun s q hs => ?_) _ h
  split
  · exact hs.serveList q
  · exact hs

theorem K.servePlaces (h : K m n s) (r : Nat) : K m n (Machine.servePlaces r s) := (h.serveList r).serveOthers r

theorem K.freeDelivery (h : K m n s) (d : Nat) : K m n (Machine.freeDelivery d s) := h.modReplay rfl

theorem K.dropDelivery (h : K m n s) (d : Nat) : K m n (Machine.dropDelivery d s) := by
  unfold Machine.dropDelivery
  split
  · exact h
  · exact (h.freeDelivery d).modRadio _ _

theorem K.abandonDelivery (h : K m n s) (d : Nat) : K m n (Machine.abandonDelivery d s) := by
  unfold Machine.abandonDelivery
  split
  · exact h
  · exact (h.dropDelivery d).servePlaces _

theorem K.leaveRider (h : K m n s) (x : Nat) (radio : Option Nat) (rider : Option Rider) :
    K m n (Machine.leaveRider x radio rider s) := by
  unfold Machine.leaveRider
  split
  · split
    · exact h
    · simp only
      split
      · exact (h.setDelivery _ _).abandonDelivery _
      · exact h.setDelivery _ _
  · split
    · exact h.setWaitList _ _
    · exact h
  · exact h

theorem K.lessSubscriber (h : K m n s) (radio : Option Nat) : K m n (Machine.lessSubscriber radio s) := by
  unfold Machine.lessSubscriber
  split
  · exact h.modRadio _ _
  · exact h

theorem K.pauseSub (h : K m n s) (x : Nat) : K m n (Machine.pauseSub x s) := by
  unfold Machine.pauseSub
  split
  · exact h
  · split
    · exact h
    · exact ((h.setRider _ _).lessSubscriber _).leaveRider _ _ _

theorem K.removeSub (h : K m n s) (x : Nat) : K m n (Machine.removeSub x s) := by
  unfold Machine.removeSub
  split
  · exact h
  · split
    · exact h
    · simp only
      split
      · exact (h.setStation _ _).modReplayCtrs _
      · exact (((h.setStation _ _).modReplayCtrs _).lessSubscriber _).leaveRider _ _ _

theorem K.resumeSub (h : K m n s) (x : Nat) : K m n (Machine.resumeSub x s) := by
  unfold Machine.resumeSub
  split
  · exact h
  · split
    · split
      · exact (((h.setRider _ _).modRadio _ _).modReplayCtrs _).seekAndTake _ _
      · exact h.removeSub _
    · exact h

theorem K.advanceRider (h : K m n s) (q x : Nat) : K m n (Machine.advanceRider q x s) := by
  unfold Machine.advanceRider
  split
  · exact h
  · split
    · exact (h.removeSub _).modReplayCtrs _
    · exact (h.modSub _ _).seekAndTake _ _
    · exact (h.modSub _ _).seekAndTake _ _

theorem K.completeDelivery (h : K m n s) (d : Nat) : K m n (Machine.completeDelivery d s) := by
  unfold Machine.completeDelivery
  split
  · exact h
  · exact (K.foldl (fun _ x hs => hs.advanceRider _ x) _ ((h.freeDelivery d).modReplayCtrs _)).servePlaces _

theorem K.offerFrames (h : K m n s) (d r : Nat) (fs : List Frame) : K m n (Machine.offerFrames d r fs s).2 := by
  induction fs generalizing s with
  | nil => exact h
  | cons f fs ih =>
    unfold Machine.offerFrames
    have ho := h.offer .declinable r .replay f
    split
    · next heq => exact ih (((ho.snd heq).modDelivery _ _).modReplayCtrs _)
    · next heq => exact ih ((ho.snd heq).modDelivery _ _)
    · next heq => exact ho.snd heq

theorem K.offerHeld (h : K m n s) (d : Nat) : K m n (Machine.offerHeld d s) := by
  unfold Machine.offerHeld
  split
  · exact h
  · next v _ =>
    split
    · exact h
    · next frames _ =>
      have ho := h.offerFrames d v.radio frames
      split
      next left s1 heq =>
      have h2 := (ho.snd heq).modDelivery d (fun v => { v with chunk := .held left })
      simp only
      split
      · split
        · exact h2
        · exact h2.modReplay rfl
      · have h3 : K m n ((s1.modDelivery d (fun v => { v with chunk := .held left })).modReplay
            (fun p => { p with stalled := p.stalled.filter (· ≠ d) })) := h2.modReplay rfl
        split
        · exact h3
        · split
          · exact h3.completeDelivery d
          · exact h3.readChunk d

theorem K.serveStalled (h : K m n s) : K m n (Machine.serveStalled s) := K.foldl (fun _ d hs => hs.offerHeld d) _ h

theorem K.lapRider (h : K m n s) (reel x : Nat) : K m n (Machine.lapRider reel x s) := by
  unfold Machine.lapRider
  split
  · simp only
    split
    · exact (h.modSub _ _).seekAndTake _ _
    · exact h.seekAndTake _ _
  · exact h

theorem K.lapDelivery (h : K m n s) (d : Nat) : K m n (Machine.lapDelivery d s) := by
  unfold Machine.lapDelivery
  split
  · exact h
  · exact (K.foldl (fun _ x hs => hs.lapRider _ x) _ ((h.freeDelivery d).modRadio _ _)).servePlaces _

theorem K.loseDeliveries (h : K m n s) (r : Nat) : K m n (Machine.loseDeliveries r s) := by
  unfold Machine.loseDeliveries
  exact K.foldl (fun _ d hs => (hs.dropDelivery d).serveOthers r) _ (h.setWaitList r [])

theorem K.wakeReel (h : K m n s) (reel : Nat) : K m n (Machine.wakeReel reel s) := by
  unfold Machine.wakeReel
  refine K.foldl (fun s x hs => ?_) _ h
  simp only
  split
  · exact hs.seekAndTake _ _
  · exact (hs.seekAndTake _ _).modReplayCtrs _

/-! ### Stations -/

theorem K.recompute (h : K m n s) (x : Nat) : K m n (Machine.recompute x s) := by
  unfold Machine.recompute
  split
  · exact h
  · simp only
    split
    · exact (h.setStation _ _).modStation _ _
    · exact ((h.setStation _ _).removeSub _).modStation _ _

theorem K.setBinding (h : K m n s) (x : Nat) (b : Binding) : K m n (Machine.setBinding x b s) :=
  (h.modStation _ _).recompute _

theorem K.unbind (h : K m n s) (x b w : Nat) : K m n (Machine.unbind x b w s) := by
  unfold Machine.unbind
  split
  · exact ((h.modStation _ _).modAdmCtrs _).recompute _
  · exact h.modAdmCtrs _

theorem K.clearMark (h : K m n s) (x : Nat) : K m n (Machine.clearMark x s) := h
theorem K.setMark (h : K m n s) (x r : Nat) : K m n (Machine.setMark x r s) := h
theorem K.clearMarksOf (h : K m n s) (r : Nat) : K m n (Machine.clearMarksOf r s) := h
theorem K.moreStations (h : K m n s) (r : Nat) : K m n (Machine.moreStations r s) := h
theorem K.lessStations (h : K m n s) (r : Nat) : K m n (Machine.lessStations r s) := h

/-! ### Roam -/

theorem K.holdOverflow (h : K m n s) (x : Nat) (r : Option Nat) (f : Frame) : K m n (Machine.holdOverflow x r f s) :=
  (h.modRoamCtrs _).occur _

theorem K.hold (h : K m n s) (x : Nat) (f : Frame) : K m n (Machine.hold x f s) := by
  unfold Machine.hold
  split
  · exact h
  · split
    · exact h.setStation _ _
    · split
      · exact h.holdOverflow _ _ _
      · exact (h.setStation _ _).holdOverflow _ _ _

theorem K.trimHold (h : K m n s) (x k : Nat) : K m n (Machine.trimHold x k s) := by
  induction k generalizing s with
  | zero => exact h
  | succ k ih =>
    unfold Machine.trimHold
    split
    · exact h
    · split
      · exact h
      · split
        · exact ih ((h.setStation _ _).holdOverflow _ _ _)
        · exact h

theorem K.recallFrames (h : K m n s) (x r : Nat) : K m n (Machine.recallFrames x r s) := by
  unfold Machine.recallFrames
  have ht := h.takeFromRadio x r
  split
  next fs s1 heq =>
  have h1 := ht.snd heq
  split
  · exact h1
  · exact ((h1.modStation _ _).modRoamCtrs _).trimHold _ _

theorem K.leaveDrainList (h : K m n s) (x : Nat) : K m n (Machine.leaveDrainList x s) := h

theorem K.joinDrainList (h : K m n s) (x : Nat) : K m n (Machine.joinDrainList x s) := by
  unfold Machine.joinDrainList
  split
  · exact h
  · exact h

theorem K.drainFrames (h : K m n s) (x k : Nat) : K m n (Machine.drainFrames x k s) := by
  induction k generalizing s with
  | zero => exact h
  | succ k ih =>
    unfold Machine.drainFrames
    split
    · exact h
    · next st _ =>
      split
      · next f rest r _ _ =>
        have ho := h.offer .declinable r st.cls f
        split
        · next heq => exact ho.snd heq
        · next heq => exact ih ((ho.snd heq).modStation _ _)
      · exact h

theorem K.drain (h : K m n s) (x : Nat) : K m n (Machine.drain x s) := by
  unfold Machine.drain
  split
  · exact h
  · split
    · simp only
      split
      · exact (h.drainFrames _ _).leaveDrainList _
      · exact (h.drainFrames _ _).joinDrainList _
    · exact h

theorem K.serveDrainList (h : K m n s) : K m n (Machine.serveDrainList s) := K.foldl (fun _ x hs => hs.drain x) _ h

theorem K.sendRoam (h : K m n s) (code : Byte) (a : Addr) (r : Nat) : K m n (Machine.sendRoam code a r s).2 := by
  unfold Machine.sendRoam
  have ho := h.offerService r a code []
  split
  · next heq => exact ho.snd heq
  · next heq => exact (ho.snd heq).modRoamCtrs _

theorem K.dropContext (h : K m n s) (x : Nat) : K m n (Machine.dropContext x s) := h

theorem K.countPingPong (h : K m n s) (x : Nat) : K m n (Machine.countPingPong x s) := by
  unfold Machine.countPingPong
  split
  · exact h
  · split
    · exact (h.setStation _ _).modRoamCtrs _
    · exact h.setStation _ _

theorem K.pingPongAtCompletion (h : K m n s) (x y : Nat) : K m n (Machine.pingPongAtCompletion x y s) := by
  unfold Machine.pingPongAtCompletion
  split
  · exact h
  · split
    · split
      · exact h.countPingPong _
      · exact h.setStation _ _
    · exact h.setStation _ _

theorem K.pingPongAtCancel (h : K m n s) (x : Nat) (t : Time) : K m n (Machine.pingPongAtCancel x t s) := by
  unfold Machine.pingPongAtCancel
  split
  · exact h.countPingPong _
  · exact h

theorem K.beginHandoff (h : K m n s) (k x y : Nat) : K m n (Machine.beginHandoff k x y s) := by
  unfold Machine.beginHandoff
  split
  · exact h
  · next st _ =>
    have hs := (h.setStation k { st with state := .handoff, target := some y }).sendRoam codeDetach st.addr x
    exact ((((hs.modRoam _).leaveDrainList k).recallFrames k x).pauseSub k).clearMark k

theorem K.declineRoam (h : K m n s) (x y : Nat) : K m n (Machine.declineRoam x y s) := by
  unfold Machine.declineRoam
  split
  · exact h
  · exact ((h.sendRoam _ _ _).setMark _ _).modRoamCtrs _

theorem K.completeHandoff (h : K m n s) (k x y : Nat) : K m n (Machine.completeHandoff k x y s) := by
  unfold Machine.completeHandoff
  exact (((((((h.dropContext k).pingPongAtCompletion k y).modStation _ _).lessStations x).moreStations y).recompute k).resumeSub
    k).drain k

theorem K.cancelHandoff (h : K m n s) (k x y : Nat) : K m n (Machine.cancelHandoff k x y s) := by
  unfold Machine.cancelHandoff
  split
  · exact (((((((h.dropContext k).sendRoam _ _ _).pingPongAtCancel k _).modStation _ _).setMark k x).resumeSub k).drain
      k).modRoamCtrs _
  · exact h

theorem K.retarget (h : K m n s) (k z : Nat) : K m n (Machine.retarget k z s) := (h.modStation _ _).modRoam _

theorem K.endUnattached (h : K m n s) (k x : Nat) : K m n (Machine.endUnattached k x s) :=
  ((h.dropContext k).modStation _ _).lessStations x

theorem K.endByTargetPart (h : K m n s) (k x : Nat) : K m n (Machine.endByTargetPart k x s) :=
  ((h.endUnattached k x).setMark k x).modRoamCtrs _

theorem K.endOnOld (h : K m n s) (k x : Nat) : K m n (Machine.endOnOld k x s) := by
  unfold Machine.endOnOld
  split
  · exact h
  · exact ((((((h.dropContext k).sendRoam _ _ _).setMark k x).modStation _ _).recompute k).resumeSub k).drain k

theorem K.resolveOne (h : K m n s) (lost k : Nat) : K m n (Machine.resolveOne lost k s) := by
  unfold Machine.resolveOne
  split
  · exact h
  · split
    · simp only
      split
      · split
        · exact (h.modRoamCtrs _).completeHandoff _ _ _
        · exact (h.modRoamCtrs _).endUnattached _ _
      · split
        · split
          · exact (h.modRoamCtrs _).endOnOld _ _
          · exact (h.modRoamCtrs _).endUnattached _ _
        · exact h
    · exact h

theorem K.resolveHandoffs (h : K m n s) (lost : Nat) : K m n (Machine.resolveHandoffs lost s) :=
  (K.foldl (fun _ x hs => hs.resolveOne lost x) _ h).clearMarksOf lost

theorem K.createStation (h : K m n s) (a : Addr) (k r : Nat) : K m n (Machine.createStation a k r s) :=
  ((h.setStation _ _).moreStations r).modStationCtrs _

theorem K.attach (h : K m n s) (k r : Nat) : K m n (Machine.attach k r s) := by
  unfold Machine.attach
  exact (((((h.modStation _ _).clearMark k).moreStations r).recompute k).drain k).resumeSub k

theorem K.detachStation (h : K m n s) (k r : Nat) : K m n (Machine.detachStation k r s) := by
  unfold Machine.detachStation
  exact ((((h.leaveDrainList k).recallFrames k r).pauseSub k).modStation _ _).lessStations r

theorem K.joinRecord (h : K m n s) (k y : Nat) : K m n (Machine.joinRecord k y s) := by
  unfold Machine.joinRecord
  split
  · exact h
  · split
    · exact h.attach _ _
    · split
      · exact h
      · split
        · exact h.declineRoam _ _
        · exact h.beginHandoff _ _ _
    · split
      · exact h
      · split
        · exact h.cancelHandoff _ _ _
        · exact h.retarget _ _
    · exact h

theorem K.removeRecord (h : K m n s) (keep : Bool) (k : Nat) : K m n (Machine.removeRecord keep k s) := by
  unfold Machine.removeRecord
  split
  · exact h
  · refine K.modStationCtrs (K.delStation (K.discardQueued (K.clearMark (K.leaveDrainList (K.removeSub ?_ k) k) k) k) k) _
    split
    · refine K.lessStations ?_ _
      split
      · split
        · exact (h.dropContext k).sendRoam _ _ _
        · exact h.dropContext k
      · exact h
    · split
      · split
        · exact (h.dropContext k).sendRoam _ _ _
        · exact h.dropContext k
      · exact h

/-! ### Service -/

theorem K.detachAll (h : K m n s) (r : Nat) : K m n (Machine.detachAll r s) :=
  K.foldl (fun _ _ hs => (hs.leaveDrainList _).modStation _ _) _ h

theorem K.detachRadio (h : K m n s) (r : Nat) : K m n (Machine.detachRadio r s) := by
  unfold Machine.detachRadio Machine.zeroCounts
  exact ((((h.detachAll r).resolveHandoffs r).modRadio _ _).purge r).loseDeliveries r

theorem K.leaveService (h : K m n s) (r : Nat) (new : RadioState) : K m n (Machine.leaveService r new s) := by
  unfold Machine.leaveService
  exact ((h.modRadio _ _).detachRadio r).modRadio _ _

theorem K.setErr (h : K m n s) (e : ErrorUnit) : K m n { s with err := e } := h

theorem K.setEv (h : K m n s) (e : Scratch) : K m n { s with ev := e } := h

theorem K.takeAll (h : K m n s) (l : List Occurrence) : K m n (l.foldl (fun s o => Machine.takeOccurrence o s) s) :=
  K.foldl (fun _ o hs => hs.takeOccurrence o) l h

theorem K.quarantine (h : K m n s) (r : Nat) (c : ErrClass) : K m n (Machine.quarantine r c s) := by
  unfold Machine.quarantine
  exact (((((h.setEv _).leaveService r .quarantined).notice _ _).setErr _).setEv _).takeAll _

theorem K.strike (h : K m n s) (r : Nat) (c : ErrClass) : K m n (Machine.strike r c s) := by
  unfold Machine.strike
  split
  · simp only
    split
    · exact (h.modRadio _ _).quarantine _ _
    · exact h.modRadio _ _
  · exact h

theorem K.raiseError (h : K m n s) (o : Occurrence) : K m n (Machine.raiseError o s) := by
  unfold Machine.raiseError
  simp only
  split
  · split
    · exact (h.occur o).strike _ _
    · exact h.occur o
  · exact h.occur o

theorem K.resetRadio (h : K m n s) (r : Nat) : K m n (Machine.resetRadio r s) := by
  unfold Machine.resetRadio
  simp only
  split
  · exact ((h.detachRadio r).modRadio _ _).askRadio r
  · exact (h.detachRadio r).modRadio _ _

end Sys2Proof.Machine
end

