-- ==== Sys2Proof/Laws/KeepUnits.lean ====
section
/-! SUPPORT. What the operations of the admission engine, the clip store, the frames from the radios, the timers and the
management unit keep (Laws/Keep.lean). -/

namespace Sys2Proof.Machine

variable {m n : Nat} {s : State}

/-! ### Replies -/

/-- A reply takes the head of the queue with it, if there is one. -/
theorem K.reply (h : K m n s) (a : Answer) : K m n (Machine.reply a s) := by
  unfold Machine.reply
  split
  · exact h
  · next e rest heq =>
    have hl : s.mgmt.queue.length = rest.length + 1 := by rw [heq]; rfl
    have hq := h.queue
    have hw := h.waits
    refine { h with filter := h.filter, queue := ?_, waits := Or.inl ?_ }
    · show rest.length ≤ m
      omega
    · show rest.length ≤ n
      omega

theorem K.modMgmtCtrs (h : K m n s) (f : MgmtCtrs → MgmtCtrs) : K m n (s.modMgmtCtrs f) :=
  { h with filter := h.filter, queue := h.queue, waits := h.waits }

/-! ### Admission -/

theorem K.raiseOccupancy (h : K m n s) (z : Nat) : K m n (Machine.raiseOccupancy z s) := h
theorem K.lowerOccupancy (h : K m n s) (z : Nat) : K m n (Machine.lowerOccupancy z s) := h

theorem K.releaseBinding (h : K m n s) (p : Nat) : K m n (Machine.releaseBinding p s) := by
  unfold Machine.releaseBinding
  split
  · exact h
  · exact (h.modEntry _ _).unbind _ _ _

theorem K.leaveAdmitted (h : K m n s) (p : Nat) (new : EntryState) : K m n (Machine.leaveAdmitted p new s) :=
  ((h.modEntry _ _).lowerOccupancy _).releaseBinding p

theorem K.voidEntry (h : K m n s) (p : Nat) : K m n (Machine.voidEntry p s) := by
  unfold Machine.voidEntry
  split
  · exact h.leaveAdmitted _ _
  · exact h.modEntry _ _

theorem K.admitIn (h : K m n s) (p : Nat) : K m n (Machine.admitIn p s) := (h.modEntry _ _).raiseOccupancy _

theorem K.markFaulty (h : K m n s) (p : Nat) : K m n (Machine.markFaulty p s) :=
  ((h.modEntry _ _).modAdmCtrs _).occur _

theorem K.applyChecks (h : K m n s) (check : List Nat) : K m n (Machine.applyChecks check s) := by
  unfold Machine.applyChecks
  exact K.foldl (fun _ p hs => hs.markFaulty p) _ (h.failedChecks check)

theorem K.modItem (h : K m n s) (x : Nat) (f : WorkItem → WorkItem) : K m n (s.modAdm (fun a => a.modItem x f)) :=
  h.modAdm (by simp [Admission.modItem])

theorem K.takeSlot (h : K m n s) (i : WorkItem) (k : Nat) : K m n (Machine.takeSlot i k s) := by
  unfold Machine.takeSlot
  exact ((h.modItem _ _).modAdmCtrs _).sendRequest _

theorem K.grantSlots (h : K m n s) (k : Nat) : K m n (Machine.grantSlots k s) := by
  induction k generalizing s with
  | zero => exact h
  | succ k ih =>
    unfold Machine.grantSlots
    split
    · exact ih (h.takeSlot _ _)
    · exact h

theorem K.completeItem (h : K m n s) (x : Nat) : K m n (Machine.completeItem x s) :=
  (h.modAdm (List.length_filter_le _ _)).lookForSlot

theorem K.sendVerdict (h : K m n s) (r : Nat) (a : Addr) (scanner : Byte) (code : Word64) (v : Verdict)
    (first : Option GateTime) : K m n (Machine.sendVerdict r a scanner code v first s) :=
  (h.modAdmCtrs _).offerService _ _ _ _

theorem K.sendCheckinReply (h : K m n s) (r : Nat) (a : Addr) (c : CheckinResult) :
    K m n (Machine.sendCheckinReply r a c s) := (h.modAdmCtrs _).offerService _ _ _ _

theorem K.evaluateEntry (h : K m n s) (p zone : Nat) (g : GateTime) : K m n (Machine.evaluateEntry p zone g s).state := by
  unfold Machine.evaluateEntry
  simp only
  split
  · exact h
  · split
    · exact h.admitIn _
    · exact h
    · split
      · exact (h.modEntry _ _).admitIn _
      · exact h
    · exact h
    · exact h

theorem K.evaluateExit (h : K m n s) (p : Nat) (g : GateTime) : K m n (Machine.evaluateExit p g s).state := by
  unfold Machine.evaluateExit
  simp only
  split
  · exact h.leaveAdmitted _ _
  all_goals exact h

theorem K.writeBackItem (h : K m n s) (i : WorkItem) (p : Nat) (r : Cred) : K m n (Machine.writeBackItem i p r s) := by
  unfold Machine.writeBackItem
  exact ((h.modItem _ _).modAdmCtrs _).sendRequest _

theorem K.decideScan (h : K m n s) (i : WorkItem) (dir : Direction) (scanner : Byte) :
    K m n (Machine.decideScan i dir scanner s) := by
  unfold Machine.decideScan
  simp only
  split
  · exact (h.sendVerdict _ _ _ _ _ _).completeItem _
  · split
    · exact (h.sendVerdict _ _ _ _ _ _).completeItem _
    · exact (h.sendVerdict _ _ _ _ _ _).completeItem _
    · cases dir with
      | entry => exact ((h.evaluateEntry _ _ _).sendVerdict _ _ _ _ _ _).writeBackItem _ _ _
      | exit => exact ((h.evaluateExit _ _).sendVerdict _ _ _ _ _ _).writeBackItem _ _ _

theorem K.dropOldBound (h : K m n s) (x p : Nat) : K m n (Machine.dropOldBound x p s) := by
  unfold Machine.dropOldBound
  split
  · simp only
    split
    · exact h.modEntry _ _
    · exact h
  · exact h

theorem K.bindStation (h : K m n s) (x p : Nat) (r : Cred) : K m n (Machine.bindStation x p r s) := by
  unfold Machine.bindStation
  have h1 : K m n (match s.holder p with
      | some h' =>
        if h' = x then s
        else (Machine.unbind h' (p / 4) (p % 4) s).modAdmCtrs (fun k => { k with takeovers := bump k.takeovers })
      | none => s) := by
    split
    · split
      · exact h
      · exact (h.unbind _ _ _).modAdmCtrs _
    · exact h
  simp only
  have h3 : ∀ b, K m n (Machine.setBinding x b ((Machine.dropOldBound x p (match s.holder p with
      | some h' =>
        if h' = x then s
        else (Machine.unbind h' (p / 4) (p % 4) s).modAdmCtrs (fun k => { k with takeovers := bump k.takeovers })
      | none => s)).modEntry p (fun e => { e with bound := some x }))) :=
    fun b => ((h1.dropOldBound x p).modEntry _ _).setBinding x b
  split
  · split
    · exact h3 _
    · exact (h3 _).removeSub _
  · split
    · exact (h3 _).modAdmCtrs _
    · exact ((h3 _).removeSub _).modAdmCtrs _

theorem K.decideCheckin (h : K m n s) (i : WorkItem) (x : Nat) : K m n (Machine.decideCheckin i x s) := by
  unfold Machine.decideCheckin
  simp only
  split
  · split
    · exact (h.sendCheckinReply _ _ _).completeItem _
    · exact (h.sendCheckinReply _ _ _).completeItem _
    · split
      · exact (h.sendCheckinReply _ _ _).completeItem _
      · split
        · exact (h.sendCheckinReply _ _ _).completeItem _
        · exact ((h.bindStation _ _ _).sendCheckinReply _ _ _).completeItem _
  · exact (h.modAdmCtrs _).completeItem _

theorem K.itemFetched (h : K m n s) (x : Nat) (check : List Nat) : K m n (Machine.itemFetched x check s) := by
  unfold Machine.itemFetched
  split
  · exact h
  · simp only
    split
    · exact (h.applyChecks check).decideScan _ _ _
    · exact (h.applyChecks check).decideCheckin _ _

theorem K.addItem (h : K m n s) (hl : s.adm.items.length < 64) (kind : ItemKind) (code : Word64) (r : Nat) (a : Addr) :
    K m n (Machine.addItem kind code r a s) := by
  unfold Machine.addItem
  refine K.lookForSlot ?_
  refine { h with items := ?_ }
  show (s.adm.items ++ [_]).length ≤ 64
  simp only [List.length_append, List.length_cons, List.length_nil]
  omega

theorem K.takeScan (h : K m n s) (r : Nat) (a : Addr) (code : Word64) (d : Direction) (scanner : Byte) (f : List Byte) :
    K m n (Machine.takeScan r a code d scanner f s) := by
  unfold Machine.takeScan
  split
  · exact h.raiseError _
  · split
    · exact h.sendVerdict _ _ _ _ _ _
    · split
      · exact (h.modAdmCtrs _).sendVerdict _ _ _ _ _ _
      · next hl => exact h.addItem (by simpa [Config.scanQueue] using hl) _ _ _ _

theorem K.takeCheckin (h : K m n s) (r x : Nat) (a : Addr) (code : Word64) : K m n (Machine.takeCheckin r x a code s) := by
  unfold Machine.takeCheckin
  split
  · exact (h.modAdmCtrs _).sendCheckinReply _ _ _
  · next hl => exact h.addItem (by simpa [Config.scanQueue] using hl) _ _ _ _

theorem K.startOp (h : K m n s) (b : Nat) (job : CredJob) : K m n (Machine.startOp b job s) :=
  (h.modAdm le_rfl).lookForSlot

theorem K.endOp (h : K m n s) : K m n (Machine.endOp s) := (h.modAdm le_rfl).lookForSlot

theorem K.finishOp (h : K m n s) (a : Answer) : K m n (Machine.finishOp a s) := h.endOp.reply a

theorem K.nextLoad (h : K m n s) (rest : List LoadRec) (done : List (LoadStatus × Option Nat)) :
    K m n (Machine.nextLoad rest done s) := by
  unfold Machine.nextLoad
  split
  · exact h.finishOp _
  · exact h.endOp.startOp _ _

theorem K.moveHome (h : K m n s) (p home : Nat) : K m n (Machine.moveHome p home s) := by
  unfold Machine.moveHome
  simp only
  split
  · exact ((h.modEntry _ _).lowerOccupancy _).raiseOccupancy _
  · exact h.modEntry _ _

theorem K.updateBinding (h : K m n s) (p : Nat) (c : Cred) : K m n (Machine.updateBinding p c s) := by
  unfold Machine.updateBinding
  split
  · exact h
  · simp only
    split <;> split
    · exact (h.modStation _ _).recompute _
    · exact (h.modStation _ _).modStation _ _
    · exact ((h.modStation _ _).recompute _).removeSub _
    · exact ((h.modStation _ _).modStation _ _).removeSub _

theorem K.writeOp (h : K m n s) (p : Nat) (c : Cred) (job : CredJob) : K m n (Machine.writeOp p c job s) := by
  unfold Machine.writeOp
  exact (h.modAdm le_rfl).sendRequest _

theorem K.decideLoad (h : K m n s) (b : Nat) (r : LoadRec) (rest : List LoadRec) (done : List (LoadStatus × Option Nat)) :
    K m n (Machine.decideLoad b r rest done s) := by
  unfold Machine.decideLoad
  simp only
  split
  · exact (((h.modAdmCtrs _).moveHome _ _).updateBinding _ _).writeOp _ _ _
  · exact (h.modAdmCtrs _).nextLoad _ _
  · split
    · exact ((h.modAdmCtrs _).setEntry _ _).writeOp _ _ _
    · exact (h.modAdmCtrs _).nextLoad _ _

theorem K.decideVoid (h : K m n s) (b : Nat) (code : Word64) : K m n (Machine.decideVoid b code s) := by
  unfold Machine.decideVoid
  simp only
  split
  · exact h.finishOp _
  · exact h.finishOp _
  · split
    · exact ((h.modAdmCtrs _).voidEntry _).finishOp _
    · exact ((h.modAdmCtrs _).voidEntry _).finishOp _
    · exact ((h.modAdmCtrs _).voidEntry _).finishOp _
    · exact h.finishOp _
    · exact h.finishOp _

theorem K.eraseWay (h : K m n s) (p : Nat) : K m n (Machine.eraseWay p s) := by
  unfold Machine.eraseWay
  simp only
  split
  · exact (((h.leaveAdmitted _ _).setEntry _ _).modAdmCtrs _).finishOp _
  · exact ((h.setEntry _ _).modAdmCtrs _).finishOp _

theorem K.opFetched (h : K m n s) (check : List Nat) : K m n (Machine.opFetched check s) := by
  unfold Machine.opFetched
  split
  · exact h
  · simp only
    split
    · exact (h.applyChecks check).decideLoad _ _ _ _
    · exact (h.applyChecks check).finishOp _
    · exact (h.applyChecks check).finishOp _
    · exact (h.applyChecks check).decideVoid _ _
    · exact (h.applyChecks check).eraseWay _

theorem K.opWritten (h : K m n s) : K m n (Machine.opWritten s) := by
  unfold Machine.opWritten
  split
  · exact h.nextLoad _ _
  · exact h

theorem K.takeBucket (h : K m n s) : K m n (Machine.takeBucket s) := by
  unfold Machine.takeBucket
  split
  · exact h
  · split
    · split
      · exact h.eraseWay _
      · exact (h.modAdm le_rfl).sendRequest _
    · exact h

theorem K.sendStride (h : K m n s) : K m n (Machine.sendStride s) := by
  unfold Machine.sendStride
  simp only
  split
  · exact (h.modSweep _).sendRequest _
  · exact h

theorem K.claimStride (h : K m n s) : K m n (Machine.claimStride s) := (h.modSweep _).lookForSlot

theorem K.sweepWay (h : K m n s) (p : Nat) : K m n (Machine.sweepWay p s) := by
  unfold Machine.sweepWay
  simp only
  split
  · exact h
  · split
    · exact h.modSweep _
    · split
      · exact (h.voidEntry _).modSweep _
      · exact h

theorem K.sweepDone (h : K m n s) : K m n (Machine.sweepDone s) := h.notice _ _

theorem K.afterStride (h : K m n s) : K m n (Machine.afterStride s) := by
  unfold Machine.afterStride
  simp only
  split
  · split
    · exact (((h.modSweep _).modAdmCtrs _).sweepDone).reply _
    · exact ((h.modSweep _).modAdmCtrs _).sweepDone
  · split
    · exact (h.modSweep _).reply _
    · exact h.claimStride

theorem K.strideRead (h : K m n s) (b : Nat) (check : List Nat) : K m n (Machine.strideRead b check s) := by
  unfold Machine.strideRead
  exact ((((K.foldl (fun _ p hs => hs.sweepWay p) _ (h.applyChecks check)).modSweep _).modAdmCtrs _).lookForSlot).afterStride

theorem K.settle (h : K m n s) : K m n (Machine.settle s) := by
  unfold Machine.settle
  split
  · exact (((h.setEv _).sendStride).takeBucket).grantSlots _
  · exact h

theorem K.markedRead (h : K m n s) (t : Tagged) : K m n (Machine.markedRead t s) :=
  (h.failedChecks _).lookForSlot

theorem K.fetchCompleted (h : K m n s) (t : Tagged) : K m n (Machine.fetchCompleted t s) := by
  unfold Machine.fetchCompleted
  split
  · exact h.markedRead t
  · split
    · exact h.itemFetched _ _
    · exact h.opFetched _
    · exact h

theorem K.writeBackCompleted (h : K m n s) (t : Tagged) : K m n (Machine.writeBackCompleted t s) := by
  unfold Machine.writeBackCompleted
  split
  · exact h.lookForSlot
  · split
    · exact h.completeItem _
    · exact h.opWritten
    · exact h

theorem K.strideCompleted (h : K m n s) (t : Tagged) : K m n (Machine.strideCompleted t s) := by
  unfold Machine.strideCompleted
  split
  · exact h.markedRead t
  · split
    · exact h.strideRead _ _
    · exact h

theorem K.clearBinding (h : K m n s) (x : Nat) : K m n (Machine.clearBinding x s) :=
  ((h.modStation _ _).modAdmCtrs _).recompute _

theorem K.clearAll (h : K m n s) : K m n (Machine.clearAll s).2 := by
  unfold Machine.clearAll
  have h1 : K m n (s.modAdm (fun a => { a with map := a.map.mapVals {} MapEntry.cleared, occupancy := [] })) :=
    h.modAdm le_rfl
  exact (K.foldl (fun _ x hs => hs.clearBinding x) _ h1).modAdmCtrs _

theorem K.retryItem (h : K m n s) (i : WorkItem) : K m n (Machine.retryItem i s) := by
  unfold Machine.retryItem
  split
  · exact h
  · exact h.sendVerdict _ _ _ _ _ _
  · exact h.sendCheckinReply _ _ _

/-! ### Ingest -/

theorem K.discardSlot (h : K m n s) (k : Nat) : K m n (Machine.discardSlot k s) := h
theorem K.recomputeSeqs (h : K m n s) (r : Nat) : K m n (Machine.recomputeSeqs r s) := h

theorem K.ingestIncomplete (h : K m n s) (r : Nat) (f : Option (List Byte)) : K m n (Machine.ingestIncomplete r f s) :=
  (h.modReelCtrs _ _).occur _

theorem K.reelLapped (h : K m n s) (r slot q : Nat) (g : Half) (k : Nat) : K m n (Machine.reelLapped r slot q g k s) :=
  h.notice _ _

theorem K.overwriteSlot (h : K m n s) (r slot : Nat) : K m n (Machine.overwriteSlot r slot s) := by
  unfold Machine.overwriteSlot
  simp only
  have h3 := (K.foldl (fun _ d hs => K.lapDelivery hs d)
    ((Machine.recomputeSeqs r (Machine.discardSlot slot s)).deliveriesWhere
      (fun v => decide (v.slot = slot ∧ v.generation = (s.slot slot).generation)))
    ((h.discardSlot slot).recomputeSeqs r))
  split
  · exact h3.modReelCtrs _ _
  · exact (h3.modReelCtrs _ _).reelLapped _ _ _ _ _

theorem K.takeWriteSlot (h : K m n s) (r slot : Nat) : K m n (Machine.takeWriteSlot r slot s) := by
  unfold Machine.takeWriteSlot
  split
  · exact h.overwriteSlot _ _
  · exact (h.discardSlot _).ingestIncomplete _ _
  · exact h
  · exact h

theorem K.takeSlotFor (h : K m n s) (r q len : Nat) : K m n (Machine.takeSlotFor r q len s) := by
  unfold Machine.takeSlotFor
  split
  · exact h
  · simp only
    refine K.modReelCtrs (K.modReelCfg (K.modSlot (K.takeWriteSlot ?_ _ _) _ _) _ _) _ _
    split
    · exact ((h.discardSlot _).modReelCfg _ _).ingestIncomplete _ _
    · exact h

theorem K.ingestSequence (h : K m n s) (f : List Byte) : K m n (Machine.ingestSequence f s) := h.occur _

theorem K.segmentOpen (h : K m n s) (r q len : Nat) (f : List Byte) : K m n (Machine.segmentOpen r q len f s) := by
  unfold Machine.segmentOpen
  split
  · exact h.takeSlotFor _ _ _
  · split
    · exact (h.modReelCtrs _ _).ingestSequence _
    · split
      · exact h.takeSlotFor _ _ _
      · exact ((h.modReelCtrs _ _).ingestSequence _).takeSlotFor _ _ _

theorem K.ingestDone (h : K m n s) (r slot : Nat) : K m n (Machine.ingestDone r slot s) := h.notice _ _

theorem K.slotReady (h : K m n s) (r slot : Nat) : K m n (Machine.slotReady r slot s) := by
  unfold Machine.slotReady
  exact ((((h.modSlot _ _).modReelCfg _ _).modReelCtrs _ _).ingestDone _ _).wakeReel _

theorem K.segmentData (h : K m n s) (r q o : Nat) (data : List Byte) : K m n (Machine.segmentData r q o data s) := by
  unfold Machine.segmentData
  split
  · exact h.modReelCtrs _ _
  · simp only
    split
    · exact h.modReelCtrs _ _
    · split
      · exact h.modReelCtrs _ _
      · split
        · exact h.modReelCtrs _ _
        · next hl =>
          refine K.sendRequest (K.modReelCtrs ?_ _ _) _
          refine { h with outstanding := ?_ }
          show s.replay.outstanding + 1 ≤ 128
          simp only [Config.ingestLimit] at hl
          omega

theorem K.segmentClose (h : K m n s) (r q : Nat) (f : List Byte) : K m n (Machine.segmentClose r q f s) := by
  unfold Machine.segmentClose
  split
  · exact h.modReelCtrs _ _
  · simp only
    split
    · exact ((h.modReelCfg _ _).discardSlot _).ingestIncomplete _ _
    · split
      · exact ((h.modReelCfg _ _).modSlot _ _).slotReady _ _
      · exact (h.modReelCfg _ _).modSlot _ _

theorem K.ingestCompleted (h : K m n s) (t : Tagged) : K m n (Machine.ingestCompleted t s) := by
  unfold Machine.ingestCompleted
  split
  · have h1 : K m n (s.modReplay (fun p => { p with outstanding := p.outstanding - 1 })) :=
      { h with outstanding := le_trans (Nat.sub_le _ _) h.outstanding }
    simp only
    split
    · exact h1.modReplayCtrs _
    · split
      · exact (h1.modSlot _ _).slotReady _ _
      · exact h1.modSlot _ _
  · exact h

theorem K.chunkCompleted (h : K m n s) (t : Tagged) : K m n (Machine.chunkCompleted t s) := by
  unfold Machine.chunkCompleted
  split
  · split
    · exact h.modReplayCtrs _
    · split
      · exact h.lapDelivery _
      · exact (h.setDelivery _ _).offerHeld _
  · exact h

theorem K.malformedReel (h : K m n s) : K m n (Machine.malformedReel s) := h
theorem K.unconfiguredReel (h : K m n s) : K m n (Machine.unconfiguredReel s) := h

theorem K.takeReelMsg (h : K m n s) (f : List Byte) (msg : ReelMsg) : K m n (Machine.takeReelMsg f msg s) := by
  unfold Machine.takeReelMsg
  simp only
  split
  · split
    · exact h.malformedReel
    · split
      · exact h.unconfiguredReel
      · exact h.segmentOpen _ _ _ _
  · split
    · exact h.malformedReel
    · split
      · exact h.unconfiguredReel
      · exact h.segmentData _ _ _ _
  · split
    · exact h.malformedReel
    · split
      · exact h.unconfiguredReel
      · exact h.segmentClose _ _ _

theorem K.takeReelFrame (h : K m n s) (src : Addr) (e : Half) (c : List Byte) : K m n (Machine.takeReelFrame src e c s) := by
  unfold Machine.takeReelFrame
  split
  · exact h.malformedReel
  · exact h.takeReelMsg _ _

theorem K.abandonReel (h : K m n s) (r : Nat) : K m n (Machine.abandonReel r s) :=
  K.foldl (fun _ d hs => hs.abandonDelivery d) _ h

theorem K.restartClips (h : K m n s) : K m n (Machine.restartClips s) := h.modReplay rfl

end Sys2Proof.Machine
end

