-- ==== Sys2Proof/Laws/KeepSteps.lean ====
section
/-! SUPPORT. What the messages of the radios, the timers, the directives, the rest of an event and the completions keep
(Laws/Keep.lean). -/

namespace Sys2Proof.Machine

variable {m n : Nat} {s : State}

/-! ### Carrier frames -/

theorem K.carrierMalformed (h : K m n s) (r : Option Nat) (f : List Byte) : K m n (Machine.carrierMalformed r f s) :=
  h.raiseError _

theorem K.serviceUnexpected (h : K m n s) (r : Nat) (f : List Byte) : K m n (Machine.serviceUnexpected r f s) :=
  h.raiseError _

theorem K.strayService (h : K m n s) : K m n (Machine.strayService s) := h

theorem K.takeJoin (h : K m n s) (r : Nat) (a : Addr) (f : List Byte) : K m n (Machine.takeJoin r a f s) := by
  unfold Machine.takeJoin
  split
  · exact h.carrierMalformed _ _
  · split
    · exact h.joinRecord _ _
    · split
      · exact h.createStation _ _ _
      · exact h.raiseError _

theorem K.partRecord (h : K m n s) (x r : Nat) (f : List Byte) : K m n (Machine.partRecord x r f s) := by
  unfold Machine.partRecord
  split
  · exact h
  · split
    · split
      · exact h.detachStation _ _
      · exact h.serviceUnexpected _ _
    · split
      · exact (h.completeHandoff _ _ _).modRoamCtrs _
      · split
        · exact h.endByTargetPart _ _
        · exact h.serviceUnexpected _ _
    · exact h.serviceUnexpected _ _

theorem K.takePart (h : K m n s) (r : Nat) (a : Addr) (f : List Byte) : K m n (Machine.takePart r a f s) := by
  unfold Machine.takePart
  split
  · exact h.partRecord _ _ _
  · exact h.strayService

theorem K.releaseRecord (h : K m n s) (x r d : Nat) (f : List Byte) : K m n (Machine.releaseRecord x r d f s) := by
  unfold Machine.releaseRecord
  split
  · exact h
  · split
    · split
      · exact (h.completeHandoff _ _ _).modRoamCtrs _
      · exact h.serviceUnexpected _ _
    · split
      · exact (h.clearMark _).modRoamCtrs _
      · exact h.raiseError _

theorem K.takeRelease (h : K m n s) (r : Nat) (a : Addr) (d : Nat) (f : List Byte) :
    K m n (Machine.takeRelease r a d f s) := by
  unfold Machine.takeRelease
  split
  · exact h.carrierMalformed _ _
  · split
    · exact h.releaseRecord _ _ _ _
    · exact h.strayService

theorem K.takeRadioStatus (h : K m n s) (r : Nat) (c : Byte) (f : List Byte) :
    K m n (Machine.takeRadioStatus r c f s) := by
  unfold Machine.takeRadioStatus
  split
  · exact h.carrierMalformed _ _
  · split
    · exact h.modRadio _ _
    · exact (h.modRadio _ _).askRadio _

theorem K.takeScanMsg (h : K m n s) (r : Nat) (a : Addr) (code : Word64) (d sc : Byte) (f : List Byte) :
    K m n (Machine.takeScanMsg r a code d sc f s) := by
  unfold Machine.takeScanMsg
  split
  · exact h.carrierMalformed _ _
  · split
    · exact h.carrierMalformed _ _
    · exact (h.modAdmCtrs _).takeScan _ _ _ _ _ _

theorem K.takeCheckinMsg (h : K m n s) (r : Nat) (a : Addr) (code : Word64) (f : List Byte) :
    K m n (Machine.takeCheckinMsg r a code f s) := by
  unfold Machine.takeCheckinMsg
  split
  · exact h.carrierMalformed _ _
  · simp only
    split
    · exact (h.modAdmCtrs _).strayService
    · split
      · exact (h.modAdmCtrs _).takeCheckin _ _ _ _
      · exact (h.modAdmCtrs _).serviceUnexpected _ _

theorem K.createSub (h : K m n s) (x reel : Nat) (mode : Mode) (st w : Option Nat) :
    K m n (Machine.createSub x reel mode st w s) := by
  unfold Machine.createSub
  simp only
  split
  · exact h.removeSub _
  · split <;> split
    · exact ((h.removeSub _).setStation _ _).modRadio _ _
    · exact (h.removeSub _).setStation _ _
    · exact (((h.removeSub _).setStation _ _).modRadio _ _).seekAndTake _ _
    · exact ((h.removeSub _).setStation _ _).seekAndTake _ _

theorem K.sendCueReply (h : K m n s) (r : Nat) (a : Addr) (c : CueResult) (reel : Nat) (st : Option Nat) :
    K m n (Machine.sendCueReply r a c reel st s) := h.offerService _ _ _ _

theorem K.decideCue (h : K m n s) (x r : Nat) (a : Addr) (reel : Nat) (mode : Mode) (b : Nat) (w : Option Nat) :
    K m n (Machine.decideCue x r a reel mode b w s) := by
  unfold Machine.decideCue
  split
  · exact h
  · split
    refine K.sendCueReply (K.modReplayCtrs ?_ _) _ _ _ _ _
    split
    · exact h.createSub _ _ _ _ _
    · exact h.createSub _ _ _ _ _
    · exact h

theorem K.haltRecord (h : K m n s) (x : Nat) : K m n (Machine.haltRecord x s) := by
  unfold Machine.haltRecord
  split
  · exact (h.removeSub _).modReplayCtrs _
  · exact h.modReplayCtrs _

theorem K.fromStation (h : K m n s) (r : Nat) (a : Addr) (f : List Byte) {go : Nat → State} (hg : ∀ x, K m n (go x)) :
    K m n (Machine.fromStation r a f go s) := by
  unfold Machine.fromStation
  split
  · exact h.strayService
  · split
    · exact hg _
    · exact h.serviceUnexpected _ _

theorem K.takeCue (h : K m n s) (r : Nat) (a : Addr) (reel mode : Byte) (st : Half) (w : Byte) (f : List Byte) :
    K m n (Machine.takeCue r a reel mode st w f s) := by
  unfold Machine.takeCue
  split
  · exact h.carrierMalformed _ _
  · split
    · exact h.carrierMalformed _ _
    · exact h.fromStation _ _ _ fun x => h.decideCue _ _ _ _ _ _ _

theorem K.takeHalt (h : K m n s) (r : Nat) (a : Addr) (f : List Byte) : K m n (Machine.takeHalt r a f s) := by
  unfold Machine.takeHalt
  split
  · exact h.carrierMalformed _ _
  · exact h.fromStation _ _ _ fun x => h.haltRecord x

theorem K.modPortCtrs (h : K m n s) (p : Nat) (f : PortCtrs → PortCtrs) : K m n (s.modPortCtrs p f) := h

theorem K.forwardUpstream (h : K m n s) (p : Nat) (src dst : Addr) (e : Half) (l : List Byte) :
    K m n (Machine.forwardUpstream p src dst e l s) := by
  unfold Machine.forwardUpstream
  simp only
  split
  · exact h
  · exact h

theorem K.dropNotInService (h : K m n s) (p r : Nat) (f : List Byte) : K m n (Machine.dropNotInService p r f s) := by
  unfold Machine.dropNotInService
  simp only
  split <;> split
  · exact h.modPortCtrs _ _
  · exact h.modRadio _ _
  · exact ((h.modPortCtrs _ _).modRadio _ _).raiseError _
  · exact ((h.modRadio _ _).modRadio _ _).raiseError _

theorem K.carrierChecks (h : K m n s) (p r : Nat) (f : List Byte) {go : State → State}
    (hg : K m n (go s)) : K m n (Machine.carrierChecks p r f go s) := by
  unfold Machine.carrierChecks
  split
  · exact h.dropNotInService _ _ _
  · split
    · exact h.carrierMalformed _ _
    · split
      · exact hg
      · exact h.dropNotInService _ _ _

theorem K.fromPort (h : K m n s) (p : Nat) : K m n (Machine.fromPort p s) := h

theorem K.takeMalformed (h : K m n s) (l : List Byte) : K m n (Machine.takeMalformed l s) := h.carrierMalformed _ _

theorem K.takeCarrierMsg (h : K m n s) (p r : Nat) (a : Addr) (msg : CarrierMsg) (f : List Byte) :
    K m n (Machine.takeCarrierMsg p r a msg f s) := by
  unfold Machine.takeCarrierMsg
  split
  · exact h.forwardUpstream _ _ _ _ _
  · exact h.takeJoin _ _ _
  · exact h.takePart _ _ _
  · exact h.takeRelease _ _ _ _
  · exact h.takeRadioStatus _ _ _
  · exact h.takeScanMsg _ _ _ _ _ _
  · exact h.takeCheckinMsg _ _ _ _
  · exact h.takeCue _ _ _ _ _ _ _
  · exact h.takeHalt _ _ _
  · exact h.serviceUnexpected _ _

theorem K.takeCarrierFrame (h : K m n s) (p : Nat) (f : CarrierFrame) (l : List Byte) :
    K m n (Machine.takeCarrierFrame p f l s) :=
  (h.fromPort p).carrierChecks _ _ _ ((h.fromPort p).takeCarrierMsg _ _ _ _ _)

theorem K.takeCarrierBytes (h : K m n s) (p : Nat) (l : List Byte) : K m n (Machine.takeCarrierBytes p l s) := by
  unfold Machine.takeCarrierBytes
  split
  · exact h.takeCarrierFrame _ _ _
  · exact (h.fromPort p).takeMalformed _

/-! ### Timers -/

theorem K.lingerExpire (h : K m n s) (x : Nat) : K m n (Machine.lingerExpire x s) := by
  unfold Machine.lingerExpire
  split
  · exact (h.removeRecord _ _).modStationCtrs _
  · exact h

theorem K.detachExpire (h : K m n s) (x : Nat) : K m n (Machine.detachExpire x s) := by
  unfold Machine.detachExpire
  split
  · split
    · exact h
    · simp only
      split
      · exact ((h.completeHandoff _ _ _).modRoamCtrs _).raiseError _
      · exact (h.completeHandoff _ _ _).modRoamCtrs _
  · exact h

theorem K.dampingExpire (h : K m n s) (x : Nat) : K m n (Machine.dampingExpire x s) := by
  unfold Machine.dampingExpire
  split
  · exact h.modStation _ _
  · exact h

theorem K.sealExpire (h : K m n s) (r : Nat) : K m n (Machine.sealExpire r s) := by
  unfold Machine.sealExpire
  split
  · exact h.closeByAge r
  · exact h

theorem K.wakeExpire (h : K m n s) (r : Nat) : K m n (Machine.wakeExpire r s) := by
  unfold Machine.wakeExpire
  split
  · exact (h.modRadio _ _).askRadio r
  · exact h

theorem K.stageExpire (h : K m n s) : K m n (Machine.stageExpire s) := by
  unfold Machine.stageExpire
  split
  · split
    · exact h.stageExpired _
    · exact h
  · exact h

theorem K.expireDue (h : K m n s) : K m n (Machine.expireDue s) := by
  unfold Machine.expireDue
  exact (K.foldl (fun _ r hs => hs.wakeExpire r) _ (K.foldl (fun _ r hs => hs.sealExpire r) _
    (K.foldl (fun _ x hs => hs.dampingExpire x) _ (K.foldl (fun _ x hs => hs.detachExpire x) _
      (K.foldl (fun _ x hs => hs.lingerExpire x) _ h))))).stageExpire

/-! ### Directives -/

theorem K.modPresentRadios (h : K m n s) (f : Radio → Radio) : K m n (s.modPresentRadios f) := h

theorem K.modSeals (h : K m n s) (f : Time → Time) : K m n (s.modSeals f) := h

theorem K.setVenueTime (h : K m n s) (t : Time) : K m n (Machine.setVenueTime t s) := h

theorem K.runSetTime (h : K m n s) (t : Time) : K m n (Machine.runSetTime t s).2 := (h.setVenueTime t).expireDue

theorem K.clearGroup (h : K m n s) (g : Group) : K m n (Machine.clearGroup g s) := by
  unfold Machine.clearGroup
  split
  case h_10 => exact h.modMgmtCtrs _
  case h_9 =>
    exact { h with starveIngest := h.starveIngest, starveStride := h.starveStride, cred := h.cred, clip := h.clip }
  all_goals exact h

theorem K.runCounterRead (h : K m n s) (g p i c : Byte) : K m n (Machine.runCounterRead g p i c s).2 := by
  unfold Machine.runCounterRead
  split
  · simp only
    split
    · exact h.clearGroup _
    · exact h
  · exact h

theorem dedup_length (l : List Addr) : (dedup l).length ≤ l.length := by
  induction l with
  | nil => exact le_rfl
  | cons a l ih =>
    simp only [dedup, List.length_cons]
    have := List.length_filter_le (fun x => decide (x ≠ a)) (dedup l)
    omega

theorem K.runMgmtFilter (h : K m n s) (l : List Addr) (p : Byte) (a : Addr) : K m n (Machine.runMgmtFilter l p a s).2 := by
  unfold Machine.runMgmtFilter
  split
  · exact h
  · split
    · exact h
    · next hl =>
      have h4 : l.length ≤ 4 := by
        by_contra hc
        exact hl (Or.inl (by omega))
      have := dedup_length l
      refine { h with filter := ?_, queue := h.queue, waits := h.waits }
      show (dedup l).length ≤ 4
      omega

theorem K.configureAbsent (h : K m n s) (r : Nat) (c : RadioCfg) : K m n (Machine.configureAbsent r c s) := h
theorem K.reconfigure (h : K m n s) (r : Nat) (c : RadioCfg) : K m n (Machine.reconfigure r c s) := h
theorem K.unconfigure (h : K m n s) (r : Nat) : K m n (Machine.unconfigure r s) := h

theorem K.runRadioConfig (h : K m n s) (a b c d e f : Byte) : K m n (Machine.runRadioConfig a b c d e f s).2 := by
  unfold Machine.runRadioConfig
  simp only
  split
  · exact h
  · split
    · exact h.configureAbsent _ _
    · exact h
    · exact h.reconfigure _ _
    · exact h.unconfigure _
    · exact h
    · exact h

theorem K.runRadioState (h : K m n s) (a b : Byte) : K m n (Machine.runRadioState a b s).2 := by
  unfold Machine.runRadioState
  simp only
  split
  · exact h
  · split
    · exact h
    · exact (h.modRadio _ _).askRadio _
    · exact h
    · exact h
    · exact h.leaveService _ _
    · exact (h.modRadio _ _).askRadio _
    · exact h.modRadio _ _

theorem K.runRadioReset (h : K m n s) (a : Byte) : K m n (Machine.runRadioReset a s).2 := by
  unfold Machine.runRadioReset
  split
  · exact h
  · exact h.resetRadio _

theorem K.runStationRead (h : K m n s) (r : StationRef) : K m n (Machine.runStationRead r s).2 := by
  unfold Machine.runStationRead
  split
  · exact h
  · split <;> exact h
  · exact h

theorem K.runStationPin (h : K m n s) (a : Addr) : K m n (Machine.runStationPin a s).2 := by
  unfold Machine.runStationPin
  split
  · split
    · exact h
    · split
      · exact h
      · split
        · exact h.setStation _ _
        · exact h
  · split
    · split
      · exact (h.setStation _ _).modStationCtrs _
      · exact h.occur _
    · exact h

theorem K.runStationUnpin (h : K m n s) (a : Addr) : K m n (Machine.runStationUnpin a s).2 := by
  unfold Machine.runStationUnpin
  split
  · exact h
  · split
    · exact h
    · split
      · exact h.setStation _ _
      · exact h

theorem K.announce (h : K m n s) : K m n (Machine.announce s) := by
  unfold Machine.announce
  split
  · exact ((h.setEv _).serveDrainList).serveStalled
  · exact h

theorem K.runClearFans (h : K m n s) : K m n (Machine.runClearFans s).2 := by
  unfold Machine.runClearFans
  exact K.foldl (fun _ x hs => (hs.removeRecord true x).announce) _ h

theorem K.runStationSettings (h : K m n s) (a b c d e : Half) : K m n (Machine.runStationSettings a b c d e s).2 := by
  unfold Machine.runStationSettings
  split
  · exact h
  · exact h

theorem K.runCredLoad (h : K m n s) (l : List LoadRec) : K m n (Machine.runCredLoad l s).2 := by
  unfold Machine.runCredLoad
  split
  · exact h
  · split
    · exact h
    · split
      · exact h
      · exact h.startOp _ _

theorem K.runCredRead (h : K m n s) (r : CredRef) : K m n (Machine.runCredRead r s).2 := by
  unfold Machine.runCredRead
  split
  · exact h.startOp _ _
  · split
    · exact h.startOp _ _
    · exact h
  · exact h

theorem K.runCredVoid (h : K m n s) (c : Word64) : K m n (Machine.runCredVoid c s).2 := h.startOp _ _

theorem K.runCredEraseWay (h : K m n s) (b : Half) (w : Byte) : K m n (Machine.runCredEraseWay b w s).2 := by
  unfold Machine.runCredEraseWay
  split
  · exact h
  · split
    · exact h
    · exact h.startOp _ _

theorem K.runAdmissionFreeze (h : K m n s) : K m n (Machine.runAdmissionFreeze s).2 := h.modAdm le_rfl

theorem K.runEventClose (h : K m n s) : K m n (Machine.runEventClose s).2 := by
  unfold Machine.runEventClose
  split
  · exact h
  · exact h.modAdm le_rfl

theorem K.runVoidSweep (h : K m n s) (a b : Byte) : K m n (Machine.runVoidSweep a b s).2 := by
  unfold Machine.runVoidSweep
  split
  · exact h
  · split
    · exact h
    · exact ((h.modSweep _).modAdmCtrs _).claimStride

theorem K.modMgmtStarted (h : K m n s) (b : Bool) (hb : b = true ∨ s.mgmt.queue.length ≤ n) :
    K m n (s.modMgmt (fun k => { k with started := b })) := by
  refine { h with filter := h.filter, queue := h.queue, waits := ?_ }
  show s.mgmt.queue.length ≤ n ∨ (b = true ∧ s.mgmt.queue.length ≤ n + 1)
  have := h.waits
  rcases hb with hb | hb
  · rcases this with h1 | h1
    · exact Or.inl h1
    · exact Or.inr ⟨hb, h1.2⟩
  · exact Or.inl hb

theorem K.runSweepSuspend (h : K m n s) : K m n (Machine.runSweepSuspend s).2 := by
  unfold Machine.runSweepSuspend
  simp only
  split
  · exact h
  · split
    · exact h.modSweep _
    · exact (h.modSweep _).lookForSlot

theorem K.runSweepResume (h : K m n s) : K m n (Machine.runSweepResume s).2 := by
  unfold Machine.runSweepResume
  split
  · exact h
  · exact (h.modSweep _).claimStride

theorem K.runClearRedemptions (h : K m n s) : K m n (Machine.runClearRedemptions s).2 := by
  unfold Machine.runClearRedemptions
  split
  · exact h
  · split
    · exact h
    · exact h.clearAll

theorem K.freeSlotOf (h : K m n s) (k : Nat) : K m n (Machine.freeSlotOf k s) := h

theorem K.freeRange (h : K m n s) (r : Nat) : K m n (Machine.freeRange r s) := by
  unfold Machine.freeRange
  split
  · exact h
  · exact (K.foldl (fun _ k hs => hs.freeSlotOf k) _ (h.abandonReel r)).setReel _ _

theorem K.takeRange (h : K m n s) (r a b : Nat) : K m n (Machine.takeRange r a b s) := by
  unfold Machine.takeRange
  exact (K.foldl (fun _ k hs => hs.modSlot k _) _ h).setReel _ _

theorem K.runReelConfig (h : K m n s) (a : Byte) (b c : Half) (d : Byte) : K m n (Machine.runReelConfig a b c d s).2 := by
  unfold Machine.runReelConfig
  simp only
  split
  · exact h
  · split
    · exact h
    · split
      · exact h
      · split
        · exact h
        · split
          · exact h
          · show K m n (if _ then _ else _)
            split
            · exact h.freeRange _
            · exact (h.freeRange _).takeRange _ _ _

theorem K.resetReel (h : K m n s) (r : Nat) (c : ReelCfg) : K m n (Machine.resetReel r c s) := by
  unfold Machine.resetReel
  exact (K.foldl (fun _ k hs => hs.discardSlot k) _
    ((K.foldl (fun _ x hs => hs.removeSub x) _ h).abandonReel r)).setReel _ _

theorem K.runReelReset (h : K m n s) (a : Byte) : K m n (Machine.runReelReset a s).2 := by
  unfold Machine.runReelReset
  simp only
  split
  · exact h
  · split
    · exact h
    · exact h.resetReel _ _

theorem K.runReelStatus (h : K m n s) (a b : Byte) (c : Half) : K m n (Machine.runReelStatus a b c s).2 := by
  unfold Machine.runReelStatus
  simp only
  split
  · exact h
  · split <;> exact h

theorem K.runProfileAccess (h : K m n s) (a : Byte) : K m n (Machine.runProfileAccess a s).2 := by
  unfold Machine.runProfileAccess
  split <;> exact h

theorem K.runProfileWrite (h : K m n s) (p : ProfilePart) : K m n (Machine.runProfileWrite p s).2 := by
  unfold Machine.runProfileWrite
  split
  · exact h
  · split <;> exact h

theorem K.runProfileValidate (h : K m n s) : K m n (Machine.runProfileValidate s).2 := by
  unfold Machine.runProfileValidate
  simp only
  split <;> exact h

theorem K.closeAllByAge (h : K m n s) : K m n (Machine.closeAllByAge s) := K.foldl (fun _ r hs => hs.closeByAge r) _ h

theorem K.phaseChanged (h : K m n s) (c a : Phase) : K m n (Machine.phaseChanged c a s) := h.notice _ _

theorem K.surgeNotice (h : K m n s) : K m n (Machine.surgeNotice s) := h.notice _ _

theorem K.changePhase (h : K m n s) (c : Phase) : K m n (Machine.changePhase c s) := by
  unfold Machine.changePhase
  simp only
  split
  · exact (((((h.modPresentRadios _).modGov _).modPresentRadios _ |>.modGov _).modPresentRadios _ |>.modSeals
      _).closeAllByAge.phaseChanged _ _).surgeNotice.modGovCtrs _ |>.askAll
  · exact ((((((h.modPresentRadios _).modGov _).modPresentRadios _).modPresentRadios _).modSeals
      _).closeAllByAge.phaseChanged _ _).modGovCtrs _ |>.askAll

theorem K.runPhaseSet (h : K m n s) (a : Byte) : K m n (Machine.runPhaseSet a s).2 := by
  unfold Machine.runPhaseSet
  split
  · exact h
  · split
    · exact h
    · split
      · exact (h.modGovCtrs _).notice _ _
      · exact h.changePhase _

theorem K.runSurgeSet (h : K m n s) (a : Byte) : K m n (Machine.runSurgeSet a s).2 := by
  unfold Machine.runSurgeSet
  split
  · exact h
  · exact (h.modGov _).takeSurge _

theorem K.runRateTable (h : K m n s) (l : List Half) : K m n (Machine.runRateTable l s).2 := by
  unfold Machine.runRateTable
  split <;> exact h

theorem K.setErrState (h : K m n s) (c : ErrClass) (v : ErrState) : K m n (s.setErrState c v) := h

theorem K.runErrorRead (h : K m n s) (a : Byte) : K m n (Machine.runErrorRead a s).2 := by
  unfold Machine.runErrorRead
  split
  · exact h
  · simp only
    split
    · exact K.foldl (fun _ k hs => hs.setErrState k _) _ h
    · exact h

theorem K.runErrorClear (h : K m n s) (a : Half) (b : Byte) : K m n (Machine.runErrorClear a b s).2 := by
  unfold Machine.runErrorClear
  split
  · exact h
  · split
    · exact h
    · simp only
      split
      · exact (K.foldl (fun _ k hs => hs.setErrState k _) _ h).setErr _
      · exact K.foldl (fun _ k hs => hs.setErrState k _) _ h

theorem K.configClass (h : K m n s) (a b : Option Bool) (c : ErrClass) : K m n (Machine.configClass a b c s) := h

theorem K.runErrorConfig (h : K m n s) (a b c : Byte) (d : Half) : K m n (Machine.runErrorConfig a b c d s).2 := by
  unfold Machine.runErrorConfig
  split
  · split
    · exact h
    · exact (K.foldl (fun _ c hs => hs.configClass _ _ c) _ h).setErr _
  · exact h

theorem K.settleEntry (h : K m n s) (k : Nat) : K m n (Machine.settleEntry k s) := by
  unfold Machine.settleEntry
  simp only
  split
  · exact h
  · split
    · exact h
    · split
      · exact h
      · exact h

theorem K.mapKind (h : K m n s) (x : Nat) (k : NoticeKind) : K m n (Machine.mapKind x k s) := h

theorem K.setNoticeEntry (h : K m n s) (x : Nat) (e : NoticeEntry) : K m n (s.setNoticeEntry x e) := h

theorem K.runNoticeConfig (h : K m n s) (a : Byte) (b : Addr) (c d e : Byte) :
    K m n (Machine.runNoticeConfig a b c d e s).2 := by
  unfold Machine.runNoticeConfig
  simp only
  split
  · split <;> split
    · exact h
    · exact (K.foldl (fun _ k hs => hs.mapKind _ k) _ (h.setNoticeEntry _ _)).settleEntry _
    · exact h
    · exact (K.foldl (fun _ k hs => hs.mapKind _ k) _ (h.setNoticeEntry _ _)).settleEntry _
  · exact h

/-! ### Zone restart -/

theorem K.restartStations (h : K m n s) : K m n (Machine.restartStations s) := h

theorem K.setPort (h : K m n s) (p : Nat) (v : Port) : K m n (s.setPort p v) := h

theorem K.emptied (h : K m n s) (u : Uplink) (d : Nat) (l : Table RadioLists) :
    K m n { s with uplink := u, draws := d, egress := { s.egress with lists := l, buffers := 0, bursts := 0 } } :=
  { h with buffers := Nat.zero_le _, bursts := Nat.zero_le _ }

theorem K.restartEgress (h : K m n s) : K m n (Machine.restartEgress s) := by
  unfold Machine.restartEgress
  exact (K.foldl (f := fun s' p => s'.setPort p ((s'.port p).restarted (s.draws + p))) (fun _ p hs => hs.setPort p _)
    [0, 1, 2, 3] h).emptied _ _ _

theorem K.restartGovernor (h : K m n s) : K m n (Machine.restartGovernor s) := h

theorem K.restartReplay (h : K m n s) : K m n (Machine.restartReplay s) := by
  unfold Machine.restartReplay
  refine K.restartClips ?_
  exact h.modReplay rfl

theorem K.zoneRestart (h : K m n s) : K m n (Machine.zoneRestart s) := by
  unfold Machine.zoneRestart
  simp only
  have h1 := h.restartStations.restartEgress.restartGovernor
  have h2 := K.foldl (m := m) (n := n) (fun _ i hs => K.retryItem hs i) s.adm.items
    (((h1.modAdm (f := fun a => { a with items := [], sweep := a.sweep.restarted }) (Nat.zero_le _)).lookForSlot).restartReplay.markAll)
  split
  · exact h2.surgeNotice
  · exact h2

/-- Running a directive keeps it. -/
theorem K.runDirective (h : K m n s) (d : Directive) : K m n (Machine.runDirective d s).2 := by
  unfold Machine.runDirective
  split
  case h_1 => exact h
  case h_2 => exact h.runSetTime _
  case h_3 => exact h.runCounterRead _ _ _ _
  case h_4 => exact h.zoneRestart
  case h_5 => exact h.runMgmtFilter _ _ _
  case h_6 => exact h.runRadioConfig _ _ _ _ _ _
  case h_7 => exact h.runRadioState _ _
  case h_8 => exact h.runRadioReset _
  case h_9 => exact h.runStationRead _
  case h_10 => exact h.runStationPin _
  case h_11 => exact h.runStationUnpin _
  case h_12 => exact h.runClearFans
  case h_13 => exact h.runStationSettings _ _ _ _ _
  case h_14 => exact h.runCredLoad _
  case h_15 => exact h.runCredRead _
  case h_16 => exact h.runCredVoid _
  case h_17 => exact h.runCredEraseWay _ _
  case h_18 => exact h.runAdmissionFreeze
  case h_19 => exact h.runEventClose
  case h_20 => exact h.runVoidSweep _ _
  case h_21 => exact h.runSweepSuspend
  case h_22 => exact h.runSweepResume
  case h_23 => exact h
  case h_24 => exact h.runClearRedemptions
  case h_25 => exact h.runReelConfig _ _ _ _
  case h_26 => exact h.runReelReset _
  case h_27 => exact h.runReelStatus _ _ _
  case h_28 => exact h.runProfileAccess _
  case h_29 => exact h.runProfileWrite _
  case h_30 => exact h.runProfileValidate
  case h_31 => exact h.runPhaseSet _
  case h_32 => exact h.runSurgeSet _
  case h_33 => exact h.runRateTable _
  case h_34 => exact h.runErrorRead _
  case h_35 => exact h.runErrorClear _ _
  case h_36 => exact h.runErrorConfig _ _ _ _
  case h_37 => exact h.runNoticeConfig _ _ _ _ _
  case h_38 => exact h

/-! ### Frames from the uplink -/

theorem K.fromUplink (h : K m n s) : K m n (Machine.fromUplink s) := h

theorem K.takeDownstream (h : K m n s) (a b : Addr) (e : Half) (l : List Byte) :
    K m n (Machine.takeDownstream a b e l s) := by
  unfold Machine.takeDownstream
  split
  · exact h
  · split
    · exact h
    · split
      · exact h
      · split
        · exact h
        · split
          · exact h
          · simp only
            split
            · exact h.offer _ _ _ _
            · exact h.hold _ _

/-! ### Completions -/

/-- The transfer leaves the controller with the areas and the bounds kept (R162, R164, R165). -/
theorem K.completed (h : K m n s) {k : ReqKind} {t : Tagged} {x : RecMem} (hc : s.mem.complete k = some (t, x))
    (spoilt : List Host.Cell) : K m n { s with mem := (x.disturb spoilt).written t.req } := by
  have hx : x.starveIngest ≤ 16 ∧ x.starveStride ≤ 64 ∧ x.cred = s.mem.cred ∧ x.clip = s.mem.clip := by
    unfold RecMem.complete at hc
    split at hc
    · split at hc
      · simp only [Option.some.injEq, Prod.mk.injEq] at hc
        obtain ⟨-, rfl⟩ := hc
        exact grant_keeps { s.mem with transfer := none } h.starveIngest h.starveStride
      · simp at hc
    · simp at hc
  obtain ⟨h1, h2, h3, h4⟩ := hx
  have hd : Memory.wf (x.disturb spoilt).cred = true := by
    unfold RecMem.disturb
    rw [h3]
    exact Memory.wf_spoil h.cred _
  have hcl : Memory.wf (x.disturb spoilt).clip = true := by
    show Memory.wf x.clip = true
    rw [h4]
    exact h.clip
  unfold RecMem.written
  split
  · exact { h with starveIngest := h1, starveStride := h2, cred := Memory.wf_writeBytes hd _ _, clip := hcl }
  · exact { h with starveIngest := h1, starveStride := h2, cred := hd, clip := Memory.wf_writeBytes hcl _ _ }
  · exact { h with starveIngest := h1, starveStride := h2, cred := hd, clip := hcl }

theorem K.completeTransfer (h : K m n s) (k : ReqKind) (spoilt : List Host.Cell) {rule : Tagged → State → State}
    (hr : ∀ t s, K m n s → K m n (rule t s)) : K m n (Machine.completeTransfer k spoilt rule s) := by
  unfold Machine.completeTransfer
  split
  · exact h
  · next hc => exact hr _ _ (h.completed hc spoilt)

/-! ### The rest of an event -/

theorem K.flush (h : K m n s) : K m n (Machine.flush s) := h.announce.settle.runArbiters

end Sys2Proof.Machine
end

