-- ==== Sys2Proof/Laws/Stations.lean ====
section
/-! SUPPORT. Laws of reading a station record after a change of one, of what an accepted offer does to the records, and of the
lengths of optional fields. -/

namespace Sys2Proof.Machine

/-- Writing one record and reading any. -/
theorem station_setStation (s : State) (h k : Nat) (v : Station) :
    (s.setStation h v).station k = if k = h then some v else s.station k := by
  split
  · next e => subst e; simp [State.setStation, State.station]
  · next e => simp [State.setStation, State.station, Table.find_put_ne e]

/-- Changing one record and reading any. -/
theorem station_modStation (s : State) (h k : Nat) (f : Station → Station) :
    (s.modStation h f).station k = if k = h then (s.station h).map f else s.station k := by
  unfold State.modStation
  split
  · next st e =>
    rw [station_setStation]
    split
    · next hk => rw [e]; rfl
    · rfl
  · next e =>
    split
    · next hk => rw [hk, e]; rfl
    · rfl

/-- Asking for arbiters changes no record. -/
theorem station_askIfEligible (r : Nat) (c : Cls) (was new : List Burst) (b : Bool) (s : State) (k : Nat) :
    (askIfEligible r c was new b s).station k = s.station k := by
  unfold askIfEligible State.askRadio State.askPort
  split
  · split
    · split <;> rfl
    · rfl
  · rfl

/-- An accepted offer changes no record but for egress counts (R47). -/
theorem offer_accepted_station {s u : State} {sort : OfferSort} {r : Nat} {c : Cls} {f : Frame}
    (h : offer sort r c f s = (.accepted, u)) (k : Nat) :
    ∃ e, u.station k = (s.station k).map (fun st => { st with egress := st.egress + e }) := by
  unfold offer at h
  split at h
  · simp at h
  · split at h
    · simp only [Prod.mk.injEq, true_and] at h
      subst h
      unfold acceptFrame raiseEgress
      simp only [station_askIfEligible]
      split
      · next h' _ =>
        refine ⟨if k = h' then 1 else 0, ?_⟩
        rw [station_modStation]
        split
        · next e => subst e; rfl
        · exact (Option.map_id' (x := s.station k)).symm
      · exact ⟨0, (Option.map_id' (x := s.station k)).symm⟩
    · split at h <;> simp at h

/-- A declined offer only counts (R46). -/
theorem offer_declined {s u : State} {sort : OfferSort} {r : Nat} {c : Cls} {f : Frame}
    (h : offer sort r c f s = (.declined, u)) :
    u = { s with egress := { s.egress with declined := bump s.egress.declined } } := by
  unfold offer at h
  split at h
  · simp at h
  · split at h
    · simp at h
    · split at h
      · simp only [Prod.mk.injEq, true_and] at h; exact h.symm
      · simp at h

@[simp] theorem length_be (n v : Nat) : (be n v).length = n := by
  induction n with
  | zero => rfl
  | succ n ih => simp [be, ih]

/-- An optional field has one length, present or absent (R190). -/
@[simp] theorem length_optField (n : Nat) (v : Option Nat) : (optField n v).length = n + 1 := by
  cases v <;> simp [optField]

/-- A slot descriptor has 29 bytes, as the field of REEL_STATUS that may be absent says (R141, R190). -/
theorem length_slot_bytes (x : Slot) : x.bytes.length = 29 := by simp [Slot.bytes]

end Sys2Proof.Machine
end

