-- ==== Sys2Proof/Laws/Time.lean ====
section
/-! SUPPORT. What SET_TIME does to a time it moves, what a tick takes from the receive FIFOs, what a phase change does to a
radio's waiting classes, and where a frame goes at the tail of a class list. -/

namespace Sys2Proof.Machine

/-- A deadline keeps the time remaining to it, wherever the sum wraps (R173). -/
@[simp] theorem moveDeadline_remaining (old new d : Time) : moveDeadline old new d - new = d - old := by
  unfold moveDeadline; bv_omega

/-- A past time that stays within the range of venue time keeps the time passed since it (R173). -/
theorem moveTime_elapsed {old new v : Time} (h0 : old.toNat ≤ v.toNat + new.toNat)
    (h1 : v.toNat + new.toNat - old.toNat < 2 ^ 48) : (moveTime old new v).toNat = v.toNat + new.toNat - old.toNat := by
  unfold moveTime
  rw [if_neg (by omega), BitVec.toNat_ofNat, Nat.mod_eq_of_lt h1]

/-- A past time that would lie before 0 is 0 (R173). -/
theorem moveTime_floor {old new v : Time} (h : v.toNat + new.toNat < old.toNat) : moveTime old new v = 0 := by
  unfold moveTime; rw [if_pos h]

@[simp] theorem takeArrivals_pending (s : State) : (takeArrivals s).pending = s.pending := rfl
@[simp] theorem takeArrivals_venueTime (s : State) : (takeArrivals s).venueTime = s.venueTime := rfl
@[simp] theorem takeArrivals_stations (s : State) : (takeArrivals s).stations = s.stations := rfl
@[simp] theorem takeArrivals_radios (s : State) : (takeArrivals s).radios = s.radios := rfl
@[simp] theorem takeArrivals_roam (s : State) : (takeArrivals s).roam = s.roam := rfl
@[simp] theorem takeArrivals_egress (s : State) : (takeArrivals s).egress = s.egress := rfl
@[simp] theorem takeArrivals_gov (s : State) : (takeArrivals s).gov = s.gov := rfl
@[simp] theorem takeArrivals_adm (s : State) : (takeArrivals s).adm = s.adm := rfl
@[simp] theorem takeArrivals_replay (s : State) : (takeArrivals s).replay = s.replay := rfl
@[simp] theorem takeArrivals_mem (s : State) : (takeArrivals s).mem = s.mem := rfl

/-- With every receive FIFO empty nothing arrives. -/
theorem arrivals_none {s : State} (hu : s.uplink.rx = []) (hp : ∀ p, (s.port p).rx = []) : arrivals s = [] := by
  simp [arrivals, hu, hp]

/-- A phase change leaves a radio that waits for nothing as it is (R82). -/
theorem Governor.rewait_idle {g : Governor} {now : Time} {r : Radio} (h : r.waiting = []) : g.rewait now r = r := by
  unfold Governor.rewait; rw [if_pos h]

/-- A phase change keeps, of the waiting classes, those the credit does not allow (R82; log entry 26). -/
@[simp] theorem Governor.rewait_waiting (g : Governor) (now : Time) (r : Radio) :
    (g.rewait now r).waiting = r.waiting.filter (fun c => !g.allows r c) := by
  unfold Governor.rewait
  split
  · rename_i h; simp [h]
  · rfl

/-- A frame joins the last burst of a class list when it fits there, and no other (R47). -/
@[simp] theorem mergeTail_append (f : Frame) (bs : List Burst) (b : Burst) :
    mergeTail f (bs ++ [b])
      = if b.fits f then some (bs ++ [{ b with frames := b.frames ++ [f] }.closeIfFull]) else none := by
  induction bs with
  | nil => rfl
  | cons a as ih =>
    have step : mergeTail f (a :: (as ++ [b])) = (mergeTail f (as ++ [b])).map (a :: ·) := by
      cases h : as ++ [b] with
      | nil => simp at h
      | cons => rfl
    rw [List.cons_append, step, ih]
    split <;> simp

end Sys2Proof.Machine
end

