-- ==== Sys2Proof/Tests/Slice0.lean ====
section
/-! SUPPORT. Tests: each check of WellFormed refuses an ill-formed command; small tests of one step, with expected values
written out from the rules named beside them; and, for each obligation, states and operands that meet its hypotheses. -/

namespace Sys2Proof.Tests

open Sys2Proof Sys2Proof.Machine

/-! ### Ill-formed commands are refused -/

theorem test_wf_stationRead : (Instr.stationRead 1 1 (.badForm 2 [0, 0])).wf = false := by decide
theorem test_wf_credRead : (Instr.credRead 1 1 (.badForm 1 [])).wf = false := by decide
theorem test_wf_profileWrite : (Instr.profileWrite 1 1 (.badPart 10 [])).wf = false := by decide
theorem test_wf_mgmtFilter : (Instr.mgmtFilter 1 1 (List.replicate 256 2) 0 0).wf = false := by decide +kernel
theorem test_wf_credLoad : (Instr.credLoad 1 1 (List.replicate 256 ⟨1, 1, 1, 0, 0, 0⟩)).wf = false := by decide +kernel
theorem test_wf_rateTable : (Instr.rateTable 1 1 (List.replicate 15 6)).wf = false := by decide
theorem test_wf_unknownDirective : (Instr.unknownDirective 1 1 1 []).wf = false := by decide
theorem test_wf_malformedReelFrame :
    (Instr.malformedReelFrame 1 0x9A44 [3, 0, 0, 0, 0, 1]).wf = false := by decide
theorem test_wf_segmentData : (Instr.segmentData 1 0 1 0 []).wf = false := by decide
theorem test_wf_malformedCarrierFrame :
    (Instr.malformedCarrierFrame 1 [5, 2, 2, 0, 0, 0, 0, 1, 1, 1, 0, 0]).wf = false := by decide
theorem test_wf_upstreamDataFrame : (Instr.upstreamDataFrame 1 5 2 4 0x800 []).wf = false := by decide
theorem test_wf_partToRadio_code : (Instr.partToRadioServiceFrame 1 5 2 0x01 []).wf = false := by decide
theorem test_wf_partToRadio_length : (Instr.partToRadioServiceFrame 1 5 2 0x12 []).wf = false := by decide
theorem test_wf_fetch : (Instr.credentialFetchCompletion [(4194304, 1)]).wf = false := by decide
theorem test_wf_stride : (Instr.sweepStrideCompletion [(4194304, 1)]).wf = false := by decide
theorem test_wf_carrier : carrierWf ⟨5, 2, .data 4 0x800 (List.replicate 1501 0)⟩ = false := by decide +kernel
theorem test_wf_reel : reelWf (.segData 0 1 0 (List.replicate 1401 0)) = false := by decide +kernel


/-! ### A small floor to test on -/

/-- The state a command leaves, where it answers one. -/
def ran : Outcome → Option State
  | .next t => some t
  | _ => none

/-- A field of the state a command leaves. -/
def look {α : Type} (o : Outcome) (f : State → α) : Option α := (ran o).map f

def one : Addr := 0x020000000001
def two : Addr := 0x040000000001
def host : Addr := 0x060000000009
/-- The handle of `one`: (0200h xor 0000h xor 0001h) mod 2,048 is 513, way 0 (R3). -/
def hOne : Nat := 2052

def cfgOf (role : Role) (zone port : Nat) : RadioCfg := ⟨role, zone, 0, port⟩
def radioOf (role : Role) (zone port : Nat) : Radio := { state := .inService, cfg := some (cfgOf role zone port), credit := 8000 }
def busyPort : Port := { sending := some (200, .fan) }

/-- A seat radio 5 on port 1, a concourse radio 6 on port 2, a gate radio 7 on port 3, a DISABLED radio 8, a QUARANTINED
radio 9; nothing sent. -/
def floor : State := { State.reset with
  venueTime := 1000
  radios := [(5, radioOf .seat 3 1), (6, radioOf .concourse 4 2), (7, radioOf .gateBoth 3 3),
    (8, { radioOf .seat 0 0 with state := .disabled }), (9, { radioOf .seat 0 1 with state := .quarantined, strikes := 8 })] }

/-- The floor with all four ports sending. -/
def busy : State := { floor with ports := [(0, busyPort), (1, busyPort), (2, busyPort), (3, busyPort)] }

/-- A record of `one`. -/
def st0 : Station := { addr := one, state := .attached, current := some 5 }
def withOne (st : Station) (s : State) : State := { s with stations := [(hOne, st)] }
def atFive : State := withOne st0 busy

/-- A binding that permits every zone. -/
def bindAll : Binding := ⟨7, 0, .premium, BitVec.allOnes 64, true⟩

/-- A configured reel 2 of slots 8 to 15. -/
def reelTwo : ReelCfg := { first := 8, count := 8, writePos := 8 }
def withReel (c : ReelCfg) (slots : Table Slot) (s : State) : State :=
  { s with replay := { s.replay with reels := [(2, { cfg := some c })], slots := slots } }

/-- A general-tier credential of code 7: bucket 7, position 28 in way 0 (R86). -/
def seven : Cred := { code := 7, tier := .general, permit := BitVec.allOnes 64, allowance := 1, grant := true }

/-! ### The pins, the step and frames from the uplink -/

theorem test_coldReset : look (exec .coldReset { busy with venueTime := 9 })
    (fun t => (t.radios, t.ports, t.venueTime, t.err.threshold)) = some ([], [], 0, 8) := by decide
-- R72, R73: the surge code of cold reset is 3, 45 percent
theorem test_surgeLineChange : look (exec (.surgeLineChange true) busy)
    (fun t => (t.surgeLine, t.gov.surge, t.gov.throttle, t.gov.ctrs.surgeOnsets)) = some (true, .on, 45, 1) := by decide
-- R22: a broadcast frame raises only the broadcast counter
theorem test_downstream_broadcast : look (exec (.downstreamDataFrame (BitVec.allOnes 48) host 0x800 [1]) atFive)
    (fun t => (t.uplink.ctrs.broadcast, t.uplink.ctrs.multicast, t.egress.buffers)) = some (1, 0, 0) := by decide
-- R44, R47, R49: an unbound fan is a VISITOR; the seal deadline is 500 µs on
theorem test_downstream_visitor : look (exec (.downstreamDataFrame one host 0x800 [1, 2]) atFive)
    (fun t => ((t.list 5 .visitor).map (fun b => (b.state, b.sealAt)), t.egress.buffers,
      (t.station hOne).map Station.egress)) = some ([(.opened, some 1500)], 1, some 1) := by decide
-- R189: kind 1, tag 7, status 0, length 0; the reply carries the same tag
theorem test_managementFrame : look (exec (.managementFrame host 0x9A42 [0, 18, 0, 7, 0, 0, 0]) busy)
    (fun t => (t.adm.frozen, t.uplink.tx)) = some (true, [.reply host 0 18 7 .done []]) := by decide
theorem test_malformedReelFrame : look (exec (.malformedReelFrame host 0x9A44 [2, 2, 0]) busy)
    (fun t => t.replay.ctrs.malformed) = some 1 := by decide
-- R133: sequence 9 takes slot 8, and the write position moves on
theorem test_segmentOpen : look (exec (.segmentOpen host 2 9 1400) (withReel reelTwo [] busy))
    (fun t => ((t.slot 8).state, (t.slot 8).seq, (t.reel 2).cfg.map ReelCfg.writePos))
    = some (.filling, some 9, some 9) := by decide
-- R133: the write position wraps from the last slot of the range to its first
theorem test_segmentOpen_wraps : look (exec (.segmentOpen host 2 9 1400) (withReel { reelTwo with writePos := 15 } [] busy))
    (fun t => ((t.slot 15).state, (t.reel 2).cfg.map ReelCfg.writePos)) = some (.filling, some 8) := by decide

/-- Slot 8 of reel 2 is filling with sequence 9, of 3 bytes, none received. -/
def filling : State := withReel { reelTwo with filling := some 8, writePos := 9, lastOpened := some 9 }
  [(8, { state := .filling, reel := some 2, seq := some 9, length := some 3, received := some 0 })] busy
theorem test_segmentData : look (exec (.segmentData host 2 9 0 [1, 2, 3]) filling)
    (fun t => ((t.slot 8).received, (t.slot 8).outstanding, t.replay.outstanding, t.mem.transfer.isSome))
    = some (some 3, 1, 1, true) := by decide
theorem test_segmentData_bounds : look (exec (.segmentData host 2 9 0 [1, 2, 3, 4]) filling)
    (fun t => ((t.slot 8).received, (t.reel 2).ctrs.outOfBounds)) = some (some 0, 1) := by decide
theorem test_segmentClose_incomplete : look (exec (.segmentClose host 2 9) filling)
    (fun t => ((t.slot 8).state, (t.slot 8).generation, (t.errState .ingestIncomplete).count)) = some (.free, 1, 1) := by decide

/-! ### Frames from the downlink ports -/

-- R185, R186: a DATA header with version 2
theorem test_malformedCarrierFrame : look (exec (.malformedCarrierFrame 1 [5, 2, 2, 0, 0, 0, 0, 1, 1, 2, 0, 0]) busy)
    (fun t => ((t.errState .carrierMalformed).count, t.err.first.map (fun f => f.occ.radio))) = some (1, some (some 5)) := by decide
theorem test_upstreamDataFrame : look (exec (.upstreamDataFrame 1 5 one host 0x800 [7]) atFive)
    (fun t => (t.uplink.tx.length, (t.port 1).ctrs.unlisted)) = some (1, 0) := by decide
theorem test_join : look (exec (.join 1 5 one) busy)
    (fun t => ((t.station hOne).map Station.current, (t.radio 5).stations)) = some (some (some 5), 1) := by decide
-- R31: a JOIN from another radio begins a handoff; the detach deadline is 20 ms on
theorem test_join_handoff : look (exec (.join 2 6 one) atFive)
    (fun t => ((t.station hOne).map Station.state, t.roam.ctxs)) = some (some .handoff, [(hOne, ⟨5, 6, 1000, 21000, true⟩)]) := by
  decide
-- R8: the linger deadline is 90 s on
theorem test_part : look (exec (.part 1 5 one) atFive)
    (fun t => ((t.station hOne).map Station.state, (t.station hOne).map Station.linger))
    = some (some .unattached, some (some 90001000)) := by decide

/-- `one` moves from radio 5 to radio 6. -/
def moving : State :=
  { withOne { st0 with state := .handoff, target := some 6 } busy with
    roam := { ctxs := [(hOne, ⟨5, 6, 0, 900, true⟩)] } }
theorem test_release : look (exec (.release 1 5 one 4) moving)
    (fun t => ((t.station hOne).map Station.current, t.roam.ctxs.length, t.roam.ctrs.radioDiscarded))
    = some (some (some 6), 0, 4) := by decide
theorem test_radioStatus : look (exec (.radioStatus 1 5 15) busy)
    (fun t => ((t.radio 5).rate, (t.radio 5).gov.rateChanges)) = some (15, 1) := by decide
theorem test_radioStatus_range : look (exec (.radioStatus 1 5 16) busy)
    (fun t => ((t.radio 5).rate, (t.errState .carrierMalformed).count)) = some (0, 1) := by decide
theorem test_scan : look (exec (.scan 3 7 one 7 1 0) busy)
    (fun t => (t.adm.items.map WorkItem.bucket, t.mem.transfer.isSome)) = some ([7], true) := by decide
-- R93: an EXIT scan at a radio without the role raises GATE_ROLE
theorem test_scan_role : look (exec (.scan 1 5 one 7 2 0) busy)
    (fun t => (t.adm.items, (t.errState .gateRole).count)) = some ([], 1) := by decide
theorem test_checkin : look (exec (.checkin 1 5 one 7) atFive)
    (fun t => t.adm.items.map WorkItem.kind) = some [.checkin hOne] := by decide
/-- `one` holds a binding, in its zone. -/
def bound : State := withOne { st0 with binding := some bindAll, standing := .inZone, cls := .fan } busy
-- R143 to R145: NOT_ENTITLED without a standing in the zone, ACCEPTED and IDLE on an empty reel with FOLLOW
theorem test_cue_refused : look (exec (.cue 1 5 one 2 2 0 0) atFive) (fun t => t.replay.ctrs.cueNotEntitled) = some 1 := by decide
theorem test_cue : look (exec (.cue 1 5 one 2 2 0 0) (withReel reelTwo [] bound))
    (fun t => (t.station hOne).map (fun st => st.sub.map Sub.rider)) = some (some (some (some .idle))) := by decide
theorem test_halt : look (exec (.halt 1 5 one) atFive) (fun t => t.replay.ctrs.haltsNoSub) = some 1 := by decide
theorem test_partToRadio : look (exec (.partToRadioServiceFrame 1 5 one 0x10 []) busy)
    (fun t => ((t.errState .serviceUnexpected).count, (t.errState .serviceUnexpected).status)) = some (1, true) := by decide

/-! ### Timers -/

theorem test_lingerExpiry : look (exec (.lingerExpiry 2052) (withOne { addr := one, state := .unattached, linger := some 1000 } busy))
    (fun t => (t.stations, t.stationCtrs.lingeredOut)) = some ([], 1) := by decide
-- R49: a deadline 1 µs ahead is not reached
theorem test_lingerExpiry_early :
    look (exec (.lingerExpiry 2052) (withOne { addr := one, state := .unattached, linger := some 1001 } busy))
      (fun t => t.stations.length) = some 1 := by decide
theorem test_detachTimerExpiry : look (exec (.detachTimerExpiry 2052) moving)
    (fun t => ((t.station hOne).map Station.current, (t.errState .handoffTimeout).count)) = some (some (some 6), 1) := by decide
theorem test_dampingExpiry : look (exec (.dampingExpiry 2052) (withOne { st0 with damped := some 999 } busy))
    (fun t => (t.station hOne).map Station.damped) = some (some none) := by decide

def frameOne : Frame := { kind := .data, dst := one, src := host, etype := 0x800, payload := [1, 2], handle := some hOne }
def burstOne : Burst := { state := .opened, frames := [frameOne], sealAt := some 1000 }
/-- One VISITOR burst of `one` on radio 5. -/
def loaded (b : Burst) (s : State) : State :=
  { withOne { st0 with egress := 1 } s with egress := { lists := [(5, { visitor := [b] })], buffers := 1, bursts := 1 } }
theorem test_sealTimerExpiry : look (exec (.sealTimerExpiry 5) (loaded burstOne busy))
    (fun t => (t.list 5 .visitor).map Burst.state) = some [.closed] := by decide
-- R64, R65, R69: on a free port the closed burst is dispatched; 2 bytes at 6 Mbit/s take 3 µs, and 40 µs of overhead
theorem test_sealTimerExpiry_dispatches : look (exec (.sealTimerExpiry 5) (loaded burstOne { floor with ports := [] }))
    (fun t => ((t.list 5 .visitor).map Burst.state, (t.port 1).sending, (t.radio 5).gov.airtime))
    = some ([.transmitting 1], some (5, .visitor), 43) := by decide
-- R66: 1,000 µs at 500 credits each ms add 500
theorem test_wakeTimerExpiry :
    look (exec (.wakeTimerExpiry 5) (busy.modRadio 5 (fun x => { x with credit := 100, wake := some 1000 })))
      (fun t => ((t.radio 5).credit, (t.radio 5).wake)) = some (600, none) := by decide
-- R75, R77: stage 1 (code 2) is followed by stage 2 (code 1) for 10,000 ms
theorem test_stageTimerExpiry : look (exec .stageTimerExpiry { busy with gov := { busy.gov with surge := .ramping 1 1000 } })
    (fun t => (t.gov.surge, t.gov.throttle)) = some (.ramping 2 10001000, 20) := by decide

/-! ### Completions -/

theorem test_transmitCompletion : look (exec (.transmitCompletion 1)
      { loaded { burstOne with state := .transmitting 1, sealAt := none } busy with ports := [(1, { sending := some (5, .visitor) })] })
    (fun t => (t.egress.buffers, t.egress.bursts, (t.port 1).ctrs.bytesSent, (t.port 1).sending))
    = some (0, 0, 2, none) := by decide

/-- A credential of code 7 stands ISSUED in way 0 of bucket 7, and its scan at gate radio 7 waits for the read. -/
def scanning : State :=
  { busy with
    mem := { cred := Memory.writeBytes [] (28 * 64) seven.bytes, transfer := some ⟨.fetch 7 [28] (.item 0), false⟩ }
    adm := { map := [(28, { state := .issued, home := 3 })]
             items := [⟨0, .scan .entry 1, 7, 7, 7, 3, one, 1000, .fetching 0⟩], serial := 1 } }
set_option maxRecDepth 8000 in
theorem test_fetch_admits : look (exec (.credentialFetchCompletion []) scanning)
    (fun t => ((t.entry 28).state, t.occupancy 3, t.adm.ctrs.verdicts.admitIn)) = some (.admitted, 1, 1) := by decide +kernel
-- R165: a changed byte makes the check fail, and the verdict is FAULT
set_option maxRecDepth 8000 in
theorem test_fetch_fault : look (exec (.credentialFetchCompletion [(1792, 0x55)]) scanning)
    (fun t => ((t.entry 28).faulty, t.adm.ctrs.verdicts.fault, (t.errState .recordFault).count)) = some (true, 1, 1) := by
  decide +kernel

def writing : State :=
  { busy with
    mem := { transfer := some ⟨.writeBack 28 seven (.item 0), false⟩ }
    adm := { map := [(28, { state := .admitted, home := 3 })]
             items := [⟨0, .scan .entry 1, 7, 7, 7, 3, one, 1000, .writing 0⟩], serial := 1 } }
set_option maxRecDepth 8000 in
theorem test_writeBack : look (exec .credentialWriteBackCompletion writing)
    (fun t => (t.adm.items, t.credPasses 28, t.cred 28)) = some ([], true, seven) := by decide +kernel

/-- A sweep for zone 3 reads the stride at bucket 0. -/
def sweeping : State :=
  { busy with
    mem := { cred := Memory.writeBytes [] (28 * 64) seven.bytes, transfer := some ⟨.stride 0 [28], false⟩ }
    adm := { map := [(28, { state := .issued, home := 3 })]
             sweep := { state := .running, selector := some (.zone 3), stride := some .reading } } }
set_option maxRecDepth 8000 in
theorem test_stride : look (exec (.sweepStrideCompletion []) sweeping)
    (fun t => ((t.entry 28).state, t.adm.sweep.voided, t.adm.sweep.pointer)) = some (.void, 1, 64) := by decide +kernel

/-- Delivery 0 of slot 8 at radio 5, ridden by `one`; 3 bytes, its only chunk being read. -/
def delivering : State :=
  { withReel { reelTwo with newest := some 9, oldest := some 9, lastOpened := some 9, writePos := 9 }
      [(8, { state := .ready, reel := some 2, seq := some 9, length := some 3, readyTime := some 0 })]
      (withOne { st0 with binding := some bindAll, standing := .inZone, cls := .fan
                          sub := some ⟨2, .one, some 9, none, some (.riding 0)⟩ } busy) with
    mem := { clip := [(2097152, 0xAA), (2097154, 0xCC)], transfer := some ⟨.chunk 8 0 3 0, false⟩ } }
def deliveringOne : State := { delivering with
  replay := { delivering.replay with
    deliveries := [(0, ⟨5, 2, 8, 9, 0, 3, 0, .reading, [hOne]⟩)], nextId := 1 } }
-- R153, R187: the replay frame's 13-byte header, then the bytes of the slot; it is the only one, so mode ONE ends
theorem test_chunk : look (exec .clipChunkReadCompletion deliveringOne)
    (fun t => ((t.list 5 .replay).flatMap (fun b => b.frames.map Frame.payload), t.replay.deliveries.length,
      (t.station hOne).map Station.sub))
    = some ([[2, 0, 0, 0, 9, 0, 0, 0, 3, 0, 0, 0, 0, 0xAA, 0, 0xCC]], 0, some none) := by decide

/-- Slot 8 is WRITING its last 2 bytes. -/
def storing (state : SlotState) : State :=
  { withReel { reelTwo with lastOpened := some 9, writePos := 9 }
      [(8, { state := state, reel := some 2, seq := some 9, length := some 2, received := some 2, outstanding := 1 })] busy with
    mem := { transfer := some ⟨.ingest 8 0 [0xAA, 0xBB] 0, false⟩ } }
def storingOne (state : SlotState) : State := { storing state with replay := { (storing state).replay with outstanding := 1 } }
theorem test_ingest : look (exec .clipIngestWriteCompletion (storingOne .writing))
    (fun t => ((t.slot 8).state, t.mem.clip, (t.reel 2).cfg.map ReelCfg.newest))
    = some (.ready, [(2097152, 0xAA), (2097153, 0xBB)], some (some 9)) := by decide


/-! ### Directives -/

/-- The status and body of the reply a directive from `host` with tag 7 leaves last. -/
def answered (o : Outcome) : Option (Status × List Byte) :=
  (ran o).bind (fun t => match t.uplink.tx.getLast? with
    | some (.reply _ _ _ _ st body) => some (st, body)
    | _ => none)

-- R172, R190: the first capability record is of the station table
theorem test_describe : ((answered (exec (.describe host 7) busy)).map (fun a => (a.1, a.2.take 4))) = some (.done, [7, 1, 1, 4]) := by
  decide
-- R173: the reply carries the old and the new venue time
theorem test_setTime : answered (exec (.setTime host 7 5000) busy)
    = some (.done, [0, 0, 0, 0, 0x03, 0xE8, 0, 0, 0, 0, 0x13, 0x88]) := by decide
theorem test_counterRead : (answered (exec (.counterRead host 7 99 0 0 0) busy)).map Prod.fst = some .range := by decide
-- R175: the drain list, the lists and the pool are emptied, and no record that is not pinned stays
theorem test_zoneRestart : look (exec (.zoneRestart host 7) (loaded burstOne busy))
    (fun t => (t.stations.length, t.egress.buffers)) = some (0, 0) := by decide
theorem test_mgmtFilter : look (exec (.mgmtFilter host 7 [host, two, host] 0 0) busy) (fun t => t.mgmt.filter) = some [host, two] := by
  decide
theorem test_mgmtFilter_refuses : look (exec (.describe host 7) { busy with mgmt := { busy.mgmt with filter := [two] } })
    (fun t => (t.uplink.tx, t.mgmt.ctrs.refusedSources, (t.errState .mgmtSourceRefused).count)) = some ([], 1, 1) := by decide
-- R18: an ABSENT radio is configured and DISABLED
theorem test_radioConfig : look (exec (.radioConfig host 7 1 5 63 7 3 0) busy)
    (fun t => ((t.radio 1).state, (t.radio 1).cfg, (t.radio 1).credit)) = some (.disabled, some ⟨.gateBoth, 63, 7, 3⟩, 8000) := by
  decide
-- R19: a QUARANTINED radio back in service has no strikes
theorem test_radioState : look (exec (.radioState host 7 9 1) busy)
    (fun t => ((t.radio 9).state, (t.radio 9).strikes)) = some (.inService, 0) := by decide
-- R21: a QUARANTINED radio becomes IN_SERVICE
theorem test_radioReset : look (exec (.radioReset host 7 9) busy) (fun t => ((t.radio 9).state, (t.radio 9).strikes))
    = some (.inService, 0) := by decide
theorem test_stationRead : answered (exec (.stationRead host 7 (.address two)) atFive) = some (.done, [0]) := by decide
-- R11: a pin of an unknown address makes an UNATTACHED record of class ADMISSION
theorem test_stationPin : look (exec (.stationPin host 7 one) busy)
    (fun t => (t.station hOne).map (fun st => (st.state, st.cls, st.pinned))) = some (some (.unattached, .admission, true)) := by decide
theorem test_stationUnpin : look (exec (.stationUnpin host 7 one) (withOne { st0 with pinned := true, cls := .admission } busy))
    (fun t => (t.station hOne).map (fun st => (st.pinned, st.cls))) = some (some (false, .visitor)) := by decide
theorem test_clearFans : answered (exec (.clearFans host 7) atFive) = some (.done, [0, 1]) := by decide
theorem test_stationSettings : look (exec (.stationSettings host 7 255 0 60 15 0) busy) (fun t => t.roam.settings)
    = some ⟨255, 90, 60, 15, 30⟩ := by decide
theorem test_credLoad : look (exec (.credLoad host 7 [⟨7, 1, 0, 7, 0, 0⟩]) busy)
    (fun t => (t.adm.op.map CredOp.bucket, t.mgmt.queue.length)) = some (some 7, 1) := by decide
theorem test_credLoad_range : (answered (exec (.credLoad host 7 [⟨7, 1, 0, 8, 0, 0⟩]) busy)).map Prod.fst = some .range := by decide
-- R86: the bucket is the exclusive-or of the two halves, modulo 16,384
theorem test_credRead : look (exec (.credRead host 7 (.code 0x0000400700000001)) busy) (fun t => t.adm.op.map CredOp.bucket)
    = some (some 6) := by decide
theorem test_credVoid : look (exec (.credVoid host 7 7) busy) (fun t => t.adm.op.map CredOp.job) = some (some (.void 7)) := by decide
theorem test_credEraseWay : look (exec (.credEraseWay host 7 7 0) { busy with adm := { map := [(28, { state := .void, home := 3 })] } })
    (fun t => (t.entry 28, t.adm.ctrs.erases)) = some ({}, 1) := by decide
theorem test_admissionFreeze : look (exec (.admissionFreeze host 7) { busy with adm := { closed := true } })
    (fun t => (t.adm.frozen, t.adm.closed)) = some (true, false) := by decide
-- R104: a gate radio is IN_SERVICE on the floor
theorem test_eventClose : (answered (exec (.eventClose host 7) busy)).map Prod.fst = some .state := by decide
theorem test_voidSweep : look (exec (.voidSweep host 7 1 63) busy)
    (fun t => (t.adm.sweep.state, t.adm.sweep.selector, t.mem.transfer.map Tagged.req)) = some (.running, some (.zone 63), some (.stride 0 [])) := by
  decide
theorem test_sweepSuspend : look (exec (.sweepSuspend host 7) { busy with adm := { sweep := { state := .running, stride := some .claimed } } })
    (fun t => (t.adm.sweep.state, t.adm.sweep.stride)) = some (.suspended, none) := by decide
theorem test_sweepResume : look (exec (.sweepResume host 7) { busy with adm := { sweep := { state := .suspended, pointer := 64 } } })
    (fun t => (t.adm.sweep.state, t.adm.sweep.stride)) = some (.running, some .reading) := by decide
theorem test_sweepStatus : (answered (exec (.sweepStatus host 7) busy)).map Prod.fst = some .done := by decide
theorem test_clearRedemptions : look (exec (.clearRedemptions host 7)
      { busy with adm := { map := [(28, { state := .exited, used := 1, home := 3 })], occupancy := [(3, 2)] } })
    (fun t => (t.entry 28, t.occupancy 3)) = some ({ state := .issued, home := 3 }, 0) := by decide
theorem test_reelConfig : look (exec (.reelConfig host 7 2 8 8 0) busy)
    (fun t => ((t.reel 2).cfg, (t.slot 15).reel, (t.slot 16).reel)) = some (some reelTwo, some 2, none) := by decide
theorem test_reelReset : look (exec (.reelReset host 7 2) filling)
    (fun t => ((t.slot 8).state, (t.slot 8).generation, (t.reel 2).cfg)) = some (.free, 1, some reelTwo) := by decide
theorem test_reelStatus : (answered (exec (.reelStatus host 7 2 1 16) (withReel reelTwo [] busy))).map Prod.fst = some .range := by
  decide
theorem test_profileAccess : look (exec (.profileAccess host 7 1) busy) (fun t => t.gov.access) = some .play := by decide
theorem test_profileWrite : look (exec (.profileWrite host 7 (.timing 41 100 0)) busy)
    (fun t => (t.gov.brk.overhead, t.gov.brk.valid, t.gov.play.valid)) = some (41, false, true) := by decide
-- R80, R190: a seal age of 99 µs is the first field that fails
theorem test_profileValidate : (answered (exec (.profileValidate host 7)
    { busy with gov := { busy.gov with brk := { busy.gov.brk with sealAge := 99 } } })).map Prod.fst = some .range := by decide
theorem test_phaseSet : look (exec (.phaseSet host 7 2) busy) (fun t => (t.gov.active, t.gov.ctrs.phaseChanges)) = some (.brk, 1) := by
  decide
theorem test_phaseSet_invalid : (answered (exec (.phaseSet host 7 2)
    { busy with gov := { busy.gov with brk := { busy.gov.brk with valid := false } } })).map Prod.fst = some .invalidContext := by decide
theorem test_surgeSet : look (exec (.surgeSet host 7 1) busy) (fun t => (t.gov.surgeFlag, t.gov.surge)) = some (true, .on) := by decide
theorem test_rateTable : look (exec (.rateTable host 7 (4095 :: List.replicate 15 0)) busy) (fun t => t.gov.rates.take 2)
    = some [4095, 12] := by decide
theorem test_errorRead : look (exec (.errorRead host 7 1) { busy with err := { busy.err with classes := [(3, ⟨true, 4, false, false⟩)] } })
    (fun t => t.errState .gateRole) = some ⟨true, 0, false, false⟩ := by decide
-- R190: class 3 is bit 2 of the set
theorem test_errorClear : look (exec (.errorClear host 7 4 0) { busy with err := { busy.err with classes := [(3, ⟨true, 4, false, false⟩)] } })
    (fun t => t.errState .gateRole) = some ⟨false, 4, false, false⟩ := by decide
-- R180: HOLD_OVERFLOW (7) is not quarantinable
theorem test_errorConfig_range : (answered (exec (.errorConfig host 7 7 0xFF 2 0xFFFF) busy)).map Prod.fst = some .range := by decide
theorem test_errorConfig : look (exec (.errorConfig host 7 3 1 2 255) busy)
    (fun t => ((t.errState .gateRole).masked, (t.errState .gateRole).quarantine, t.err.threshold)) = some (true, true, 255) := by decide
theorem test_noticeConfig : look (exec (.noticeConfig host 7 0 host 1 0 0) busy)
    (fun t => ((t.noticeEntry 0).enable, (t.noticeEntry 0).dest)) = some (true, host) := by decide
theorem test_unknownDirective : answered (exec (.unknownDirective host 7 38 []) busy) = some (.unknownDirective, []) := by decide
-- R178 to R181: the strike that reaches the threshold quarantines the radio
theorem test_quarantine : look (exec (.scan 1 5 one 7 1 0)
      { busy with err := { busy.err with threshold := 1, classes := [(3, ⟨false, 0, false, true⟩)] } })
    (fun t => ((t.radio 5).state, (t.radio 5).strikes, t.err.quarantines)) = some (.quarantined, 1, 1) := by decide
-- Log entry 2: a tick counts one microsecond and queues the expiry that falls due
theorem test_tick : look (step (withOne { addr := one, state := .unattached, linger := some 1001 } busy))
    (fun t => (t.venueTime, t.pending)) = some (1001, [.lingerExpiry 2052]) := by decide


/-! ### States that meet the hypotheses of the obligations -/

/-- One record lingers until 1,001. -/
def lingering : State := withOne { addr := one, state := .unattached, linger := some 1001 } busy
/-- A frame stands in the receive FIFO of the uplink and one in that of port 3. -/
def arriving : State := { lingering with
  uplink := { rx := [⟨one, host, 0x800, [1]⟩] }
  ports := [(3, { rx := [[255], [0]] })] }
theorem witness_EmptyQueueTicks :
    lingering.pending = [] ∧ lingerDue hOne { lingering with venueTime := 1001 } = true ∧ arriving.pending = []
    ∧ (ran (step arriving)).map State.pending
      = some [.lingerExpiry 2052, .downstreamDataFrame one host 0x800 [1], .malformedCarrierFrame 3 [255]] := by decide

/-- Every queue and pool at its bound. -/
def brim : State := { busy with
  mgmt := { queue := List.replicate 8 ⟨host, 7, .describe⟩, started := true, filter := [1, 2, 3, host] }
  adm := { items := List.replicate 64 ⟨0, .checkin 1, 7, 7, 5, 3, one, 0, .waiting⟩ }
  replay := { outstanding := 128 }
  mem := { cred := [(0, 1), (4194303, 255)], clip := [(0, 1), (1073741823, 255)], starveIngest := 16, starveStride := 64 }
  egress := { buffers := 4096, bursts := 1024 } }
theorem brim_Inv : brim.Inv :=
  ⟨⟨by decide, by decide, by decide, by decide, by decide, by decide, by decide, by decide⟩, ⟨by decide, by decide⟩⟩
theorem witness_EveryStepKeepsInvariant : brim.Inv ∧ (ran (step { brim with pending := [.coldReset] })).isSome = true :=
  ⟨brim_Inv, by decide⟩
/-- A hold queue, the places of a radio and its REPLAY list at their bounds. -/
def packed : State := { withOne { addr := one, state := .unattached, hold := List.replicate 64 { kind := .data, dst := one, payload := [] } } busy with
  replay := { deliveries := (List.range 8).map (fun d => (d, ⟨255, 15, 8 + d, 9, 0, 3, 0, .reading, []⟩)), nextId := 8 }
  egress := { lists := [(255, { replay := List.replicate 4 { state := .closed, frames := [] } })], bursts := 4 } }
theorem witness_EveryStepKeepsPoolsAndTables :
    packed.Pools ∧ packed.Tables ∧ (ran (step { packed with pending := [.coldReset] })).isSome = true :=
  ⟨⟨by decide, by decide, by decide, by decide, fun _ => List.length_filter_le _ _, by decide⟩,
   by constructor <;> decide, by decide⟩
theorem witness_EveryCommandEndsItsEvent : brim.Inv ∧ (ran (exec (.eventClose host 7) brim)).isSome = true :=
  ⟨brim_Inv, by decide⟩

theorem witness_DirectiveBodiesReadBack :
    directiveWf (.mgmtFilter (List.replicate 255 host) 1 two) = true
    ∧ directiveWf (.credLoad (List.replicate 255 ⟨7, 3, 0, 7, 1, 63⟩)) = true
    ∧ directiveWf (.stationRead (.badForm 3 [1])) = true ∧ directiveWf (.credRead (.badForm 0 [])) = true
    ∧ directiveWf (.profileWrite (.badPart 11 [])) = true ∧ directiveWf (.rateTable (List.replicate 16 4095)) = true
    ∧ directiveWf (.unknown 38 [1, 2]) = true ∧ directiveWf (.unknown 1 [0]) = true
    ∧ directiveWf .describe = true := by decide +kernel
theorem witness_FramesReadBack :
    carrierWf ⟨255, one, .data host 0x800 (List.replicate 1500 9)⟩ = true ∧ carrierWf ⟨0, one, .data host 0x800 [9]⟩ = true
    ∧ carrierWf ⟨5, one, .toRadio 0x14 (List.replicate 7 0)⟩ = true ∧ carrierWf ⟨5, one, .join⟩ = true
    ∧ reelWf (.segData 15 9 0 (List.replicate 1400 9)) = true ∧ reelWf (.segClose 15 9) = true := by decide +kernel
theorem witness_MalformedReelFramesAreThose :
    parseReel 0x9A44 [3, 2, 0, 0, 0, 9] = some (.segClose 2 9) ∧ parseReel 0x9A44 [3, 2, 0, 0, 0] = none
    ∧ parseReel 0x9A43 [3, 2, 0, 0, 0, 9] = none ∧ parseReel 0x9A44 [1, 2, 0, 0, 0, 9, 0, 0, 0] = none
    ∧ parseReel 0x9A44 [2, 2, 0, 0, 0, 9, 0, 0, 0, 0, 0, 1] = none ∧ parseReel 0x9A44 [] = none := by decide
theorem witness_FrameCommandsAreTheirBytes :
    (Instr.upstreamDataFrame 1 5 one host 0x800 (List.replicate 1500 9)).carrier
      = some (1, ⟨5, one, .data host 0x800 (List.replicate 1500 9)⟩)
    ∧ (Instr.upstreamDataFrame 1 5 one host 0x800 (List.replicate 1500 9)).wf = true
    ∧ (Instr.rateTable host 7 (List.replicate 16 4095)).directive = some ⟨host, 7, .rateTable (List.replicate 16 4095)⟩
    ∧ (Instr.rateTable host 7 (List.replicate 16 4095)).wf = true
    ∧ (List.replicate 1400 (9 : Byte)).length ≤ 1400
    ∧ busy.ingestAddr = 1 ∧ busy.mgmt.address ≠ busy.ingestAddr := by decide +kernel
theorem witness_WrittenCredentialsReadBack :
    (Memory.wf brim.mem.cred = true ∧ Memory.wf brim.mem.clip = true) ∧ ({ seven with allowance := 7, first := some ⟨255, 1⟩, last := some ⟨255, 2⟩ } : Cred).allowance < 8
    ∧ (255 : Nat) < 256 := by decide

theorem witness_HolderIsBoundRecord :
    ({ bound with adm := { map := [(28, { state := .admitted, home := 3, bound := some hOne })] } } : State).holder 28 = some hOne := by
  decide
theorem witness_StandingAndClassAreDerived :
    st0.binding = none ∧ ({ st0 with binding := some bindAll } : Station).current = some 5
    ∧ (busy.radio 5).cfg = some (cfgOf .seat 3 1)
    ∧ ({ addr := one, state := .unattached, binding := some bindAll } : Station).current = none
    ∧ ({ st0 with standing := .inZone } : Station).derived ≠ st0.cls ∧ st0.derived = st0.cls := by decide
def slow : Governor := { play := { g0 := { base := 100, ceiling := 65535 } } }
def poor : Radio := { radioOf .seat 3 1 with credit := -130000, remainder := 999 }
theorem witness_RefillsCompose :
    elapsed 400000 poor.lastRefill + elapsed 1000000 400000 = elapsed 1000000 poor.lastRefill
    ∧ elapsed 1000000 poor.lastRefill ≤ 1000000
    ∧ poor.credit + ((elapsed 1000000 poor.lastRefill * slow.eff poor + poor.remainder) / 1000 : Nat)
      ≤ ((slow.groupOf poor).ceiling.toNat : Int) := by decide
/-- One VISITOR burst of `one` on radio 5; no buffer; no burst record. -/
def queued : State := loaded burstOne busy
def noBuffer : State := { queued with egress := { queued.egress with buffers := 3840 } }
def noRecord : State := { busy with egress := { bursts := 960 } }
def widest : Frame := { frameOne with payload := List.replicate 1500 0 }
theorem witness_BurstsFormAndAreCharged :
    queued.list 5 .visitor = [] ++ [burstOne] ∧ burstOne.state = .opened ∧ burstOne.frames.length < 8 ∧ queued.egress.buffers < 3840
    ∧ (∀ bs b, busy.list 5 .replay ≠ bs ++ [b]) ∧ busy.egress.buffers < 3840 ∧ busy.egress.bursts < 960 ∧ (busy.list 5 .replay).length < 4
    ∧ ¬ noBuffer.egress.buffers < 3840 ∧ (∀ bs b, noRecord.list 5 .fan ≠ bs ++ [b]) ∧ ¬ noRecord.egress.bursts < 960
    ∧ queued.ev.deferring = false ∧ queued.inService 8 = false ∧ noBuffer.inService 5 = true ∧ place noBuffer 5 .visitor widest = none
    ∧ queued.inService 5 = true ∧ (place queued 5 .visitor widest).isSome = true
    ∧ headEligible .admission [burstOne] = true ∧ headEligible .admission (queued.list 5 .admission) = false
    ∧ Table.sorted queued.stations = true ∧ Table.sorted queued.egress.lists = true
    ∧ queued.station hOne = some { st0 with egress := 1 } ∧ (takeFrames hOne (queued.list 5 .visitor)).1 = [frameOne]
    ∧ busy.gov.rates[0]? = some 6 ∧ busy.gov.rates[15]? = some 4095 :=
  ⟨by decide, by decide, by decide, by decide, by intro bs b h; exact absurd (congrArg List.length h) (by simp [show busy.list 5 .replay = [] from by decide]),
   by decide, by decide, by decide, by decide,
   by intro bs b h; exact absurd (congrArg List.length h) (by simp [show noRecord.list 5 .fan = [] from by decide]),
   by decide, by decide, by decide, by decide, by decide +kernel, by decide, by decide +kernel, by decide, by decide, by decide, by decide, by decide,
   by decide, by decide, by decide⟩

def fetchT : Tagged := ⟨.fetch 7 [28] (.item 0), false⟩
def writeT : Tagged := ⟨.writeBack 28 seven (.item 0), false⟩
def strideT : Tagged := ⟨.stride 0 [], false⟩
def ingestT : Tagged := ⟨.ingest 8 0 [1] 0, false⟩
theorem witness_MemoryArbiterGrantsInOrder :
    (∃ m : RecMem, m.transfer.isSome = true ∧ m.fetchQ ≠ [])
    ∧ (∃ m : RecMem, m.transfer = none ∧ m.fetchQ = [fetchT] ∧ m.strideQ = [strideT] ∧ m.starveStride = 64
        ∧ m.ingestQ = [ingestT] ∧ m.starveIngest = 16)
    ∧ (∃ m : RecMem, m.transfer = none ∧ m.fetchQ = [fetchT] ∧ m.strideQ = [strideT] ∧ m.starveStride = 64
        ∧ m.ingestQ = [ingestT] ∧ m.starveIngest = 15)
    ∧ ∃ m : RecMem, m.transfer = none ∧ m.writeQ = [writeT] ∧ m.strideQ = [strideT] ∧ m.starveStride = 63 ∧ m.ingestQ = [] :=
  ⟨⟨{ transfer := some writeT, fetchQ := [fetchT] }, by decide⟩,
   ⟨{ fetchQ := [fetchT], strideQ := [strideT], starveStride := 64, ingestQ := [ingestT], starveIngest := 16 }, by decide⟩,
   ⟨{ fetchQ := [fetchT], strideQ := [strideT], starveStride := 64, ingestQ := [ingestT], starveIngest := 15 }, by decide⟩,
   ⟨{ writeQ := [writeT], strideQ := [strideT], starveStride := 63 }, by decide⟩⟩

def errAt (v : ErrState) (first : Option FirstError) : State := { busy with err := { classes := [(3, v)], first := first } }
def firstOne : FirstError := ⟨{ cls := .gateRole, radio := some 5 }, 10⟩
theorem witness_OccurrencesAreRecorded :
    ((errAt ⟨false, 4, true, false⟩ none).errState .gateRole).masked = true
    ∧ ((errAt ⟨false, 4, false, true⟩ none).errState .gateRole).masked = false ∧ (errAt ⟨false, 4, false, true⟩ none).err.first = none
    ∧ (errAt ⟨false, 4, false, true⟩ (some firstOne)).err.first = some firstOne := by decide

/-- The management queue holds `n` directives; its head waits at its owner. -/
def held (n : Nat) : State := { busy with mgmt := { queue := List.replicate n ⟨host, 1, .sweepSuspend⟩, started := true } }
def guarded : State := { busy with mgmt := { filter := [two] } }
theorem witness_DirectivesAreFilteredAndQueued :
    (Instr.describe host 7).directive = some ⟨host, 7, .describe⟩ ∧ (Instr.describe host 7).wf = true
    ∧ guarded.Between ∧ ¬ (guarded.mgmt.filter = [] ∨ host ∈ guarded.mgmt.filter)
    ∧ (held 8).Between ∧ 8 ≤ (held 8).mgmt.queue.length
    ∧ (held 7).Between ∧ (held 7).mgmt.queue.length < 8 ∧ (held 7).mgmt.queue ≠ [] := by decide

/-- The sweep record in a state with a stride field. -/
def swept (x : SweepState) (y : Option Stride) : State :=
  { busy with adm := { sweep := { state := x, selector := some .all, pointer := 64, stride := y } } }
def frozen : State := { busy with adm := { frozen := true, map := [(28, { state := .void })] } }
theorem witness_RefusedDirectivesChangeNothing :
    busy.Ready host ∧ (4 < [host, two, one, 2, 4].length) ∧ (63 < (64 : Byte).toNat) ∧ (8191 < (8192 : Half).toNat)
    ∧ (16383 < (16384 : Half).toNat) ∧ selectorOf 1 64 = none ∧ selectorOf 4 0 = none ∧ (15 < (16 : Byte).toNat)
    ∧ busy.adm.sweep.state = .idle ∧ directiveWf (.unknown 0 []) = true
    ∧ configOf 1 0 0 0 0 = some (⟨.seat, 0, 0, 0⟩, false) ∧ (busy.radio 5).state = .inService ∧ (busy.radio 9).state = .quarantined
    ∧ (busy.radio 1).state = .absent ∧ busy.lookup one = none
    ∧ ({ busy with gov := { busy.gov with access := .play } } : State).gov.access = .play
    ∧ (swept .running none).Ready host ∧ (swept .suspended none).Ready host
    ∧ frozen.Ready host ∧ frozen.adm.sweep.state = .idle ∧ placeInRange 16383 3 = true
    ∧ (frozen.entry (posOf 16383 3)).faulty = false ∧ (busy.reel 15).cfg = none := by decide
/-- Reel 2 with a subscriber, beside reel 15, which holds the last 8 slots. -/
def reeled : State := { withOne { st0 with sub := some ⟨2, .follow, none, none, none⟩ } busy with
  replay := { reels := [(2, { cfg := some reelTwo }), (15, { cfg := some { first := 4088, count := 8, writePos := 4088 } })] } }
theorem witness_refused_fields :
    (5 < (6 : Byte).toNat) ∧ (7 < (8 : Byte).toNat) ∧ (3 < (4 : Byte).toNat) ∧ (1 < (2 : Byte).toNat) ∧ (16 < (List.replicate 17 (⟨7, 1, 0, 7, 0, 0⟩ : LoadRec)).length)
    ∧ (swept .suspended none).adm.sweep.state ≠ .running ∧ (10 < (11 : Byte).toNat) ∧ (4096 < (4089 : Half).toNat + (8 : Half).toNat)
    ∧ reeled.Ready host ∧ (2 : Byte).toNat ≤ 15 ∧ Table.sorted reeled.replay.reels = true ∧ (reeled.reel 2).cfg = some reelTwo
    ∧ (∃ e ∈ reeled.stations, e.2.sub.map Sub.reel = some 2)
    ∧ (∃ q c, q ≠ (2 : Byte).toNat ∧ (reeled.reel q).cfg = some c ∧ (4081 : Half).toNat < c.first + c.count
      ∧ c.first < (4081 : Half).toNat + (8 : Half).toNat)
    ∧ filling.Ready host ∧ Table.sorted filling.replay.reels = true ∧ (filling.slot 8).state = .filling :=
  ⟨by decide, by decide, by decide, by decide, by decide, by decide, by decide, by decide, by decide, by decide, by decide, by decide,
   by decide, ⟨15, { first := 4088, count := 8, writePos := 4088 }, by decide⟩, by decide, by decide, by decide⟩

theorem witness_StationReadReportsRecord :
    busy.Ready host ∧ busy.lookup two = none ∧ atFive.Ready host ∧ atFive.lookup one = some hOne ∧ atFive.station hOne = some st0
    ∧ busy.station 8191 = none ∧ (8191 < (8192 : Half).toNat) ∧ (2052 : Half).toNat = hOne := by decide
theorem witness_SweepStatusReportsSweep : (swept .running (some .reading)).Ready host := by decide
theorem witness_ReelStatusReportsReel :
    filling.Ready host ∧ (15 < (16 : Byte).toNat) ∧ (filling.reel 15).cfg = none
    ∧ ((filling.reel 2).cfg.map (fun c => (c.first, c.count))) = some (8, 8)
    ∧ ((7 : Half).toNat < 8) ∧ (8 + 8 ≤ (16 : Half).toNat) ∧ ((15 : Half).toNat < 8 + 8) := by decide
theorem witness_ReportsReadState :
    busy.Ready host ∧ (optByteOf 1 255).bind (groupOf 3) = some (.radio 255) ∧ (optByteOf 0 0).bind (groupOf 10) = some .management
    ∧ (optByteOf 0 0).bind (groupOf 3) = none ∧ (optByteOf 0 0).bind (groupOf 11) = none := by decide

theorem witness_SettingsFilterAndRatesAreReplaced :
    busy.Ready host ∧ (255 < (256 : Half).toNat) ∧ ¬ (255 < (255 : Half).toNat)
    ∧ [host, two, one, host].length ≤ 4 ∧ [host, two, one, host].all (fun x => !noStation x) = true
    ∧ noStation two = false ∧ two ≠ busy.ingestAddr ∧ noStation 0 = true
    ∧ (List.replicate 16 (4095 : Half)).length = 16 ∧ (List.replicate 16 (4095 : Half)).all (fun v => decide (v.toNat ≤ 4095)) = true
    ∧ ((4096 : Half) ∈ (4096 : Half) :: List.replicate 15 0) ∧ 4095 < (4096 : Half).toNat := by decide
theorem witness_FreezeAndCloseSetFlags :
    busy.Ready host ∧ (∃ e ∈ busy.radios, e.2.state = .inService ∧ e.2.cfg = some (cfgOf .gateBoth 3 3))
    ∧ ∃ s : State, s.Ready host ∧ (∀ e ∈ s.radios, e.2.state = .inService → e.2.cfg = some (cfgOf .concourse 63 3))
      ∧ s.radios ≠ [] :=
  ⟨by decide, by decide, { busy with radios := [(7, radioOf .concourse 63 3)] }, by decide, by decide, by decide⟩
/-- The eight group records of a context. -/
def groupsOf (c : Context) : List GroupRec := [c.g0, c.g1, c.g2, c.g3, c.g4, c.g5, c.g6, c.g7]
/-- BREAK, the context selected, is `c`. -/
def withBreak (c : Context) : State := { busy with gov := { busy.gov with brk := c } }
def emptyCeiling : Context := { busy.gov.brk with g7 := { ceiling := 0, visitor := 0, replay := 0 } }
def youngSeal : Context := { busy.gov.brk with sealAge := 99 }
-- A context whose fields all lie in their ranges; one whose ceiling of group 7 is the first that does not; one whose seal age is.
theorem witness_ProfilesAreWrittenAndValidated :
    busy.Ready host ∧ (2 : Byte).toNat = Phase.brk.code ∧ profilePartWf (.timing 40 100 0) = true
    ∧ (∀ q r, ProfilePart.timing 40 100 0 ≠ .badPart q r) ∧ busy.gov.access ≠ busy.gov.active
    ∧ (∀ c ∈ [busy.gov.brk, youngSeal], (withBreak c).Ready host ∧ (withBreak c).gov.ctx (withBreak c).gov.access = c
      ∧ (∀ x ∈ groupsOf c, x.base.toNat ≤ 1000 ∧ 1 ≤ x.ceiling.toNat ∧ x.visitor.toNat < x.ceiling.toNat
        ∧ x.replay.toNat < x.ceiling.toNat ∧ x.debt.toNat ≤ 16383)
      ∧ c.surgeCode.toNat ≤ 7 ∧ c.capCode.toNat ≤ 7 ∧ c.stage1.code.toNat ≤ 7 ∧ c.stage2.code.toNat ≤ 7 ∧ c.stage3.code.toNat ≤ 7
      ∧ (c.capEnable = 0 ∨ c.capEnable = 1) ∧ 1 ≤ c.stage1.dur.toNat ∧ 1 ≤ c.stage2.dur.toNat ∧ 1 ≤ c.stage3.dur.toNat
      ∧ c.overhead.toNat ≤ 255 ∧ (1 ≤ c.lagLimit.toNat ∧ c.lagLimit.toNat ≤ 32))
    ∧ (100 ≤ busy.gov.brk.sealAge.toNat ∧ busy.gov.brk.sealAge.toNat ≤ 5000) ∧ ¬ 100 ≤ youngSeal.sealAge.toNat
    ∧ (withBreak emptyCeiling).Ready host ∧ (withBreak emptyCeiling).gov.ctx (withBreak emptyCeiling).gov.access = emptyCeiling
    ∧ (∀ x ∈ groupsOf emptyCeiling, x.base.toNat ≤ 1000)
    ∧ (∀ x ∈ (groupsOf emptyCeiling).take 7, 1 ≤ x.ceiling.toNat) ∧ ¬ 1 ≤ emptyCeiling.g7.ceiling.toNat :=
  ⟨by decide, by decide, by decide, (fun q r h => by cases h), by decide, by decide, by decide, by decide, by decide, by decide,
    by decide, by decide, by decide⟩
/-- A record with a deadline that SET_TIME moves. -/
def damped : State := withOne { st0 with damped := some 500000, lastRoam := some 200 } busy
theorem witness_TimePhaseAndSurgeChange :
    damped.Ready host ∧ Table.sorted damped.radios = true ∧ Table.sorted damped.egress.lists = true
    ∧ (∀ h, lingerDue h (setVenueTime 5 damped) = false ∧ detachDue h (setVenueTime 5 damped) = false
      ∧ dampingDue h (setVenueTime 5 damped) = false)
    ∧ (∀ r, (setVenueTime 5 damped).sealDue r = false ∧ wakeDue r (setVenueTime 5 damped) = false)
    ∧ stageDue (setVenueTime 5 damped) = false := by
  have hst : (setVenueTime 5 damped).stations = [(hOne, { st0 with damped := some 499005, lastRoam := some 0 })] := by decide
  have hctx : (setVenueTime 5 damped).roam.ctxs = [] := by decide
  have hl : (setVenueTime 5 damped).egress.lists = [] := by decide
  have hw : ∀ e ∈ (setVenueTime 5 damped).radios, e.2.wake = none := by decide
  have hd : lingerDue hOne (setVenueTime 5 damped) = false ∧ dampingDue hOne (setVenueTime 5 damped) = false := by decide
  have hs : stageDue (setVenueTime 5 damped) = false := by decide
  refine ⟨by decide, by decide, by decide, ?_⟩
  generalize setVenueTime 5 damped = u at *
  refine ⟨fun h => ?_, fun r => ?_, hs⟩
  · by_cases he : h = hOne
    · subst he; exact ⟨hd.1, by simp [detachDue, State.due, hctx], hd.2⟩
    · simp [lingerDue, detachDue, dampingDue, State.due, State.station, hst, hctx, Table.find, he]
  · refine ⟨by simp [State.sealDue, State.lists, hl, Table.get, State.list, RadioLists.of, Cls.all], ?_⟩
    have : (u.radio r).wake = none := by
      have key : ∀ t : Table Radio, (∀ e ∈ t, e.2.wake = none) → (Table.get {} t r).wake = none := by
        intro t
        induction t with
        | nil => intro _; rfl
        | cons e t ih =>
          intro h
          simp only [Table.get, Table.find]
          split
          · exact h e (by simp)
          · exact ih (fun e he => h e (by simp [he]))
      exact key _ hw
    simp [wakeDue, State.due, this]
theorem witness_RadioConfigFollowsState :
    busy.Ready host ∧ configOf 5 63 7 3 0 = some (⟨.gateBoth, 63, 7, 3⟩, false) ∧ (busy.radio 1).state = .absent
    ∧ (busy.radio 8).state = .disabled := by decide
/-- Stations, bursts and a delivery at other radios than 5, which sends one burst; marks name radios 5 and 6. -/
def elsewhere : State := { busy with
  stations := [(0, { addr := two, state := .handoff, current := some 6, target := some 7 }), (hOne, { st0 with current := some 6 })]
  roam := { ctxs := [(0, ⟨6, 7, 0, 900, true⟩)], marks := [(0, 6), (hOne, 5)] }
  egress := {
    lists := [(5, { visitor := [{ burstOne with state := .transmitting 1, sealAt := none }] }), (6, { visitor := [burstOne] })]
    buffers := 2, bursts := 2 }
  replay := { deliveries := [(0, ⟨6, 2, 8, 9, 0, 3, 0, .reading, [hOne]⟩)], nextId := 1 } }
theorem witness_RadioStateAndResetFollowTable :
    busy.Ready host ∧ (busy.radio 8).state = .disabled ∧ busy.portBusy 8 = true ∧ (busy.radio 5).state = .inService
    ∧ (busy.radio 9).state = .quarantined ∧ busy.portBusy 9 = true ∧ (busy.radio 1).state = .absent
    ∧ elsewhere.Ready host ∧ (elsewhere.radio 5).state = .inService ∧ (elsewhere.radio 5).cfg = some (cfgOf .seat 3 1)
    ∧ (∀ e ∈ elsewhere.stations, e.2.current ≠ some 5 ∧ e.2.target ≠ some 5) ∧ elsewhere.stations.length = 2
    ∧ elsewhere.roam.ctxs ≠ [] ∧ elsewhere.roam.marks ≠ []
    ∧ (∀ c ∈ Cls.all, ∀ b ∈ elsewhere.list 5 c, b.isTransmitting = true) ∧ elsewhere.list 5 .visitor ≠ []
    ∧ elsewhere.list 6 .visitor ≠ [] ∧ (∀ e ∈ elsewhere.replay.deliveries, e.2.radio ≠ 5) ∧ elsewhere.replay.deliveries ≠ [] := by
  decide
-- R21, R42: the mark that names radio 5 is cleared, the one that names radio 6 stays, and so do the records of other radios
theorem test_radioReset_elsewhere : look (exec (.radioReset host 7 5) elsewhere)
    (fun t => (t.roam.marks, t.roam.ctxs.length, t.stations.length, (t.list 5 .visitor).length, t.replay.deliveries.length))
    = some ([(0, 6)], 1, 2, 1, 1) := by decide
/-- 512 pinned records, at the handles of buckets 0 to 127. -/
def allPinned : State := { busy with
  stations := (List.range 512).map (fun h => (h, { addr := BitVec.ofNat 48 (2 + 4 * h), state := .unattached, pinned := true })) }
theorem witness_PinnedRecordsAreKept :
    atFive.Ready host ∧ atFive.lookup one = some hOne ∧ atFive.station hOne = some st0 ∧ st0.pinned = false
    ∧ atFive.pinnedCount < 512 ∧ busy.lookup one = none ∧ busy.pinnedCount < 512 ∧ busy.freeHandle one = some hOne
    ∧ (withOne { st0 with pinned := true } busy).lookup one = some hOne
    ∧ (withOne { addr := one, state := .unattached, pinned := true } busy).station hOne
      = some { addr := one, state := .unattached, pinned := true }
    ∧ Table.sorted atFive.stations = true ∧ Table.sorted atFive.radios = true ∧ Table.sorted atFive.roam.marks = true
    ∧ atFive.egress.lists = [] ∧ (∀ e ∈ atFive.stations, e.2.state ≠ .handoff ∧ e.2.sub = none) := by decide
/-- A bucket full of other stations. -/
def fullBucket : State := { busy with
  stations := (List.range 4).map (fun w => (hOne + w, { addr := BitVec.ofNat 48 w, state := .unattached })) }
/-- An unpinned record beside 512 pinned ones. -/
def oneMore : State := { allPinned with stations := allPinned.stations ++ [(hOne, st0)] }
set_option maxRecDepth 4000 in
theorem witness_pinned_full :
    allPinned.Ready host ∧ allPinned.lookup one = none ∧ 512 ≤ allPinned.pinnedCount
    ∧ oneMore.Ready host ∧ oneMore.lookup one = some hOne ∧ oneMore.station hOne = some st0 ∧ 512 ≤ oneMore.pinnedCount
    ∧ fullBucket.Ready host ∧ fullBucket.lookup one = none ∧ fullBucket.pinnedCount < 512 ∧ fullBucket.freeHandle one = none := by
  decide
def erasable : State := { busy with adm := { map := [(65535, { state := .issued, home := 3 })] } }
/-- The entry of position 28 is ADMITTED with this bound handle: `one` bears its binding, the record at handle 0 that of another. -/
def insideOf (h : Option Nat) : State := { bound with
  stations := [(0, { addr := two, state := .unattached, binding := some { bindAll with way := 1 } }),
    (hOne, { st0 with binding := some bindAll, standing := .inZone, cls := .fan })]
  adm := { map := [(28, { state := .admitted, home := 3, bound := h })], occupancy := [(3, 2)] } }
theorem witness_CredentialDirectivesTakeTheirBucket :
    busy.Ready host ∧ busy.AdmissionIdle ∧ busy.adm.sweep.state ≠ .running
    ∧ (List.replicate 15 (⟨7, 1, 0, 7, 0, 0⟩ : LoadRec)).length ≤ 15 ∧ (⟨7, 1, 0, 7, 0, 0⟩ : LoadRec).valid = true
    ∧ ((16383 : Half).toNat < 16384) ∧ ((3 : Byte).toNat < 4)
    ∧ erasable.Ready host ∧ erasable.AdmissionIdle ∧ erasable.adm.frozen = false ∧ (erasable.entry 65535).state ≠ .admitted
    ∧ (frozen.setEntry 28 { state := .void, faulty := true }).AdmissionIdle
    ∧ ((frozen.setEntry 28 { state := .void, faulty := true }).entry 28).faulty = true
    ∧ (7 : Half).toNat = bindAll.bucket ∧ (0 : Byte).toNat = bindAll.way := by decide
theorem witness_eraseAdmitted :
    (∀ h ∈ [none, some hOne, some 0], let s := insideOf h; s.Ready host ∧ s.AdmissionIdle ∧ s.adm.frozen = false
      ∧ Table.sorted s.adm.map = true ∧ (s.entry 28).state = .admitted ∧ (s.entry 28).bound = h ∧ s.occupancy 3 = 2
      ∧ s.station 0 = some { addr := two, state := .unattached, binding := some { bindAll with way := 1 } }
      ∧ s.station hOne = some { st0 with binding := some bindAll, standing := .inZone, cls := .fan }) ∧ st0.sub = none
    ∧ (1 : Nat) ≠ bindAll.way := by decide
-- R97, R88, R120: the occupancy falls, and the record that names the position loses its binding, its standing and its class
theorem test_credEraseWay_admitted : look (exec (.credEraseWay host 7 7 0) (insideOf (some hOne)))
    (fun t => ((t.entry 28).state, t.occupancy 3, t.adm.ctrs.unbinds,
      (t.station hOne).map (fun st => (st.binding.isSome, decide (st.standing = .unbound ∧ st.cls = .visitor)))))
    = some (.free, 1, 1, some (false, true)) := by decide
theorem witness_SweepAndClearDirectives :
    busy.Ready host ∧ busy.adm.items = [] ∧ busy.adm.op = none ∧ busy.mem.all.all (fun t => decide (t.req.kind ≠ .stride)) = true
    ∧ busy.adm.sweep.state = .idle ∧ selectorOf 1 63 = some (.zone 63) ∧ selectorOf 3 0 = some .all
    ∧ (swept .suspended none).Ready host ∧ (swept .suspended none).adm.sweep.state = .suspended
    ∧ (swept .running (some .claimed)).Ready host ∧ (swept .running (some .claimed)).adm.sweep.stride = some .claimed
    ∧ (swept .running (some .reading)).Ready host ∧ (swept .running (some .reading)).adm.sweep.stride = some .reading := by decide
/-- Two entries used, one of them bound to `one`. -/
def redeemed : State := { bound with
  adm := { map := [(28, { state := .admitted, used := 1, home := 3, bound := some hOne }), (65535, { state := .exited, used := 1 })],
           occupancy := [(3, 1)] } }
theorem witness_clearRedemptions :
    redeemed.Ready host ∧ redeemed.adm.sweep.state = .idle ∧ redeemed.adm.frozen = false
    ∧ (∀ e ∈ redeemed.stations, e.2.sub = none) ∧ Table.sorted redeemed.adm.map = true ∧ Table.sorted redeemed.stations = true := by
  decide
/-- Reel 2 holds a READY slot. -/
def readyReel : State := withReel { reelTwo with newest := some 9, oldest := some 9, lastOpened := some 9, writePos := 9 }
  [(8, { state := .ready, reel := some 2, seq := some 9, length := some 3, readyTime := some 0 })] busy
theorem witness_ReelsAreConfiguredAndReset :
    busy.Ready host ∧ busy.replay.deliveries = [] ∧ busy.subscribersOf 15 = [] ∧ Table.wf ({} : Slot) busy.replay.slots = true
    ∧ (busy.reel 15).cfg = none ∧ busy.rangeTaken 15 3072 1024 = false ∧ busy.rangeTaken 15 4088 8 = false
    ∧ readyReel.Ready host ∧ readyReel.replay.deliveries = [] ∧ readyReel.subscribersOf 2 = []
    ∧ Table.wf ({} : Slot) readyReel.replay.slots = true ∧ (readyReel.reel 2).cfg.isSome = true
    ∧ Table.sorted readyReel.replay.reels = true ∧ (readyReel.reel 2).cfg.map (fun c => (c.first, c.count)) = some (8, 8)
    ∧ ((List.range 8).map (8 + ·)).all (fun n => decide ((readyReel.slot n).state = .free ∨ (readyReel.slot n).state = .ready)) = true
    ∧ readyReel.rangeTaken 2 12 8 = false ∧ readyReel.rangeTaken 2 3072 1024 = false := by decide
set_option maxRecDepth 4000 in
-- R139: slot 8 leaves the reel one generation on; the new range shares slots 12 to 15 with the old one
theorem test_reelConfig_moves : look (exec (.reelConfig host 7 2 12 8 0) readyReel)
    (fun t => (t.reel 2).cfg.map (fun c => (c.first, c.newest)) |>.map (fun x => (x, (t.slot 8).state, (t.slot 8).generation,
      [8, 11, 12, 19, 20].map (fun n => (t.slot n).reel))))
    = some (some ((12, none), .free, 1, [none, none, some 2, some 2, none])) := by decide
/-- The context BREAK is not VALID; surge is ON by the line and the flag. -/
def invalidBreak : State := { busy with gov := { brk := { valid := false } } }
def surged : State := { busy with surgeLine := true, gov := { surge := .on, surgeFlag := true } }
theorem witness_phaseAndSurge :
    queued.Ready host ∧ (3 : Byte).toNat ≠ 1 ∧ (3 : Byte).toNat ≠ 2 ∧ (1 : Byte).toNat = Phase.play.code ∧ Phase.play = queued.gov.active
    ∧ (2 : Byte).toNat = Phase.brk.code ∧ Phase.brk ≠ queued.gov.active ∧ (queued.gov.ctx .brk).valid = true ∧ queued.allBusy = true
    ∧ Table.sorted queued.radios = true ∧ Table.sorted queued.egress.lists = true ∧ queued.radios ≠ [] ∧ queued.egress.lists ≠ []
    ∧ invalidBreak.Ready host ∧ (invalidBreak.gov.ctx .brk).valid = false
    ∧ busy.Between ∧ busy.allBusy = true ∧ busy.gov.surge ≠ .on ∧ busy.surgeLine = false ∧ busy.gov.surgeFlag = false ∧ busy.RunsAtOnce host
    ∧ surged.Between ∧ surged.gov.surge = .on ∧ surged.gov.surgeFlag = true ∧ surged.surgeLine = true ∧ surged.RunsAtOnce host := by decide
theorem witness_ErrorDirectivesSetErrorUnit :
    busy.Ready host ∧ Table.wf ({} : ErrState) busy.err.classes = true ∧ 2 ^ 14 ≤ (16384 : Half).toNat
    ∧ (16383 : Half).toNat < 2 ^ 14
    ∧ (errAt ⟨true, 4, false, true⟩ (some firstOne)).Ready host
    ∧ Table.wf ({} : ErrState) (errAt ⟨true, 4, false, true⟩ (some firstOne)).err.classes = true
    ∧ (14 : Byte).toNat = ErrClass.mgmtQueueFull.code ∧ ErrClass.mgmtQueueFull.quarantinable = false
    ∧ (1 : Byte).toNat = ErrClass.carrierMalformed.code ∧ ErrClass.carrierMalformed.quarantinable = true
    ∧ 1 ≤ (255 : Half).toNat ∧ (255 : Half).toNat ≤ 255 := by decide
/-- Notice entry 15 holds a notice. -/
def noticed : State := { busy with err := {
  entries := [(15, { dest := host, enable := true, mask := true, held := some ⟨2, .error, [1]⟩ })], mapping := [(2, 3)] } }
theorem witness_NoticeConfigReplacesEntry :
    noticed.Ready host ∧ (15 : Byte).toNat ≤ 15 ∧ host ≠ BitVec.allOnes 48 ∧ noStation host = false ∧ noStation 0 = true
    ∧ (0 : Addr) ≠ BitVec.allOnes 48 ∧ (noticed.noticeEntry 15).held.isSome = true ∧ (noticed.noticeEntry 14).held = none
    ∧ Table.sorted noticed.err.entries = true ∧ Table.sorted noticed.err.mapping = true ∧ noticed.err.mapping ≠ []
    ∧ (noticed.noticeEntry 15).enable = true ∧ noStation (noticed.noticeEntry 15).dest = false
    ∧ ((noticed.noticeEntry 14).enable = false ∧ noStation (noticed.noticeEntry 14).dest = true) := by decide
-- R183, R190: all ones keep destination, enable and mask; kinds 1 and 7 are mapped to the entry, kind 2 stays with entry 15
theorem test_noticeConfig_keep : look (exec (.noticeConfig host 7 15 (BitVec.allOnes 48) 0xFF 0xFF 0x41) noticed)
    (fun t => ((t.noticeEntry 15).dest, (t.noticeEntry 15).enable, (t.noticeEntry 15).mask, (t.noticeEntry 15).held.isSome,
      NoticeKind.all.map t.noticeEntryOf))
    = some (host, true, true, true, [15, 3, 2, 3, 4, 5, 15, 7]) := by decide
/-- A pinned station, a running sweep, a FILLING slot, frames in the FIFOs, and requests at the controller. -/
def restarting : State := { withOne { st0 with pinned := true, cls := .admission } filling with
  adm := { sweep := { state := .running, selector := some .all, stride := some .reading } }
  mem := { strideQ := [strideT], transfer := some ingestT }
  uplink := { rx := [⟨one, host, 0x800, [1]⟩] } }
theorem witness_zoneRestart :
    restarting.Ready host ∧ restarting.adm.items = [] ∧ restarting.adm.op = none ∧ Table.sorted restarting.ports = true
    ∧ Table.sorted restarting.radios = true ∧ Table.sorted restarting.replay.slots = true ∧ Table.sorted restarting.replay.reels = true
    ∧ (∀ k d, restarting.gov.surge ≠ .ramping k d) :=
  ⟨by decide, by decide, by decide, by decide, by decide, by decide, by decide, (fun k d h => by cases h)⟩

def away (n : Nat) : State := withOne { addr := one, state := .unattached, hold := List.replicate n frameOne } busy
/-- The hold pool is full: 32 records at handles 0 to 31 hold 64 frames each. -/
def holdFull : State := { busy with
  stations := (List.range 32).map (fun h => (h, { addr := BitVec.ofNat 48 (2 + 4 * h), state := .unattached, hold := List.replicate 64 frameOne }))
    ++ [(hOne, { addr := one, state := .unattached })] }
def roomless : State := { atFive with egress := { buffers := 3840 } }
theorem witness_DownstreamFramesAreSorted :
    atFive.Between ∧ one ≠ atFive.ingestAddr ∧ one ≠ atFive.mgmt.address ∧ 1500 < (List.replicate 1501 (0 : Byte)).length
    ∧ (List.replicate 1500 (0 : Byte)).length ≤ 1500 ∧ isGroup (BitVec.allOnes 48) = true ∧ isGroup 0x010000000000 = true
    ∧ isGroup two = false ∧ atFive.lookup two = none ∧ isGroup one = false ∧ atFive.lookup one = some hOne
    ∧ (away 63).Between ∧ (away 63).lookup one = some hOne ∧ (away 63).holdUsed < 2048
    ∧ (away 64).Between ∧ (away 64).station hOne = some { addr := one, state := .unattached, hold := List.replicate 64 frameOne }
    ∧ st0.hold = [] ∧ atFive.inService 5 = true ∧ st0.cls ≠ .admission
    ∧ { atFive with egress := { buffers := 3839, bursts := 959 } }.list 5 .visitor = []
    ∧ roomless.Between ∧ roomless.lookup one = some hOne ∧ roomless.station hOne = some st0 ∧ roomless.inService 5 = true := by
  decide +kernel
/-- Radio 5, its port sending, has the burst `b` at the tail of its VISITOR and ADMISSION lists; `one` is of class `c`. -/
def tailed (c : Cls) (b : Burst) (buffers bursts : Nat) : State :=
  { withOne { st0 with cls := c } busy with
    egress := { lists := [(5, { visitor := [b], admission := [b] })], buffers := buffers, bursts := bursts } }
def sevenOf (n : Nat) : Burst := { burstOne with frames := List.replicate 7 { frameOne with payload := List.replicate n 0 } }
def shut : Burst := { burstOne with state := .closed, sealAt := none }
set_option maxRecDepth 4000 in
theorem witness_downstream_tails :
    (∀ c ∈ [Cls.visitor, .admission], let s := tailed c (sevenOf 2) 3839 960
      s.Between ∧ s.lookup one = some hOne ∧ s.station hOne = some { st0 with cls := c } ∧ s.inService 5 = true
      ∧ s.portBusy 5 = true ∧ s.egress.buffers < 3840 ∧ s.list 5 c = [] ++ [sevenOf 2])
    ∧ (sevenOf 2).state = .opened ∧ (sevenOf 2).frames.length < 8
    ∧ ((sevenOf 1500).frames.map (fun f => f.payload.length)).sum + 1500 = 12000
    ∧ (∀ c ∈ [Cls.visitor, .admission], let s := tailed c shut 3839 959
      s.Between ∧ s.portBusy 5 = true ∧ s.egress.bursts < 960 ∧ s.list 5 c = [] ++ [shut]) ∧ shut.state ≠ .opened
    ∧ (tailed .visitor shut 1 960).Between ∧ ¬ (tailed .visitor shut 1 960).egress.bursts < 960
    ∧ (tailed .admission shut 4095 1023).egress.buffers < 4096 ∧ (tailed .admission shut 4095 1023).egress.bursts < 1024
    ∧ ¬ (tailed .admission shut 4096 1023).egress.buffers < 4096 ∧ ¬ (tailed .admission shut 1 1024).egress.bursts < 1024 := by
  decide +kernel
-- R48, R49: the eighth frame closes the open tail and takes no burst record
theorem test_downstream_joins : look (exec (.downstreamDataFrame one host 0x800 [1, 2]) (tailed .visitor (sevenOf 2) 7 1))
    (fun t => ((t.list 5 .visitor).map (fun b => (b.state, b.frames.length, b.sealAt)), t.egress.buffers, t.egress.bursts))
    = some ([(.closed, 8, none)], 8, 1) := by decide
-- R44, R49: a frame of class ADMISSION may use the whole pool, and its burst has no seal deadline
theorem test_downstream_admission : look (exec (.downstreamDataFrame one host 0x800 [1, 2]) (tailed .admission shut 4095 1023))
    (fun t => ((t.list 5 .admission).map (fun b => (b.state, b.frames.length, b.sealAt)), t.egress.buffers, t.egress.bursts))
    = some ([(.closed, 1, none), (.opened, 1, none)], 4096, 1024) := by decide
set_option maxRecDepth 4000 in
theorem witness_hold_pool_full : holdFull.Between ∧ holdFull.lookup one = some hOne ∧ 2048 ≤ holdFull.holdUsed
    ∧ holdFull.station hOne = some { addr := one, state := .unattached } := by decide
theorem witness_UplinkFramesAreTurnedAway :
    busy.Between ∧ (0x9A43 : Half) ≠ typeManagement ∧ (List.replicate 6 (0 : Byte)).length < 7 ∧ parseReel 0x9A44 [3] = none
    ∧ (15 < (16 : Byte).toNat) ∧ (262144 < (262145 : Word32).toNat) ∧ (0 : Word32).toNat = 0 ∧ (busy.reel 15).cfg = none
    ∧ 1 ≤ (262144 : Word32).toNat ∧ (262144 : Word32).toNat ≤ 262144 := by decide
theorem witness_SegmentOpenTakesSlot :
    filling.Between ∧ ((filling.reel 2).cfg.map ReelCfg.lastOpened) = some (some 9) ∧ (9 : Word32).toNat ≤ 9
    ∧ readyReel.Between ∧ (readyReel.reel 2).cfg.map (fun c => (c.filling, c.writePos, c.lastOpened)) = some (none, 9, some 9)
    ∧ (readyReel.slot 9).state = .free ∧ (10 : Word32).toNat = 9 + 1 ∧ 9 + 1 < (11 : Word32).toNat
    ∧ (withReel reelTwo [] busy).Between ∧ ((withReel reelTwo [] busy).reel 2).cfg = some reelTwo
    ∧ reelTwo.lastOpened = none ∧ reelTwo.filling = none ∧ ((withReel reelTwo [] busy).slot 8).state = .free
    ∧ 1 ≤ (262144 : Word32).toNat ∧ (262144 : Word32).toNat ≤ 262144 := by decide
def filled (received outstanding : Nat) : State := withReel { reelTwo with filling := some 8, writePos := 9, lastOpened := some 9 }
  [(8, { state := .filling, reel := some 2, seq := some 9, length := some 3, received := some received, outstanding := outstanding })]
  busy
def overrun : State := { filled 0 0 with replay := { (filled 0 0).replay with outstanding := 128 } }
theorem witness_SegmentDataFillsSlot :
    (filled 0 0).Between ∧ ((filled 0 0).reel 2).cfg.map ReelCfg.filling = some (some 8) ∧ ((filled 0 0).slot 8).seq = some (9 : Word32).toNat
    ∧ ((filled 0 0).slot 8).seq ≠ some (8 : Word32).toNat ∧ ((filled 0 0).slot 8).received = some 0 ∧ ((filled 0 0).slot 8).length = some 3
    ∧ (0 : Word32).toNat = 0 ∧ 0 + [(1 : Byte), 2, 3].length ≤ 3 ∧ 3 < 0 + [(1 : Byte), 2, 3, 4].length ∧ (1 : Word32).toNat ≠ 0
    ∧ (filled 0 0).replay.outstanding < 128 ∧ overrun.Between ∧ 128 ≤ overrun.replay.outstanding
    ∧ ((withReel reelTwo [] busy).reel 2).cfg = some reelTwo ∧ reelTwo.filling = none
    ∧ (filled 3 1).Between ∧ 0 < ((filled 3 1).slot 8).outstanding ∧ ((filled 3 1).slot 8).received = some 3
    ∧ (filled 3 0).Between ∧ ((filled 3 0).slot 8).outstanding = 0 ∧ (filled 3 0).stations = []
    ∧ ((filled 2 0).slot 8).received = some 2 := by decide

def noted : State := { busy with radios := [(8, { radioOf .seat 0 0 with state := .disabled, noted := true })] }
theorem witness_CarrierFramesAreTurnedAway :
    (Instr.join 0 5 one).carrier = some (0, ⟨5, one, .join⟩) ∧ (Instr.join 0 5 one).wf = true ∧ busy.Between
    ∧ (busy.radio 5).state ≠ .absent ∧ (busy.radio 5).cfg.map RadioCfg.port ≠ some 0
    ∧ (Instr.halt 3 255 one).carrier = some (3, ⟨255, one, .halt⟩) ∧ (busy.radio 255).state = .absent ∧ (busy.radio 255).noted = false
    ∧ (busy.radio 9).cfg.map RadioCfg.port = some 1 ∧ (busy.radio 9).state = .quarantined
    ∧ noted.Between ∧ (noted.radio 8).cfg.map RadioCfg.port = some 0 ∧ (noted.radio 8).state = .disabled ∧ (noted.radio 8).noted = true := by
  decide
/-- GATE_ROLE, CARRIER_MALFORMED and SERVICE_UNEXPECTED charge strikes; radio 5 has `n`. -/
def striking (n : Nat) : State := { busy with
  radios := [(5, { radioOf .seat 3 1 with strikes := n })]
  err := { classes := [(1, ⟨false, 0, false, true⟩), (6, ⟨false, 0, false, true⟩)] } }
theorem witness_FaultyFramesChargeStrikes :
    busy.Between ∧ parseCarrier [] = none ∧ parseCarrier [255] = none ∧ (busy.radio 255).state = .absent
    ∧ (striking 6).Between ∧ parseCarrier [5, 0] = none ∧ ((striking 6).radio 5).state ≠ .absent
    ∧ (striking 6).charges .carrierMalformed 5 = true ∧ (striking 6).noQuarantine .carrierMalformed 5 = true
    ∧ toRadioWf 0x10 [] = true ∧ (striking 6).Passes 1 5 ∧ (striking 6).noQuarantine .serviceUnexpected 5 = true := by decide
theorem witness_UpstreamDataAndStatusAreTaken :
    atFive.Between ∧ atFive.Passes 1 5 ∧ (atFive.lookup one).isSome = true ∧ (atFive.lookup two).isSome = false
    ∧ (List.replicate 1500 (0 : Byte)).length ≤ 1500 ∧ (atFive.radio 5).rate = (0 : Byte).toNat
    ∧ (15 : Byte).toNat ≤ 15 ∧ (atFive.radio 5).rate ≠ (15 : Byte).toNat ∧ atFive.portBusy 5 = true ∧ 15 < (16 : Byte).toNat
    ∧ (striking 6).noQuarantine .carrierMalformed 5 = true ∧ (striking 6).Passes 1 5 := by decide +kernel
/-- All four ways of the bucket of `one` hold other stations. -/
def crowded : State := fullBucket
def atSix : State := withOne { st0 with current := some 6 } busy
theorem witness_JoinAndPartMoveStations :
    busy.Between ∧ busy.Passes 1 5 ∧ noStation one = false ∧ busy.lookup one = none ∧ busy.freeHandle one = some hOne
    ∧ crowded.Between ∧ crowded.Passes 1 5 ∧ crowded.lookup one = none ∧ crowded.freeHandle one = none
    ∧ noStation 0 = true ∧ busy.noQuarantine .carrierMalformed 5 = true
    ∧ atFive.Between ∧ atFive.Passes 1 5 ∧ atFive.lookup one = some hOne ∧ atFive.station hOne = some st0 ∧ atFive.noneQueued hOne 5 = true
    ∧ (away 0).lookup one = some hOne ∧ (away 0).noQuarantine .serviceUnexpected 5 = true
    ∧ atSix.Between ∧ atSix.Passes 1 5 ∧ atSix.station hOne = some { st0 with current := some 6 }
    ∧ atSix.noQuarantine .serviceUnexpected 5 = true := by decide
/-- `one` is damped; `one` bears a release mark; `one` came from radio 6 less than a second ago. -/
def dampedOne : State := withOne { st0 with damped := some 5000 } busy
def markedOne : State := { atFive with roam := { marks := [(hOne, 6)] } }
def returning (n : Nat) : State := withOne { st0 with previous := some 6, lastRoam := some 900, pingPong := n } busy
theorem witness_JoinsRoamAndReturn :
    atFive.Between ∧ atFive.Passes 2 6 ∧ noStation one = false ∧ atFive.lookup one = some hOne ∧ atFive.station hOne = some st0
    ∧ st0.hold = [] ∧ st0.sub = none ∧ st0.state = .attached ∧ (5 : Nat) ≠ (6 : Byte).toNat ∧ st0.damped = none
    ∧ atFive.noneQueued hOne 5 = true ∧ atFive.portBusy 5 = true
    ∧ dampedOne.Between ∧ dampedOne.Passes 2 6 ∧ dampedOne.lookup one = some hOne ∧ dampedOne.portBusy 6 = true
    ∧ (away 0).Between ∧ (away 0).Passes 2 6 ∧ (away 0).lookup one = some hOne
    ∧ (away 0).station hOne = some { addr := one, state := .unattached } := by decide
theorem witness_roamMarks :
    moving.Between ∧ moving.Passes 2 6 ∧ moving.Passes 3 7 ∧ moving.Passes 1 5 ∧ moving.lookup one = some hOne
    ∧ moving.station hOne = some { st0 with state := .handoff, target := some 6 } ∧ moving.roam.ctxs.find hOne = some ⟨5, 6, 0, 900, true⟩
    ∧ moving.portBusy 5 = true ∧ moving.noQuarantine .serviceUnexpected 6 = true ∧ moving.noQuarantine .serviceUnexpected 7 = true
    ∧ markedOne.Between ∧ markedOne.Passes 2 6 ∧ markedOne.roam.marks.find hOne = some 6
    ∧ atFive.roam.marks.find hOne ≠ some 6 ∧ atFive.noQuarantine .lateRelease 6 = true
    ∧ elapsed 1000 900 ≤ (returning 1).roam.settings.windowS * 1000000 ∧ 1 + 1 < (returning 1).roam.settings.threshold
    ∧ (returning 2).roam.settings.threshold ≤ 2 + 1 ∧ st0.previous ≠ some 6 := by decide
/-- The station that moves has a frame held, with this many buffers in use. -/
def movingHeld (buffers : Nat) : State :=
  { moving with
    stations := [(hOne, { st0 with state := .handoff, target := some 6, hold := [frameOne] })]
    egress := { buffers := buffers } }
/-- A burst is being sent on port 1 while `one` and another station wait to drain, with this many buffers in use. -/
def draining (buffers : Nat) : State := { busy with
  ports := [(1, { sending := some (5, .visitor) }), (2, busyPort)]
  roam := { drain := [hOne, 0] }
  stations := [(0, { addr := two, state := .attached, current := some 6, hold := [frameOne, frameOne] }),
    (hOne, { st0 with egress := 1, hold := [frameOne] })]
  egress := { lists := [(5, { visitor := [{ burstOne with state := .transmitting 1, sealAt := none }] })], buffers := buffers, bursts := 1 } }
theorem witness_HandoffsComplete :
    moving.Between ∧ moving.lookup one = some (2052 : Fin 8192).val
    ∧ moving.station hOne = some { st0 with state := .handoff, target := some 6 }
    ∧ moving.roam.ctxs.find hOne = some ⟨5, 6, 0, 900, true⟩ ∧ moving.Passes 1 (5 : Byte).toNat
    ∧ reached moving.venueTime 900 = true ∧ reached moving.venueTime 1000 = true
    ∧ moving.noQuarantine .handoffTimeout 5 = true
    ∧ (movingHeld 3839).Between ∧ (movingHeld 3839).lookup one = some hOne ∧ (movingHeld 3839).inService 6 = true
    ∧ (movingHeld 3839).portBusy 6 = true
    ∧ ((movingHeld 3839).station hOne).map Station.hold = some [frameOne]
    ∧ (offer .declinable 6 .visitor frameOne (movingHeld 3839)).1 = .accepted
    ∧ (offer .declinable 6 .visitor frameOne (movingHeld 3840)).1 = .declined
    ∧ (draining 3840).Between ∧ ((draining 3840).port 1).sending = some (5, .visitor)
    ∧ (draining 3840).list 5 .visitor = [{ burstOne with state := .transmitting 1, sealAt := none }]
    ∧ (draining 3840).replay.stalled = []
    ∧ (draining 3840).roam.drain.all (fun h => (draining 3840).portBusy ((((draining 3840).station h).bind Station.current).getD 0)) = true := by
  decide
-- R28, R29: one buffer is free after the burst; the first station takes it and leaves the list, the second keeps its place
theorem test_drain_served : look (exec (.transmitCompletion 1) (draining 3840))
    (fun t => (t.roam.drain, (t.station hOne).map Station.hold, (t.station 0).map (fun st => st.hold.length)))
    = some ([0], some [], some 2) := by decide
-- R28: a declined frame stays held and the station joins the drain list
theorem test_drain_stops : look (exec (.release 1 5 one 4) (movingHeld 3840))
    (fun t => (t.roam.drain, (t.station hOne).map Station.hold)) = some ([hOne], some [frameOne]) := by decide
-- R141, R190: the slot descriptor is present or 29 zeros
theorem test_reelStatus_slot : (reelStatusBody filling 2 none).length = (reelStatusBody filling 2 (some 8)).length
    ∧ ((reelStatusBody filling 2 (some 8)).drop ((reelStatusBody filling 2 none).length - 30)).take 2 = [1, 2]
    ∧ (reelStatusBody filling 2 none).drop ((reelStatusBody filling 2 none).length - 30) = List.replicate 30 0 := by decide +kernel
-- R178, R190: the frame of the first-error record follows a presence byte; absent it is zeros
theorem test_firstError_frame :
    (firstErrorBytes { busy with err := { first := some ⟨{ cls := .gateRole, frame := some [7, 8] }, 0⟩ } }).drop 19 = [1, 2, 7, 8]
    ∧ (firstErrorBytes { busy with err := { first := some ⟨{ cls := .gateRole }, 0⟩ } }).drop 19 = [0, 0] := by decide
-- R182, R190: the held notice follows a presence byte; absent it is zeros
theorem test_held_notice :
    (NoticeEntry.bytes { held := some ⟨2, .phaseRefused, [1]⟩ }).drop 9 = [0, 0, 0, 2, 1, 5, 1, 1]
    ∧ (NoticeEntry.bytes {}).drop 9 = [0, 0, 0, 0, 0, 0, 0] := by decide
theorem witness_ScansAndCheckinsFetchTheirBucket :
    busy.Between ∧ busy.Passes 3 7 ∧ (busy.radio 7).cfg = some (cfgOf .gateBoth 3 3) ∧ busy.AdmissionIdle
    ∧ directionOf 1 = some .entry ∧ directionOf 2 = some .exit ∧ Role.gateBoth.allows .entry = true ∧ Role.gateBoth.allows .exit = true
    ∧ busy.adm.closed = false ∧ (1 : Word64) ≠ 0
    ∧ atFive.Between ∧ atFive.Passes 1 5 ∧ (atFive.radio 5).cfg = some (cfgOf .seat 3 1) ∧ atFive.AdmissionIdle
    ∧ atFive.lookup one = some hOne ∧ st0.current = some 5 := by decide
def cueing : State := withReel reelTwo [] bound
def cueOne : State := { bound with replay := readyReel.replay }
def withSub (b : Sub) (s : State) : State := s.modStation hOne (fun st => { st with sub := some b })
def idleSub : Sub := ⟨4, .follow, none, none, some .idle⟩
/-- `one` rides delivery 4 alone, the only subscriber of radio 5. -/
def riding : State :=
  { (withSub ⟨2, .one, some 9, none, some (.riding 4)⟩ cueOne).modRadio 5 (fun x => { x with subscribers := 1 }) with
    replay := { readyReel.replay with deliveries := [(4, ⟨5, 2, 8, 9, 0, 3, 0, .reading, [hOne]⟩)], nextId := 5 } }
theorem witness_CuesAreDecided :
    atFive.Between ∧ atFive.Passes 1 5 ∧ atFive.portBusy 5 = true ∧ (15 : Byte).toNat ≤ 15 ∧ (1023 : Half).toNat ≤ 1023
    ∧ atFive.lookup one = some hOne ∧ st0.entitled = false ∧ bound.Between ∧ (bound.reel 15).cfg = none
    ∧ cueing.Between ∧ (cueing.reel 2).cfg = some reelTwo ∧ reelTwo.newest = none
    ∧ (cueing.station hOne).map (fun st => (st.state, st.entitled, st.sub)) = some (.attached, true, none)
    ∧ cueOne.Between ∧ (cueOne.reel 2).cfg.map ReelCfg.newest = some (some 9) ∧ cueOne.readySegs 2 = [(9, 8)]
    ∧ cueOne.replay.deliveries = [] ∧ cueOne.waitList 5 = [] := by decide
theorem witness_cueStarts :
    (3 : Byte).toNat ≤ 3 ∧ (cueOne.station hOne).map (fun st => (st.entitled, st.sub)) = some (true, none)
    ∧ (cueOne.reel 2).cfg.map (fun c => (c.oldest, c.count)) = some (some 9, 8) ∧ cueOne.readySlot 2 9 = some 8
    ∧ [6, 12, 24, 48][(3 : Byte).toNat]? = some 48 ∧ 9 - (1023 : Half).toNat ≤ 9
    ∧ (withSub idleSub cueing).Between ∧ ((withSub idleSub cueing).station hOne).map Station.sub = some (some idleSub)
    ∧ idleSub.rider = some .idle
    ∧ (withSub idleSub cueOne).Between ∧ ((withSub idleSub cueOne).station hOne).map Station.sub = some (some idleSub)
    ∧ riding.Between ∧ (riding.station hOne).map (fun st => st.sub.map Sub.rider) = some (some (some (.riding 4)))
    ∧ riding.replay.deliveries = [(4, ⟨5, 2, 8, 9, 0, 3, 0, .reading, [hOne]⟩)] ∧ riding.replay.waiting = []
    ∧ riding.readySlot 2 9 = some 8 ∧ riding.waitList 5 = [] := by decide
-- R144, R145, R147: mode LOOP, the window of 48 cut to the reel's 8 slots; the delivery it rode is abandoned and another made
theorem test_cue_replaces : look (exec (.cue 1 5 one 2 3 3 1) riding)
    (fun t => ((t.station hOne).map Station.sub, t.replay.deliveries.map (fun e => (e.1, e.2.seq, e.2.riders))))
    = some (some (some ⟨2, .loop, some 9, some (9, 8), some (.riding 5)⟩), [(5, 9, [hOne])]) := by decide
theorem test_cue_replaced_counts : look (exec (.cue 1 5 one 2 3 3 1) riding)
    (fun t => ((t.radio 5).rep.abandoned, (t.radio 5).subscribers, t.replay.ctrs.cueReplaced, t.replay.ctrs.removed))
    = some (1, 1, 1, 1) := by decide
def paused : State := withOne { st0 with sub := some ⟨2, .follow, none, none, none⟩ } busy
def idling : State := withOne { st0 with sub := some ⟨2, .follow, none, none, some .idle⟩ } busy
theorem witness_HaltsRemoveSubscriptions :
    paused.Between ∧ paused.Passes 1 5 ∧ paused.lookup one = some hOne
    ∧ paused.station hOne = some { st0 with sub := some ⟨2, .follow, none, none, none⟩ }
    ∧ idling.Between ∧ idling.Passes 1 5 ∧ idling.lookup one = some hOne
    ∧ idling.station hOne = some { st0 with sub := some ⟨2, .follow, none, none, some .idle⟩ }
    ∧ atFive.station hOne = some st0 ∧ st0.sub = none := by decide

def sealing : State := loaded burstOne busy
def waking : State := busy.modRadio 5 (fun x => { x with credit := 100, wake := some 1000 })
theorem witness_TimersExpire :
    (withOne { addr := one, state := .unattached, linger := some 1000 } busy).Between
    ∧ (withOne { addr := one, state := .unattached, linger := some 1000 } busy).station (2052 : Fin 8192).val
      = some { addr := one, state := .unattached, linger := some 1000 }
    ∧ reached 1000 1000 = true ∧ busy.egress.lists = []
    ∧ (withOne { st0 with damped := some 1000 } busy).station (2052 : Fin 8192).val = some { st0 with damped := some 1000 }
    ∧ sealing.Between ∧ sealing.sealDue 5 = true ∧ sealing.portBusy 5 = true
    ∧ waking.Between ∧ (waking.radio 5).wake = some 1000 ∧ waking.portBusy 5 = true := by decide
def ramping (k : Nat) : State := { busy with gov := { surge := .ramping k 1000 } }
def surging : State := { busy with surgeLine := true, gov := { surge := .on } }
theorem witness_RampStepsThroughStages :
    (ramping 1).Between ∧ (ramping 1).allBusy = true ∧ (ramping 3).Between ∧ (ramping 3).allBusy = true
    ∧ reached busy.venueTime 1000 = true ∧ surging.Between ∧ surging.allBusy = true ∧ surging.gov.surge = .on
    ∧ surging.surgeLine = true ∧ surging.gov.surgeFlag = false := by decide
def sending : State := { loaded { burstOne with state := .transmitting 1, sealAt := none } busy with ports := [(1, { sending := some (5, .visitor) })] }
/-- A CLOSED burst waits on a free port, its radio with credit and without. -/
def waitingBurst (credit : Int) : State := loaded { burstOne with state := .closed, sealAt := none }
  { floor with radios := [(5, { radioOf .seat 3 1 with credit := credit, lastRefill := 1000 })], ports := [(1, { pointer := some 5 })] }
theorem witness_PortsCompleteAndDispatch :
    sending.Between ∧ (sending.port 1).sending = some (5, .visitor)
    ∧ sending.list 5 .visitor = [{ burstOne with state := .transmitting 1, sealAt := none }] ∧ sending.roam.drain = []
    ∧ sending.replay.stalled = []
    ∧ floor.Between ∧ (floor.port 1).sending = none ∧ (busy.port 1).sending.isSome = true ∧ Table.sorted floor.radios = true
    ∧ (floor.port 1).pointer = none ∧ ((waitingBurst 8000).port 1).pointer = some 5 ∧ (waitingBurst 8000).inService 5 = true
    ∧ ([Cls.visitor].find? ((waitingBurst 8000).gov.allows ((waitingBurst 8000).radio 5))) = some .visitor
    ∧ Cls.all.filter (fun c => headEligible c ((waitingBurst 8000).list 5 c)) = [.visitor]
    ∧ (waitingBurst 8000).list 5 .visitor = [{ burstOne with state := .closed, sealAt := none }]
    ∧ ([Cls.visitor].find? ((waitingBurst 0).gov.allows ((waitingBurst 0).radio 5))) = none
    ∧ [Cls.fan].filter (fun c => decide (¬ (slow.groupOf poor).threshold c < poor.credit)) ≠ [] ∧ 0 < slow.eff poor
    ∧ ({ play := { g0 := { base := 0 } } } : Governor).eff poor = 0 := by decide
/-- Radio 5 at 7 strikes, with a station and a burst; nothing else of it waits. -/
def leaving : State := { striking 7 with
  stations := [(hOne, { st0 with egress := 1 })]
  egress := { lists := [(5, { visitor := [burstOne] })], buffers := 1, bursts := 1 } }
/-- `one` moves from radio 5 to radio 6, of which one is out of service. -/
def lostBoth (out : Nat) : State := moving.modRadio out (fun x => { x with state := .disabled })
theorem witness_RadiosLeaveService :
    leaving.Undisturbed ∧ leaving.Ready host ∧ (leaving.radio 5).state = .inService ∧ (leaving.radio 5).cfg = some (cfgOf .seat 3 1)
    ∧ busy.Undisturbed ∧ (busy.radio 9).state = .quarantined ∧ busy.portBusy 9 = true ∧ (busy.radio 9).cfg = some (cfgOf .seat 0 1)
    ∧ leaving.Between ∧ parseCarrier [5, 0] = none ∧ leaving.charges .carrierMalformed 5 = true
    ∧ leaving.err.threshold ≤ min ((leaving.radio 5).strikes + 1) 255
    ∧ moving.ev.deferring = false ∧ moving.roam.ctxs = [(hOne, ⟨5, 6, 0, 900, true⟩)]
    ∧ moving.station hOne = some { st0 with state := .handoff, target := some 6 } ∧ st0.hold = [] ∧ st0.sub = none
    ∧ moving.inService 5 = true ∧ moving.inService 6 = true ∧ (lostBoth 6).inService 6 = false ∧ (lostBoth 5).inService 5 = false
    ∧ deliveringOne.replay.deliveries ≠ [] ∧ Table.sorted deliveringOne.replay.deliveries = true
    ∧ (∀ e ∈ deliveringOne.replay.deliveries, e.2.radio = 5) ∧ deliveringOne.replay.waiting = [] := by decide

theorem witness_ScansAreEvaluatedByState :
    permits 0 63 = false ∧ permits (BitVec.allOnes 64) 63 = true
    ∧ (erasable.entry 65535).state = .issued ∧ (redeemed.entry 65535).state = .exited ∧ (redeemed.entry 65535).used = 1
    ∧ (redeemed.entry 28).state = .admitted ∧ (frozen.entry 28).state = .void
    ∧ ({ busy with adm := { map := [(28, { state := .admitted })] } } : State).entry 28 = { state := .admitted } := by decide
set_option maxRecDepth 8000 in
theorem witness_ScanCompletionsAdmit :
    scanning.Between ∧ scanning.mem.transfer = some ⟨.fetch 7 [28] (.item 0), false⟩
    ∧ scanning.adm.items.find? (fun i => decide (i.serial = 0)) = some ⟨0, .scan .entry 1, 7, 7, 7, 3, one, 1000, .fetching 0⟩
    ∧ scanning.adm.closed = false ∧ (∀ p ∈ [28], scanning.credPasses p = true) ∧ scanning.matchCode 7 7 = .found 0
    ∧ permits (scanning.cred 28).permit 3 = true ∧ (scanning.entry 28).state = .issued ∧ scanning.portBusy 7 = true
    ∧ writing.Between ∧ writing.mem.transfer = some ⟨.writeBack 28 seven (.item 0), false⟩
    ∧ writing.adm.items.length = 1 ∧ writing.adm.op = none ∧ writing.adm.sweep.stride = none := by decide +kernel
/-- The check-in of `one` for code 7 is fetched at radio 5, among these records and entries. -/
def checkinItem : WorkItem := ⟨0, .checkin hOne, 7, 7, 5, 1, one, 1000, .fetching 0⟩
def checking (stations : Table Station) (map : Table MapEntry) : State := { busy with
  stations := stations
  mem := { cred := Memory.writeBytes [] (28 * 64) seven.bytes, transfer := some ⟨.fetch 7 [28] (.item 0), false⟩ }
  adm := { map := map, items := [checkinItem], serial := 1 } }
/-- The entry of code 7, ADMITTED, with a bound handle; a record at another handle. -/
def inside (h : Option Nat) : MapEntry := { state := .admitted, home := 3, bound := h }
def holding (a : Addr) : Station := { st0 with addr := a, binding := some bindAll, standing := .inZone, cls := .fan }
def hTwo : Nat := 2060
/-- An operation of a credential directive for bucket 7, fetched. -/
def operating (job : CredJob) (map : Table MapEntry) : State := { busy with
  mgmt := { queue := [⟨host, 7, .credVoid 7⟩], started := true }
  mem := { cred := Memory.writeBytes [] (28 * 64) seven.bytes, transfer := some ⟨.fetch 7 [28] .op, false⟩ }
  adm := { map := map, op := some ⟨0, 7, job, .fetching⟩, serial := 1 } }
def loadSeven : LoadRec := ⟨7, 2, 0, 3, 0, 63⟩
def writingBack : State := { operating (.load loadSeven [] [(.loaded, some 28)]) [] with
  mem := { transfer := some ⟨.writeBack 28 seven .op, false⟩ } }
set_option maxRecDepth 8000 in
theorem witness_CheckinsAndCredentialDirectivesDecide :
    (∀ m ∈ [[], [(28, inside none)], [(28, inside (some hOne))], [(28, { inside none with faulty := true })], [(28, { state := .issued })]],
      let s := checking [(hOne, st0)] m
      s.Between ∧ s.portBusy 5 = true ∧ (∀ p ∈ [28], s.credPasses p = true) ∧ s.station hOne = some st0 ∧ st0.addr = checkinItem.station)
    ∧ (checking [] []).station hOne = none ∧ (checking [(hOne, st0)] []).matchCode 7 7 = .unknown
    ∧ (checking [(hOne, st0)] [(28, { inside none with faulty := true })]).matchCode 7 7 = .fault
    ∧ (checking [(hOne, st0)] [(28, { state := .issued })]).matchCode 7 7 = .found 0
    ∧ (checking [(hOne, st0)] [(28, inside none)]).holder 28 = none
    ∧ (checking [(hOne, holding one)] [(28, inside (some hOne))]).holder 28 = some hOne
    ∧ (checking [(hOne, st0), (hTwo, holding two)] [(28, inside (some hTwo))]).holder 28 = some hTwo
    ∧ (∀ m ∈ [[], [(28, inside none)], [(28, { inside none with faulty := true })], [(28, { state := .void })]],
      (operating (.void 7) m).Between ∧ (∀ p ∈ [28], (operating (.void 7) m).credPasses p = true))
    ∧ (operating (.void 7) []).matchCode 7 7 = .unknown ∧ (operating (.void 7) [(28, inside none)]).matchCode 7 7 = .found 0
    ∧ (operating (.load loadSeven [] []) []).matchCode 7 7 = .unknown
    ∧ ((operating (.load loadSeven [] []) []).entry 28).state = .free
    ∧ (operating (.void 7) [(28, { inside none with faulty := true })]).matchCode 7 7 = .fault
    ∧ ((operating (.void 7) [(28, { state := .void })]).entry 28).state = .void
    ∧ (∀ w, w < 4 → ((operating (.void 7) [(28, inside none), (29, inside none), (30, inside none), (31, inside none)]).entry
        (7 * 4 + w)).state ≠ .free)
    ∧ writingBack.Between ∧ writingBack.mem.transfer = some ⟨.writeBack 28 seven .op, false⟩ := by decide +kernel
def striding (b : Nat) : State := { busy with
  mem := { transfer := some ⟨.stride b [], false⟩ }
  adm := { sweep := { state := .running, selector := some .all, pointer := b, stride := some .reading } } }
theorem witness_SweepStridesVoidAndMove :
    (redeemed.entry 65535).bound = none ∧ (redeemed.entry 65535).faulty = false
    ∧ (striding 16320).Between ∧ (striding 16320).mem.transfer = some ⟨.stride 16320 [], false⟩
    ∧ (striding 16320).adm.sweep.pointer = 16320 ∧ (16320 + 64 = 16384) ∧ (striding 0).Between ∧ (0 + 64 ≠ 16384)
    ∧ ((striding 0).entry 0).state = .free := by decide
def declining : State := { deliveringOne with egress := { buffers := 3840 } }
/-- Two writes of a WRITING slot are outstanding. -/
def storingTwo : State := (storingOne .writing).setSlot 8 { (storingOne .writing).slot 8 with outstanding := 2 }
theorem witness_ClipCompletionsHoldAndWrite :
    declining.Between ∧ declining.mem.transfer = some ⟨.chunk 8 0 3 0, false⟩
    ∧ (declining.delivery 0).map (fun v => (v.generation, v.radio)) = some ((declining.slot 8).generation, 5)
    ∧ declining.inService 5 = true ∧ 3840 ≤ declining.egress.buffers ∧ 0 ∉ declining.replay.stalled
    ∧ (storingOne .filling).Between ∧ (storingOne .filling).mem.transfer = some ⟨.ingest 8 0 [0xAA, 0xBB] 0, false⟩
    ∧ ((storingOne .filling).slot 8).generation = 0 ∧ ((storingOne .filling).slot 8).state = .filling
    ∧ ((storingOne .filling).setSlot 8 { generation := 1 }).Between
    ∧ (((storingOne .filling).setSlot 8 { generation := 1 }).slot 8).generation ≠ 0
    ∧ (storingOne .writing).Between ∧ (storingOne .writing).mem.transfer = some ⟨.ingest 8 0 [0xAA, 0xBB] 0, false⟩
    ∧ ((storingOne .writing).slot 8).state = .writing ∧ ((storingOne .writing).slot 8).outstanding = 1
    ∧ ((storingOne .writing).slot 8).generation = 0 ∧ ((storingOne .writing).slot 8).reel = some 2
    ∧ ((storingOne .writing).slot 8).seq = some 9 ∧ ((storingOne .writing).slot 8).length.isSome = true
    ∧ ((storingOne .writing).reel 2).cfg.isSome = true
    ∧ (∀ e ∈ (storingOne .writing).stations, e.2.sub = none)
    ∧ storingTwo.Between ∧ storingTwo.mem.transfer = some ⟨.ingest 8 0 [0xAA, 0xBB] 0, false⟩
    ∧ (storingTwo.slot 8).state = .writing ∧ 2 ≤ (storingTwo.slot 8).outstanding ∧ (storingTwo.slot 8).generation = 0 := by
  decide
/-- `one` follows reel 2, of which two sequences are READY, slot 11 FILLING and slot 12 WRITING. -/
def seeking (b : Sub) (pos : Nat) (f : Option Nat) : State :=
  { withReel { reelTwo with newest := some 12, oldest := some 9, lastOpened := some 31, writePos := pos, filling := f }
      [(8, { state := .ready, reel := some 2, seq := some 9, length := some 3, readyTime := some 0 }),
       (9, { state := .ready, reel := some 2, seq := some 12, length := some 20000, readyTime := some 0 }),
       (11, { state := .filling, reel := some 2, seq := some 31, length := some 30, received := some 5, outstanding := 1 }),
       (12, { state := .writing, reel := some 2, seq := some 28, length := some 30, received := some 30, outstanding := 1 })]
      (withOne { holding one with sub := some b } busy) with
    pending := [] }
def follows (c : Option Nat) (r : Option Rider) : Sub := ⟨2, .follow, c, none, r⟩
/-- All 8 places of radio 5 hold deliveries of other slots. -/
def placesFull : State := { seeking (follows (some 9) (some .idle)) 8 none with
  replay := { (seeking (follows (some 9) (some .idle)) 8 none).replay with
    deliveries := (List.range 8).map (fun d => (d, ⟨5, 2, 20 + d, 9, 0, 3, 0, .reading, []⟩)), nextId := 8 } }
theorem witness_SegmentsAreSoughtAndTaken :
    (let s := seeking (follows (some 9) (some .idle)) 13 (some 11)
     s.Between ∧ ((s.reel 2).cfg.map (fun c => (c.newest, c.oldest))) = some (some 12, some 9) ∧ (s.readySlot 2 9) = some 8
      ∧ s.deliveryAt 5 8 0 = none ∧ s.waitList 5 = [] ∧ s.deliveriesAt 5 < 8 ∧ s.replay.deliveries.length < 1024
      ∧ (seek true s (follows (some 9) none)).found.isSome = true ∧ (seek true s (follows (some 31) none)).found = none
      ∧ (seek false s ⟨2, .one, some 10, none, none⟩).found = some 12
      ∧ (seek false s ⟨2, .loop, some 13, some (9, 6), none⟩).found = some 9
      ∧ (s.stations.filter (fun e => decide (∃ c ∈ e.2.sub, c.reel = 2 ∧ c.rider = some .idle))).map Prod.fst = [hOne]
      ∧ (s.slot 13).state = .free ∧ Table.sorted s.replay.slots = true)
    ∧ placesFull.deliveryAt 5 8 0 = none ∧ placesFull.deliveriesAt 5 = 8
    ∧ (deliveringOne.deliveryAt 5 8 0) = some 0 ∧ deliveringOne.Between ∧ deliveringOne.portBusy 5 = true
    ∧ (deliveringOne.delivery 0).map (fun v => (v.generation, v.nextOffset, v.length)) = some ((deliveringOne.slot 8).generation, 0, 3)
    ∧ ((deliveringOne.station hOne).bind Station.sub) = some ⟨2, .one, some 9, none, some (.riding 0)⟩
    ∧ ((seeking (follows none none) 8 none).station hOne) = some { holding one with sub := some (follows none none) }
    ∧ (holding one).state = .attached ∧ (holding one).standing = .inZone ∧ (∃ c, (holding one).binding = some c ∧ c.grant = true)
    ∧ ¬ (st0.state = .attached ∧ st0.standing = .inZone)
    ∧ ((seeking (follows none none) 12 none).slot 12).state = .writing ∧ ((seeking (follows none none) 8 none).slot 8).state = .ready
    ∧ (seeking (follows none none) 8 none).replay.deliveries = [] ∧ (32 : Word32).toNat = 31 + 1 ∧ (262144 : Word32).toNat ≤ 262144 :=
  ⟨by decide, by decide, by decide, by decide, by decide, by decide, by decide, by decide, by decide, by decide, by decide,
   ⟨bindAll, by decide⟩, by decide, by decide, by decide, by decide, by decide, by decide⟩

/-! ### States for single clauses: refills, notices, arrivals, verdicts, strides and laps -/

/-- The context BREAK is active, its stage 3 at 90 percent, with surge and the cap of 80 percent as given. -/
def throttled (x : Surge) (cap : Byte) : Governor :=
  { active := .brk, surge := x, brk := { capEnable := cap, capCode := 6, stage3 := ⟨7, 1⟩, g7 := { base := 100, ceiling := 700 } } }
/-- Radio of group 7 with a credit and a remainder. -/
def inGroup7 (credit : Int) : Radio := { cfg := some ⟨.seat, 3, 7, 1⟩, credit := credit, remainder := 999 }
theorem witness_refillAdds :
    [0, 20, 30, 45, 60, 70, 80, 90][(0 : Byte).toNat]? = some 0 ∧ [0, 20, 30, 45, 60, 70, 80, 90][(7 : Byte).toNat]? = some 90
    ∧ (throttled .off 0).brk.capEnable = 0 ∧ (throttled .on 1).surge = .on ∧ (throttled .on 1).brk.capEnable = 1
    ∧ (∀ k ∈ [1, 3], 1 ≤ k ∧ ([(throttled .on 1).brk.stage1, (throttled .on 1).brk.stage2, (throttled .on 1).brk.stage3][k - 1]?).isSome = true)
    ∧ (throttled (.ramping 3 1000) 0).throttle = 90 ∧ (throttled (.ramping 1 1000) 1).throttle = 80
    ∧ slow.throttle = 0 ∧ poor.cfg = some (cfgOf .seat 3 1) ∧ (cfgOf .seat 3 1).group = 0
    ∧ (throttled (.ramping 3 1000) 0).eff (inGroup7 0) = 10 ∧ (inGroup7 0).cfg = some ⟨.seat, 3, 7, 1⟩ := by decide
-- R66: 10,999 µs at 10 credits each ms and 999 left over give 110,989 thousandths: 110 credits, 989 left over
theorem test_refill : ((throttled (.ramping 3 1000) 0).refill 10999 (inGroup7 (-5))).credit = 105
    ∧ ((throttled (.ramping 3 1000) 0).refill 10999 (inGroup7 (-5))).remainder = 989 := by decide
-- R66: the ceiling of 700 cuts the credit and clears the remainder
theorem test_refill_ceiling : ((throttled (.ramping 3 1000) 0).refill 10999 (inGroup7 600)).credit = 700
    ∧ ((throttled (.ramping 3 1000) 0).refill 10999 (inGroup7 600)).remainder = 0 := by decide
/-- Notice entry 3 sends, entry 4 holds nothing yet, entry 15 holds a notice, the others are disabled. -/
def notices : State := { busy with err := {
  entries := [(3, { dest := host, enable := true }), (4, { dest := host, enable := true, mask := true }),
    (15, { dest := host, enable := true, mask := true, held := some ⟨2, .error, [1]⟩ })]
  mapping := [(1, 15), (2, 3), (3, 4), (4, 0)] } }
theorem witness_notices :
    Table.sorted notices.err.entries = true
    ∧ (NoticeKind.all.map (fun k => (notices.noticeEntryOf k)) |>.take 4) = [15, 3, 4, 0]
    ∧ (notices.noticeEntry 0).enable = false ∧ (notices.noticeEntry 15).mask = true ∧ (notices.noticeEntry 15).held.isSome = true
    ∧ (notices.noticeEntry 4).mask = true ∧ (notices.noticeEntry 4).held = none ∧ (notices.noticeEntry 3).mask = false := by decide
/-- Surge is ON by the flag alone. -/
def flagged : State := { busy with gov := { surge := .on, surgeFlag := true } }
theorem witness_flagCleared :
    flagged.Between ∧ flagged.allBusy = true ∧ flagged.gov.surge = .on ∧ flagged.surgeLine = false ∧ flagged.gov.surgeFlag = true
    ∧ flagged.RunsAtOnce host := by decide
/-- 64 work items wait; the event is closed. -/
def thronged : State := { atFive with adm := { items := List.replicate 64 ⟨0, .checkin 1, 7, 7, 5, 3, one, 0, .waiting⟩ } }
def closedEvent : State := { busy with adm := { closed := true } }
theorem witness_scanArrivals :
    busy.noQuarantine .carrierMalformed 7 = true ∧ (3 : Byte) ≠ 1 ∧ (3 : Byte) ≠ 2 ∧ (striking 6).Between ∧ (striking 6).Passes 1 5
    ∧ ((striking 6).radio 5).cfg = some (cfgOf .seat 3 1) ∧ (striking 6).noQuarantine .carrierMalformed 5 = true
    ∧ Role.seat.allows .entry = false ∧ Role.seat.allows .exit = false ∧ (striking 6).noQuarantine .gateRole 5 = true
    ∧ closedEvent.Between ∧ closedEvent.Passes 3 7 ∧ closedEvent.portBusy 7 = true ∧ closedEvent.adm.closed = true ∧ closedEvent.AdmissionIdle
    ∧ thronged.Between ∧ thronged.Passes 3 7 ∧ (thronged.radio 7).cfg = some (cfgOf .gateBoth 3 3) ∧ 64 ≤ thronged.adm.items.length
    ∧ thronged.adm.closed = false ∧ thronged.portBusy 7 = true := by decide
theorem witness_checkinArrivals :
    noStation 0 = true ∧ noStation (BitVec.allOnes 48) = true ∧ noStation one = false ∧ busy.Passes 1 5 ∧ busy.lookup one = none
    ∧ atFive.Passes 2 6 ∧ st0.current ≠ some 6 ∧ st0.target ≠ some 6 ∧ atFive.noQuarantine .serviceUnexpected 6 = true
    ∧ thronged.Passes 1 5 ∧ thronged.portBusy 5 = true ∧ thronged.lookup one = some hOne ∧ thronged.station hOne = some st0
    ∧ moving.Between ∧ moving.Passes 2 6 ∧ moving.AdmissionIdle
    ∧ moving.station hOne = some { st0 with state := .handoff, target := some 6 } ∧ moving.lookup one = some hOne := by decide
theorem witness_cueRefusals :
    15 < (16 : Byte).toNat ∧ 1023 < (1024 : Half).toNat ∧ 3 < (4 : Byte).toNat ∧ ((0 : Byte) ≠ 1 ∧ (0 : Byte) ≠ 2 ∧ (0 : Byte) ≠ 3)
    ∧ ((4 : Byte) ≠ 1 ∧ (4 : Byte) ≠ 2 ∧ (4 : Byte) ≠ 3) ∧ atFive.Between ∧ atFive.Passes 1 5 ∧ atFive.Passes 2 6
    ∧ ¬ (noStation one = true ∨ 15 < (15 : Byte).toNat ∨ ((3 : Byte) ≠ 1 ∧ (3 : Byte) ≠ 2 ∧ (3 : Byte) ≠ 3) ∨ 1023 < (1023 : Half).toNat
      ∨ ((3 : Byte) = 3 ∧ 3 < (3 : Byte).toNat))
    ∧ atFive.noQuarantine .carrierMalformed 5 = true ∧ atFive.noQuarantine .serviceUnexpected 6 = true
    ∧ busy.lookup one = none ∧ moving.portBusy 6 = true ∧ ¬ (StState.handoff = .attached) := by decide
/-- The stride at bucket 64 is CLAIMED: one item holds bucket 127 of it, one waits for bucket 64 behind the stride. -/
def strideBehind (more : List WorkItem) : State := { swept .running (some .claimed) with
  adm := { (swept .running (some .claimed)).adm with items := ⟨0, .scan .exit 1, 7, 127, 7, 3, one, 0, .fetching 0⟩ :: more, serial := 2 } }
def waitingItem : WorkItem := ⟨1, .scan .exit 1, 7, 64, 7, 3, one, 0, .waiting⟩
/-- A sweep that is IDLE, or SUSPENDED at bucket 64, and an item that holds the last bucket of the stride. -/
def heldBucket (x : SweepState) (b : Nat) : State := { busy with
  adm := { sweep := { state := x, selector := some .all, pointer := 64 }, items := [⟨0, .scan .exit 1, 7, b, 7, 3, one, 0, .writing 0⟩], serial := 1 } }
theorem witness_claimedStrides :
    (strideBehind []).Ready host ∧ (strideBehind []).adm.sweep.state = .running ∧ (strideBehind []).adm.sweep.stride = some .claimed
    ∧ (∀ i ∈ (strideBehind []).adm.items, i.stage ≠ .waiting) ∧ (strideBehind []).adm.op = none
    ∧ (strideBehind [waitingItem]).Ready host
    ∧ (strideBehind [waitingItem]).adm.items = [⟨0, .scan .exit 1, 7, 127, 7, 3, one, 0, .fetching 0⟩] ++ waitingItem :: []
    ∧ (strideBehind [waitingItem]).mem.all.all (fun t => !t.marked) = true
    ∧ (ItemStage.fetching 0).slot = some 0 ∧ (ItemStage.fetching 0).slot ≠ some 1
    ∧ (heldBucket .idle 63).Ready host ∧ (heldBucket .idle 63).adm.sweep.state = .idle ∧ (63 < 64)
    ∧ (heldBucket .suspended 127).Ready host ∧ (heldBucket .suspended 127).adm.sweep.state = .suspended
    ∧ (heldBucket .suspended 127).adm.sweep.pointer ≤ 127 ∧ 127 < (heldBucket .suspended 127).adm.sweep.pointer + 64
    ∧ (∀ j ∈ (heldBucket .suspended 127).adm.items, j.stage ≠ .waiting) := by decide
/-- A scan of code 7 is read, with this direction, entry, record and station table. -/
def judging (d : Direction) (e : MapEntry) (c : Cred) (stations : Table Station) : State := { busy with
  stations := stations
  mem := { cred := Memory.writeBytes [] (28 * 64) c.bytes, transfer := some ⟨.fetch 7 [28] (.item 0), false⟩ }
  adm := { map := [(28, e)], items := [⟨0, .scan d 1, 7, 7, 7, 3, one, 1000, .fetching 0⟩], serial := 1, occupancy := [(3, 2)] } }
/-- What a read of bucket 7 leaves once its checks are applied. -/
def judged (s : State) : State := ({ s with mem := ({ s.mem with transfer := none } : RecMem).grant } : State).checked [28]
set_option maxRecDepth 8000 in
theorem witness_verdicts :
    (∀ d ∈ [Direction.entry, .exit], ∀ e ∈ [({ state := .issued, home := 3 } : MapEntry), { state := .exited, used := 1 }, { state := .exited, used := 0 },
        inside none, inside (some hOne), { state := .void }],
      let s := judging d e seven [(hOne, holding one)]
      s.Between ∧ s.portBusy 7 = true ∧ s.adm.closed = false ∧ s.adm.op = none ∧ s.adm.sweep.stride = none ∧ s.adm.items.length = 1
        ∧ (judged s).matchCode 7 7 = .found 0 ∧ (judged s).entry 28 = e ∧ (judged s).cred 28 = seven)
    ∧ permits seven.permit 3 = true ∧ permits ({ seven with permit := 0 } : Cred).permit 3 = false ∧ seven.allowance = 1
    ∧ (judged (judging .exit (inside (some hOne)) seven [(hOne, holding one)])).holder 28 = some hOne
    ∧ (judged (judging .exit (inside (some hOne)) seven [(hOne, st0)])).holder 28 = none ∧ (holding one).sub = none
    ∧ (judged (judging .entry {} seven [])).matchCode 7 7 = .unknown
    ∧ (judged (judging .entry { inside none with faulty := true } seven [])).matchCode 7 7 = .fault := by decide +kernel
/-- The byte of the record that a disturbance changed makes its check fail. -/
def failing (s : State) : State := { s with mem := { s.mem with cred := Memory.write s.mem.cred (28 * 64) 0x55 } }
set_option maxRecDepth 8000 in
theorem witness_failedChecks :
    (failing scanning).credPasses 28 = false ∧ scanning.credPasses 28 = true ∧ (failing scanning).Between
    ∧ (failing scanning).mem.transfer = some ⟨.fetch 7 [28] (.item 0), false⟩ ∧ (judged (failing scanning)).matchCode 7 7 = .fault
    ∧ (scanning.mem.transfer.map (fun t => t.req.kind)) = some .fetch ∧ (sweeping.mem.transfer.map (fun t => t.req.kind)) = some .stride
    ∧ (judged (failing (checking [(hOne, st0)] [(28, inside none)]))).matchCode 7 7 = .fault
    ∧ (judged (failing (operating (.void 7) [(28, inside none)]))).matchCode 7 7 = .fault := by decide +kernel
-- R87, R165: the way is faulty, RECORD_FAULT names bucket 7 and way 0, and both counters rise by 1
set_option maxRecDepth 8000 in
theorem test_checked : ((judged (failing scanning)).entry 28).faulty = true ∧ (judged (failing scanning)).mem.ctrs.checkFailures = 1
    ∧ (judged (failing scanning)).err.first.map (fun f => (f.occ.cls, f.occ.place)) = some (.recordFault, some (7, 0)) := by decide +kernel
/-- SWEEP_SUSPEND waits at the head for the stride at bucket `b`; its last way is ISSUED, its record failing. -/
def suspending (b : Nat) : State := { striding b with
  mgmt := { queue := [⟨host, 7, .sweepSuspend⟩], started := true }
  mem := { cred := [(64 * (4 * b + 255), 0x55)], transfer := some ⟨.stride b [4 * b + 255], false⟩ }
  adm := { map := [(4 * b, { state := .admitted, home := 3 }), (4 * b + 255, { state := .issued, home := 3 })], occupancy := [(3, 1)],
           sweep := { state := .running, selector := some .all, pointer := b, stride := some .reading, suspendRequested := true } } }
set_option maxRecDepth 8000 in
theorem witness_suspendedStrides :
    (∀ b ∈ [0, 16256, 16320], (suspending b).Between ∧ (suspending b).mem.transfer = some ⟨.stride b [4 * b + 255], false⟩
      ∧ (suspending b).mgmt.queue = [⟨host, 7, .sweepSuspend⟩] ∧ (suspending b).adm.sweep.suspendRequested = true
      ∧ (suspending b).adm.sweep.pointer = b ∧ (suspending b).credPasses (4 * b + 255) = false)
    ∧ (∀ e ∈ (suspending 0).stations, e.2.sub = none) ∧ 16256 + 64 ≠ 16384 ∧ (16320 + 64 = 16384) := by decide +kernel
-- R112: at the last stride the sweep ends IDLE and SWEEP_SUSPEND is answered STATE: IDLE, 16,384, one voided, one inside, one faulty
set_option maxRecDepth 8000 in
theorem test_suspend_last : answered (exec (.sweepStrideCompletion []) (suspending 16320))
    = some (.state, [1, 0x40, 0, 0, 0, 0, 1, 0, 0, 0, 1, 0, 0, 0, 1]) := by decide +kernel
set_option maxRecDepth 8000 in
theorem test_suspend_next : answered (exec (.sweepStrideCompletion []) (suspending 0))
    = some (.done, [3, 0, 64, 0, 0, 0, 1, 0, 0, 0, 1, 0, 0, 0, 1]) := by decide +kernel
/-- `one` rides delivery 0 of slot 8 in this mode; the newest READY sequence is 12, in slot 9. -/
def ridingOld (m : Mode) (gen : Half) : State := { seeking ⟨2, m, some 9, some (9, 6), some (.riding 0)⟩ 8 none with
  replay := { (seeking ⟨2, m, some 9, some (9, 6), some (.riding 0)⟩ 8 none).replay with
    deliveries := [(0, ⟨5, 2, 8, 9, gen, 3, 0, .reading, [hOne]⟩), (1, ⟨4, 2, 8, 9, gen, 3, 0, .reading, []⟩)], nextId := 2 }
  mem := { transfer := some ⟨.chunk 8 0 3 0, false⟩ } }
def atFour : Nat × Delivery := (1, ⟨4, 2, 8, 9, 0, 3, 0, .reading, []⟩)
def atRadioFive : Nat × Delivery := (0, ⟨5, 2, 8, 9, 0, 3, 0, .reading, [hOne]⟩)
theorem witness_laps :
    (∀ m ∈ [Mode.one, .follow, .loop], let s := ridingOld m 0
      s.Between ∧ (s.reel 2).cfg.map (fun c => (c.filling, c.writePos)) = some (none, 8)
        ∧ (s.reel 2).cfg.map (fun c => (c.lastOpened, c.newest)) = some (some 31, some 12)
        ∧ (s.slot 8).state = .ready ∧ (s.slot 8).seq = some 9 ∧ Table.sorted s.replay.slots = true
        ∧ s.replay.deliveries.filter (fun e => decide (e.2.slot = 8 ∧ e.2.generation = (s.slot 8).generation)) = [atRadioFive, atFour]
        ∧ s.replay.waiting = [] ∧ (s.station hOne).isSome = true)
    ∧ [atFour, atRadioFive].Perm [atRadioFive, atFour] ∧ [atFour, atRadioFive].Pairwise (fun x y => x.2.radio < y.2.radio)
    ∧ (let s := ridingOld .follow 65535
       s.Between ∧ s.mem.transfer = some ⟨.chunk 8 0 3 0, false⟩ ∧ (s.delivery 0).map (fun v => v.generation) = some 65535
        ∧ (s.slot 8).generation ≠ 65535 ∧ s.delivery 2 = none)
    ∧ delivering.Between ∧ delivering.mem.transfer = some ⟨.chunk 8 0 3 0, false⟩ ∧ delivering.delivery 0 = none
    ∧ ((withReel reelTwo [] idling).reel 2).cfg.map (fun c => (c.newest, c.oldest)) = some (none, none)
    ∧ ((withReel reelTwo [] idling).station hOne).map Station.sub = some (some ⟨2, .follow, none, none, some .idle⟩)
    ∧ (placesFull.setWaitList 5 [hOne]).replay.waiting = [(5, [hOne])] ∧ readyReel.replay.waiting = [] :=
  ⟨by decide, List.Perm.swap _ _ _, by decide, by decide, by decide, by decide, by decide, by decide, by decide, by decide, by decide⟩
-- R134, R156: a FOLLOW rider goes to the newest sequence and takes it; both deliveries are counted, and one notice is sent
theorem test_lapped : look (exec (.segmentOpen host 2 32 1400) { ridingOld .follow 0 with err := { entries := [(6, { dest := host, enable := true })] } })
    (fun t => (t.replay.deliveries.map (fun e => (e.2.radio, e.2.seq, e.2.riders)), (t.radio 5).rep.lapped, (t.reel 2).ctrs.lapped,
      t.uplink.tx))
    = some ([(5, 12, [hOne])], 1, 2, [.notice host 0 .reelLapped 1 [2, 0, 8, 0, 0, 0, 9, 0, 1, 0, 2]]) := by decide
-- R156: a ONE rider's cursor becomes the oldest READY sequence left
theorem test_lapped_one : look (exec (.segmentOpen host 2 32 1400) (ridingOld .one 0))
    (fun t => ((t.station hOne).bind Station.sub).map Sub.cursor) = some (some (some 12)) := by decide

end Sys2Proof.Tests
end

section
/-! Tables: order, sums over their values, and what the operations on them keep. -/

-- Proved one after another: beside the tests' threads, more threads would not fit the memory the check allows.
set_option Elab.async false

namespace Sys2Proof.Machine

variable {α : Type}

/-- The keys of a sorted table rise pairwise. -/
theorem Table.sorted_iff_pairwise (t : Table α) : t.sorted = true ↔ t.Pairwise (fun a b => a.1 < b.1) := by
  induction t with
  | nil => simp
  | cons e t ih => rw [Table.sorted_cons, ih, List.pairwise_cons]; exact and_comm

theorem Table.sorted_filter {t : Table α} (f : Nat × α → Bool) (h : t.sorted = true) :
    Table.sorted (t.filter f) = true := by
  rw [Table.sorted_iff_pairwise] at *; exact h.filter f

/-- Changing the values of a table keeps its keys rising. -/
theorem Table.sorted_map {t : Table α} (f : Nat × α → α) (h : t.sorted = true) :
    Table.sorted (t.map (fun e => (e.1, f e))) = true := by
  rw [Table.sorted_iff_pairwise] at *; exact List.pairwise_map.2 h

theorem Table.sorted_mapVals [DecidableEq α] {t : Table α} (d : α) (f : α → α) (h : t.sorted = true) :
    Table.sorted (t.mapVals d f) = true := by
  rw [Table.sorted_iff_pairwise] at *
  unfold Table.mapVals
  rw [List.pairwise_filterMap]
  refine h.imp fun {a b} hab x hx y hy => ?_
  split at hx <;> simp only [reduceCtorEq, Option.some.injEq] at hx
  split at hy <;> simp only [reduceCtorEq, Option.some.injEq] at hy
  rw [← hx, ← hy]; exact hab

/-- What a mapped table lists comes from an entry of the table. -/
theorem Table.mem_mapVals [DecidableEq α] {t : Table α} {d : α} {f : α → α} {e : Nat × α} (h : e ∈ t.mapVals d f) :
    ∃ v, (e.1, v) ∈ t ∧ e.2 = f v ∧ f v ≠ d := by
  obtain ⟨⟨k, v⟩, hm, he⟩ := List.mem_filterMap.1 h
  split at he <;> simp only [reduceCtorEq, Option.some.injEq] at he
  next hd => exact ⟨v, by rw [← he]; exact hm, by rw [← he], hd⟩

/-- Mapping the values keeps the canonical form. -/
theorem Table.wf_mapVals [DecidableEq α] {t : Table α} {d : α} (f : α → α) (h : t.wf d = true) :
    (t.mapVals d f).wf d = true := by
  simp only [Table.wf, Bool.and_eq_true, List.all_eq_true, decide_eq_true_eq] at h ⊢
  refine ⟨Table.sorted_mapVals d f h.1, fun e he => ?_⟩
  obtain ⟨v, -, hv, hd⟩ := Table.mem_mapVals he
  rw [hv]; exact hd

theorem Table.mem_of_find {t : Table α} {k : Nat} {v : α} (h : t.find k = some v) : (k, v) ∈ t := by
  induction t with
  | nil => simp at h
  | cons e t ih =>
    obtain ⟨k', v'⟩ := e
    simp only [Table.find] at h
    split at h
    · next hk => simp only [Option.some.injEq] at h; rw [hk, h]; exact List.mem_cons_self
    · exact List.mem_cons_of_mem _ (ih h)

/-- In a sorted table a listed entry is the one found at its key. -/
theorem Table.find_of_mem {t : Table α} (hs : t.sorted = true) {k : Nat} {v : α} (h : (k, v) ∈ t) :
    t.find k = some v := by
  induction t with
  | nil => simp at h
  | cons e t ih =>
    obtain ⟨k', v'⟩ := e
    rw [Table.sorted_cons] at hs
    simp only [List.mem_cons, Prod.mk.injEq] at h
    simp only [Table.find]
    rcases h with ⟨rfl, rfl⟩ | h
    · simp
    · have : k' < k := hs.2 _ h
      rw [if_neg (by omega)]; exact ih hs.1 h

/-- A value read from a table is the default or is listed. -/
theorem Table.get_mem {d : α} (t : Table α) (k : Nat) : t.get d k = d ∨ (k, t.get d k) ∈ t := by
  unfold Table.get
  cases h : t.find k with
  | none => exact .inl rfl
  | some v => exact .inr (Table.mem_of_find h)

theorem Table.mem_set [DecidableEq α] {d : α} {t : Table α} {k : Nat} {v : α} {e : Nat × α} (h : e ∈ t.set d k v) :
    e = (k, v) ∨ e ∈ t := by
  unfold Table.set at h
  split at h
  · exact .inr (Table.mem_del h)
  · exact Table.mem_put h

/-- Writing at a key twice is writing the second value. -/
theorem Table.put_put (t : Table α) (k : Nat) (v w : α) : (t.put k v).put k w = t.put k w := by
  induction t with
  | nil => simp [Table.put]
  | cons e t ih =>
    obtain ⟨k', v'⟩ := e
    simp only [Table.put]
    split
    · simp [Table.put]
    · split
      · simp [Table.put]
      · next h1 h2 => simp only [Table.put]; rw [if_neg h1, if_neg h2, ih]

/-- Writing what is found at a key changes nothing, in a sorted table. -/
theorem Table.put_find {t : Table α} (hs : t.sorted = true) {k : Nat} {v : α} (h : t.find k = some v) :
    t.put k v = t := by
  induction t with
  | nil => simp at h
  | cons e t ih =>
    obtain ⟨k', v'⟩ := e
    rw [Table.sorted_cons] at hs
    simp only [Table.find] at h
    simp only [Table.put]
    split at h
    · next hk => simp only [Option.some.injEq] at h; rw [if_neg (by omega), if_pos hk, hk, h]
    · next hk =>
      have : k' < k := hs.2 _ (Table.mem_of_find h)
      rw [if_neg (by omega), if_neg hk, ih hs.1 h]

/-- The sum of a weight over a table's values. -/
def Table.total (w : α → Nat) (t : Table α) : Nat := (t.map (fun e => w e.2)).sum

@[simp] theorem Table.total_cons (w : α → Nat) (e : Nat × α) (t : Table α) :
    Table.total w (e :: t) = w e.2 + Table.total w t := rfl

/-- The weight found at a key; 0 where nothing is listed. -/
def Table.weightAt (w : α → Nat) (t : Table α) (k : Nat) : Nat := ((t.find k).map w).getD 0

/-- Writing at a key changes a sum by the difference there. -/
theorem Table.total_put (w : α → Nat) {t : Table α} (hs : t.sorted = true) (k : Nat) (v : α) :
    (t.put k v).total w + t.weightAt w k = t.total w + w v := by
  induction t with
  | nil => simp [Table.put, Table.total, Table.weightAt]
  | cons e t ih =>
    obtain ⟨k', v'⟩ := e
    rw [Table.sorted_cons] at hs
    simp only [Table.put]
    split
    · next hlt =>
      have h0 : Table.find ((k', v') :: t) k = none := by
        refine Table.find_of_above fun e he => ?_
        rcases List.mem_cons.1 he with rfl | he
        exacts [hlt, lt_trans hlt (hs.2 e he)]
      simp only [Table.weightAt, h0, Table.total_cons, Option.map_none, Option.getD_none]; omega
    · split
      · next hk => simp only [Table.weightAt, Table.find, hk, if_true, Table.total_cons, Option.map_some, Option.getD_some]; omega
      · next hk =>
        have := ih hs.1
        simp only [Table.weightAt, Table.find, hk, if_false, Table.total_cons] at this ⊢; omega

/-- Removing an entry takes its weight from a sum. -/
theorem Table.total_del (w : α → Nat) (t : Table α) (k : Nat) :
    (t.del k).total w + t.weightAt w k = t.total w := by
  induction t with
  | nil => rfl
  | cons e t ih =>
    obtain ⟨k', v'⟩ := e
    simp only [Table.del]
    split
    · next hk => simp only [Table.weightAt, Table.find, hk, if_true, Table.total_cons, Option.map_some, Option.getD_some]; omega
    · next hk => simp only [Table.weightAt, Table.find, hk, if_false, Table.total_cons] at ih ⊢; omega

/-- A sum over a sublist of the entries is at most the whole sum. -/
theorem Table.total_filter_le (w : α → Nat) (t : Table α) (f : Nat × α → Bool) :
    Table.total w (t.filter f) ≤ t.total w :=
  ((List.filter_sublist).map _).sum_le_sum (fun _ _ => Nat.zero_le _)

/-- A sum over mapped values is at most the sum, where no value gains weight. -/
theorem Table.total_map_le (w : α → Nat) (t : Table α) (f : Nat × α → α) (h : ∀ e, w (f e) ≤ w e.2) :
    Table.total w (t.map (fun e => (e.1, f e))) ≤ t.total w := by
  induction t with
  | nil => exact le_rfl
  | cons e t ih => exact Nat.add_le_add (h e) ih

/-- The number of entries that pass a test is a sum of ones. -/
theorem Table.length_filter_eq_total (t : Table α) (p : α → Bool) :
    (t.filter (fun e => p e.2)).length = t.total (fun v => (p v).toNat) := by
  induction t with
  | nil => rfl
  | cons e t ih => cases h : p e.2 <;> simp [h, ih]; omega

theorem Table.length_eq_total (t : Table α) : t.length = t.total (fun _ => 1) := by
  induction t with
  | nil => rfl
  | cons e t ih => simp [ih]; omega

end Sys2Proof.Machine
end

section
/-! What every step keeps of the pools and the tables (R11, R26, R45, R149): the predicate, field by field, and the updates of
one field. -/

-- Proved one after another: beside the tests' threads, more threads would not fit the memory the check allows.
set_option Elab.async false

namespace Sys2Proof.Machine

/-! ### The predicate -/

/-- The station records: in order, within the hold pool and the hold queues (R26), within the pinned set (R11). -/
structure RecordsOk (t : Table Station) : Prop where
  sorted : t.sorted = true
  held : t.total (fun st => st.hold.length) ≤ 2048
  queues : ∀ e ∈ t, e.2.hold.length ≤ 64
  pinned : t.total (fun st => st.pinned.toNat) ≤ 512

/-- The deliveries: in order, within the places of the part and of each radio (R149). -/
structure PlacesOk (t : Table Delivery) : Prop where
  sorted : t.sorted = true
  part : t.total (fun _ => 1) ≤ 1024
  radio : ∀ r, t.total (fun v => (decide (v.radio = r)).toNat) ≤ 8

/-- The class lists: canonical, and no REPLAY list longer than 4 (R45). -/
structure ListsOk (t : Table RadioLists) : Prop where
  wf : t.wf {} = true
  replay : ∀ e ∈ t, e.2.replay.length ≤ 4

/-- What every step keeps, of the fields it speaks of. -/
structure AllOk (stations : Table Station) (ctxs : Table RoamCtx) (marks : Table Nat) (deliveries : Table Delivery)
    (mapping : Table Nat) (ports : Table Port) (radios : Table Radio) (lists : Table RadioLists) (map : Table MapEntry)
    (occupancy : Table Nat) (reels : Table Reel) (slots : Table Slot) (waiting : Table (List Nat))
    (classes : Table ErrState) (entries : Table NoticeEntry) : Prop where
  stations : RecordsOk stations
  ctxs : ctxs.sorted = true
  marks : marks.sorted = true
  deliveries : PlacesOk deliveries
  mapping : mapping.sorted = true
  ports : ports.wf {} = true
  radios : radios.wf {} = true
  lists : ListsOk lists
  map : map.wf {} = true
  occupancy : occupancy.wf 0 = true
  reels : reels.wf {} = true
  slots : slots.wf {} = true
  waiting : waiting.wf [] = true
  classes : classes.wf {} = true
  entries : entries.wf {} = true

/-- What every step keeps, of a state with the records `t`. -/
def OkWith (t : Table Station) (s : State) : Prop :=
  AllOk t s.roam.ctxs s.roam.marks s.replay.deliveries s.err.mapping s.ports s.radios s.egress.lists s.adm.map
    s.adm.occupancy s.replay.reels s.replay.slots s.replay.waiting s.err.classes s.err.entries

/-- What every step keeps, of a state. -/
def Ok (s : State) : Prop := OkWith s.stations s

/-- The predicate is the two of the statement (R11, R26, R45, R149). -/
theorem ok_iff (s : State) : Ok s ↔ s.Pools ∧ s.Tables := by
  have hp : s.pinnedCount = s.stations.total (fun st => st.pinned.toNat) :=
    Table.length_filter_eq_total s.stations Station.pinned
  have hr : ∀ r, s.deliveriesAt r = s.replay.deliveries.total (fun v => (decide (v.radio = r)).toNat) :=
    fun r => Table.length_filter_eq_total s.replay.deliveries (fun v => decide (v.radio = r))
  constructor
  · intro h
    exact ⟨⟨h.stations.held, h.stations.queues, by rw [hp]; exact h.stations.pinned,
        by rw [Table.length_eq_total]; exact h.deliveries.part, fun r => by rw [hr]; exact h.deliveries.radio r,
        h.lists.replay⟩,
      ⟨h.stations.sorted, h.ctxs, h.marks, h.deliveries.sorted, h.mapping, h.ports, h.radios, h.lists.wf, h.map,
        h.occupancy, h.reels, h.slots, h.waiting, h.classes, h.entries⟩⟩
  · rintro ⟨p, t⟩
    exact ⟨⟨t.stations, p.held, p.queues, by rw [← hp]; exact p.pinned⟩, t.ctxs, t.marks,
      ⟨t.deliveries, by rw [← Table.length_eq_total]; exact p.deliveries, fun r => by rw [← hr]; exact p.places r⟩,
      t.mapping, t.ports, t.radios, ⟨t.lists, p.replay⟩, t.map, t.occupancy, t.reels, t.slots, t.waiting, t.classes,
      t.entries⟩

/-! ### Station records -/

/-- A changed record takes no more of the hold pool and of the pinned set than the old one. -/
structure Station.Lighter (v st : Station) : Prop where
  hold : v.hold.length ≤ st.hold.length
  pinned : v.pinned = true → st.pinned = true

theorem Station.Lighter.refl (st : Station) : st.Lighter st := ⟨le_rfl, id⟩

theorem Station.Lighter.trans {u v st : Station} (h : u.Lighter v) (k : v.Lighter st) : u.Lighter st :=
  ⟨le_trans h.hold k.hold, fun x => k.pinned (h.pinned x)⟩

theorem Bool.toNat_le_of_imp {a b : Bool} (h : a = true → b = true) : a.toNat ≤ b.toNat := by
  cases a <;> simp_all

/-- A record written where the pool, its queue and the pinned set have room. -/
theorem RecordsOk.put {t : Table Station} (h : RecordsOk t) {k : Nat} {v : Station} (hq : v.hold.length ≤ 64)
    (hh : t.total (fun st => st.hold.length) + v.hold.length ≤ 2048 + t.weightAt (fun st => st.hold.length) k)
    (hp : t.total (fun st => st.pinned.toNat) + v.pinned.toNat ≤ 512 + t.weightAt (fun st => st.pinned.toNat) k) :
    RecordsOk (t.put k v) := by
  have h1 := Table.total_put (fun st : Station => st.hold.length) h.sorted k v
  have h2 := Table.total_put (fun st : Station => st.pinned.toNat) h.sorted k v
  refine ⟨Table.sorted_put h.sorted, by omega, fun e he => ?_, by omega⟩
  rcases Table.mem_put he with rfl | he
  exacts [hq, h.queues e he]

theorem RecordsOk.put_lighter {t : Table Station} (h : RecordsOk t) {k : Nat} {v st : Station} (hk : t.find k = some st)
    (hl : v.Lighter st) : RecordsOk (t.put k v) := by
  have h1 := hl.hold
  have h2 := Bool.toNat_le_of_imp hl.pinned
  have h3 := h.held
  have h4 := h.pinned
  refine h.put (le_trans h1 (h.queues _ (Table.mem_of_find hk))) ?_ ?_ <;>
    simp only [Table.weightAt, hk, Option.map_some, Option.getD_some] <;> omega

/-- A new record holds no frames. -/
theorem RecordsOk.put_new {t : Table Station} (h : RecordsOk t) {k : Nat} {v : Station} (hv : v.hold = [])
    (hp : v.pinned = false ∨ t.total (fun st => st.pinned.toNat) < 512) : RecordsOk (t.put k v) := by
  have h3 := h.held
  have h4 := h.pinned
  refine h.put (by simp [hv]) (by simp only [hv, List.length_nil]; omega) ?_
  rcases hp with hp | hp
  · simp only [hp, Bool.toNat_false]; omega
  · have := Bool.toNat_le v.pinned; omega

theorem RecordsOk.del {t : Table Station} (h : RecordsOk t) (k : Nat) : RecordsOk (t.del k) := by
  have h1 := Table.total_del (fun st : Station => st.hold.length) t k
  have h2 := Table.total_del (fun st : Station => st.pinned.toNat) t k
  have h3 := h.held
  have h4 := h.pinned
  exact ⟨Table.sorted_del h.sorted, by omega, fun e he => h.queues e (Table.mem_del he), by omega⟩

theorem RecordsOk.filter {t : Table Station} (h : RecordsOk t) (f : Nat × Station → Bool) : RecordsOk (t.filter f) :=
  ⟨Table.sorted_filter f h.sorted, le_trans (Table.total_filter_le _ t f) h.held,
   fun e he => h.queues e (List.mem_of_mem_filter he), le_trans (Table.total_filter_le _ t f) h.pinned⟩

/-- Every record changed to a lighter one. -/
theorem RecordsOk.map {t : Table Station} (h : RecordsOk t) {f : Nat × Station → Station} (hf : ∀ e, (f e).Lighter e.2) :
    RecordsOk (t.map (fun e => (e.1, f e))) := by
  refine ⟨Table.sorted_map f h.sorted, le_trans (Table.total_map_le _ t f fun e => (hf e).hold) h.held, fun e he => ?_,
    le_trans (Table.total_map_le _ t f fun e => Bool.toNat_le_of_imp (hf e).pinned) h.pinned⟩
  obtain ⟨x, hx, rfl⟩ := List.mem_map.1 he
  exact le_trans (hf x).hold (h.queues x hx)

/-! ### Deliveries -/

/-- A delivery changed at its radio takes no further place. -/
theorem PlacesOk.put_same {t : Table Delivery} (h : PlacesOk t) {d : Nat} {v w : Delivery} (hd : t.find d = some v)
    (hr : w.radio = v.radio) : PlacesOk (t.put d w) := by
  have key : ∀ f : Delivery → Nat, f w = f v → (t.put d w).total f = t.total f := fun f hf => by
    have h1 := Table.total_put f h.sorted d w
    simp only [Table.weightAt, hd, Option.map_some, Option.getD_some] at h1
    omega
  exact ⟨Table.sorted_put h.sorted, by rw [key _ rfl]; exact h.part, fun r => by rw [key _ (by simp only [hr])]; exact h.radio r⟩

/-- A delivery made where the part and its radio have a place free. -/
theorem PlacesOk.put_new {t : Table Delivery} (h : PlacesOk t) (d : Nat) {w : Delivery} (hp : t.total (fun _ => 1) < 1024)
    (hr : t.total (fun v => (decide (v.radio = w.radio)).toNat) < 8) : PlacesOk (t.put d w) := by
  have h1 := Table.total_put (fun _ : Delivery => 1) h.sorted d w
  refine ⟨Table.sorted_put h.sorted, by omega, fun r => ?_⟩
  have h2 := Table.total_put (fun v : Delivery => (decide (v.radio = r)).toNat) h.sorted d w
  by_cases e : w.radio = r
  · subst e; simp only [decide_true, Bool.toNat_true] at h2; omega
  · have := h.radio r; simp only [e, decide_false, Bool.toNat_false] at h2; omega

theorem PlacesOk.nil : PlacesOk [] := ⟨rfl, Nat.zero_le _, fun _ => Nat.zero_le _⟩

theorem PlacesOk.del {t : Table Delivery} (h : PlacesOk t) (d : Nat) : PlacesOk (t.del d) := by
  have key := fun f : Delivery → Nat => Table.total_del f t d
  have h1 := key (fun _ => 1)
  have h2 := h.part
  refine ⟨Table.sorted_del h.sorted, by omega, fun r => ?_⟩
  have h3 := key (fun v => (decide (v.radio = r)).toNat)
  have h4 := h.radio r
  omega

/-! ### Class lists -/

theorem ListsOk.get_replay {t : Table RadioLists} (h : ListsOk t) (r : Nat) : (t.get {} r).replay.length ≤ 4 := by
  rcases Table.get_mem (d := {}) t r with e | e
  · rw [e]; simp
  · exact h.replay _ e

theorem ListsOk.set {t : Table RadioLists} (h : ListsOk t) (r : Nat) {l : RadioLists} (hl : l.replay.length ≤ 4) :
    ListsOk (t.set {} r l) := by
  refine ⟨Table.wf_set h.wf, fun e he => ?_⟩
  rcases Table.mem_set he with rfl | he
  exacts [hl, h.replay e he]

theorem ListsOk.mapVals {t : Table RadioLists} (h : ListsOk t) {f : RadioLists → RadioLists}
    (hf : ∀ l, (f l).replay.length ≤ l.replay.length) : ListsOk (t.mapVals {} f) := by
  refine ⟨Table.wf_mapVals f h.wf, fun e he => ?_⟩
  obtain ⟨v, hv, hef, -⟩ := Table.mem_mapVals he
  rw [hef]; exact le_trans (hf v) (h.replay _ hv)

/-! ### Updates of one table -/

variable {s : State}

/-- A chain of operations, each of which keeps it. -/
theorem Ok.foldl {α : Type} {f : State → α → State} (hf : ∀ s a, Ok s → Ok (f s a)) (l : List α) {s : State}
    (h : Ok s) : Ok (l.foldl f s) := by
  induction l generalizing s with
  | nil => exact h
  | cons a l ih => exact ih (hf s a h)

/-- A chain of operations that also carries a value. -/
theorem Ok.foldl_snd {α β : Type} {f : β × State → α → β × State} (hf : ∀ x a, Ok x.2 → Ok (f x a).2)
    (l : List α) {x : β × State} (h : Ok x.2) : Ok (l.foldl f x).2 := by
  induction l generalizing x with
  | nil => exact h
  | cons a l ih => exact ih (hf x a h)

theorem Ok.snd {β : Type} {x : β × State} {b : β} {t : State} (h : Ok x.2) (he : x = (b, t)) : Ok t := by
  rw [he] at h; exact h

theorem Ok.setRadio (h : Ok s) (r : Nat) (v : Radio) : Ok (s.setRadio r v) := { h with radios := Table.wf_set h.radios }
theorem Ok.modRadio (h : Ok s) (r : Nat) (f : Radio → Radio) : Ok (s.modRadio r f) := h.setRadio _ _
theorem Ok.setPort (h : Ok s) (p : Nat) (v : Port) : Ok (s.setPort p v) := { h with ports := Table.wf_set h.ports }
theorem Ok.modPortCtrs (h : Ok s) (p : Nat) (f : PortCtrs → PortCtrs) : Ok (s.modPortCtrs p f) := h.setPort _ _

theorem Ok.setStation (h : Ok s) {k : Nat} {v st : Station} (hk : s.station k = some st)
    (hl : v.Lighter st := by exact ⟨le_rfl, id⟩) : Ok (s.setStation k v) :=
  { h with stations := h.stations.put_lighter hk hl }

theorem Ok.modStation_at (h : Ok s) (k : Nat) (f : Station → Station)
    (hf : ∀ st, s.station k = some st → (f st).Lighter st) : Ok (s.modStation k f) := by
  unfold State.modStation
  split
  · next st hk => exact h.setStation hk (hf st hk)
  · exact h

theorem Ok.modStation (h : Ok s) (k : Nat) (f : Station → Station)
    (hf : ∀ st, (f st).Lighter st := by exact fun _ => ⟨le_rfl, id⟩) : Ok (s.modStation k f) :=
  h.modStation_at k f fun st _ => hf st

/-- A new record, which holds no frames and has no pin. -/
theorem Ok.addStation (h : Ok s) (k : Nat) {v : Station} (hv : v.hold = []) (hp : v.pinned = false ∨ s.pinnedCount < 512) :
    Ok (s.setStation k v) := by
  refine { h with stations := h.stations.put_new hv (hp.imp id fun hc => ?_) }
  exact lt_of_eq_of_lt (Table.length_filter_eq_total s.stations Station.pinned).symm hc

/-- A record takes a pin while the pinned set has room (R11). -/
theorem Ok.pinStation (h : Ok s) {k : Nat} {v st : Station} (hk : s.station k = some st) (hp : s.pinnedCount < 512)
    (hl : v.hold.length ≤ st.hold.length) : Ok (s.setStation k v) := by
  have h1 := h.stations.held
  have h2 : s.stations.total (fun st => st.pinned.toNat) < 512 :=
    lt_of_eq_of_lt (Table.length_filter_eq_total s.stations Station.pinned).symm hp
  have h3 := Bool.toNat_le v.pinned
  have hk' : s.stations.find k = some st := hk
  refine { h with stations := h.stations.put (le_trans hl (h.stations.queues _ (Table.mem_of_find hk'))) ?_ (by omega) }
  simp only [Table.weightAt, hk', Option.map_some, Option.getD_some]; omega

theorem Ok.delStation (h : Ok s) (k : Nat) : Ok (s.delStation k) := { h with stations := h.stations.del k }
theorem Ok.modStationCtrs (h : Ok s) (f : StationCtrs → StationCtrs) : Ok (s.modStationCtrs f) := h

/-- A change of the roam engine that keeps its two tables in order. -/
theorem Ok.modRoam (h : Ok s) {f : Roam → Roam} (hc : (f s.roam).ctxs.sorted = true)
    (hm : (f s.roam).marks.sorted = true) : Ok (s.modRoam f) :=
  { h with ctxs := hc, marks := hm }

theorem Ok.modRoamCtrs (h : Ok s) (f : RoamCtrs → RoamCtrs) : Ok (s.modRoamCtrs f) := h
theorem Ok.modAdmCtrs (h : Ok s) (f : AdmCtrs → AdmCtrs) : Ok (s.modAdmCtrs f) := h
theorem Ok.modSweep (h : Ok s) (f : Sweep → Sweep) : Ok (s.modSweep f) := h
theorem Ok.setEntry (h : Ok s) (p : Nat) (e : MapEntry) : Ok (s.setEntry p e) := { h with map := Table.wf_set h.map }
theorem Ok.modEntry (h : Ok s) (p : Nat) (f : MapEntry → MapEntry) : Ok (s.modEntry p f) := h.setEntry _ _
theorem Ok.setOccupancy (h : Ok s) (z k : Nat) : Ok (s.setOccupancy z k) :=
  { h with occupancy := Table.wf_set h.occupancy }
theorem Ok.modReplayCtrs (h : Ok s) (f : ReplayCtrs → ReplayCtrs) : Ok (s.modReplayCtrs f) := h
theorem Ok.setReel (h : Ok s) (r : Nat) (v : Reel) : Ok (s.setReel r v) := { h with reels := Table.wf_set h.reels }
theorem Ok.modReelCfg (h : Ok s) (r : Nat) (f : ReelCfg → ReelCfg) : Ok (s.modReelCfg r f) := h.setReel _ _
theorem Ok.modReelCtrs (h : Ok s) (r : Nat) (f : ReelCtrs → ReelCtrs) : Ok (s.modReelCtrs r f) := h.setReel _ _
theorem Ok.setSlot (h : Ok s) (k : Nat) (v : Slot) : Ok (s.setSlot k v) := { h with slots := Table.wf_set h.slots }
theorem Ok.modSlot (h : Ok s) (k : Nat) (f : Slot → Slot) : Ok (s.modSlot k f) := h.setSlot _ _
theorem Ok.setWaitList (h : Ok s) (r : Nat) (l : List Nat) : Ok (s.setWaitList r l) :=
  { h with waiting := Table.wf_set h.waiting }
theorem Ok.freedRoom (h : Ok s) : Ok s.freedRoom := h
theorem Ok.lookForSlot (h : Ok s) : Ok s.lookForSlot := h
theorem Ok.modGov (h : Ok s) (f : Governor → Governor) : Ok (s.modGov f) := h
theorem Ok.modGovCtrs (h : Ok s) (f : GovCtrs → GovCtrs) : Ok (s.modGovCtrs f) := h
theorem Ok.modMgmt (h : Ok s) (f : Mgmt → Mgmt) : Ok (s.modMgmt f) := h
theorem Ok.sendRequest (h : Ok s) (r : Request) : Ok (s.sendRequest r) := h
theorem Ok.setEv (h : Ok s) (e : Scratch) : Ok { s with ev := e } := h
theorem Ok.setNoticeEntry (h : Ok s) (x : Nat) (e : NoticeEntry) : Ok (s.setNoticeEntry x e) :=
  { h with entries := Table.wf_set h.entries }
theorem Ok.setErrState (h : Ok s) (c : ErrClass) (v : ErrState) : Ok (s.setErrState c v) :=
  { h with classes := Table.wf_set h.classes }
theorem Ok.countQuarantine (h : Ok s) : Ok { s with err := { s.err with quarantines := bump s.err.quarantines } } := h

/-- A change of the error unit that keeps its tables. -/
theorem Ok.setErr (h : Ok s) {e : ErrorUnit} (hm : e.mapping = s.err.mapping := by rfl)
    (hc : e.classes = s.err.classes := by rfl) (hn : e.entries = s.err.entries := by rfl) : Ok { s with err := e } :=
  { h with
    mapping := by show Table.sorted e.mapping = true; rw [hm]; exact h.mapping
    classes := by show Table.wf _ e.classes = true; rw [hc]; exact h.classes
    entries := by show Table.wf _ e.entries = true; rw [hn]; exact h.entries }

theorem Ok.mapPorts (h : Ok s) (f : Port → Port) : Ok { s with ports := s.ports.mapVals {} f } :=
  { h with ports := Table.wf_mapVals f h.ports }

theorem Ok.mapRadios (h : Ok s) (f : Radio → Radio) : Ok { s with radios := s.radios.mapVals {} f } :=
  { h with radios := Table.wf_mapVals f h.radios }

theorem Ok.mapLists (h : Ok s) {f : RadioLists → RadioLists} (hf : ∀ l, (f l).replay.length = l.replay.length) :
    Ok { s with egress := { s.egress with lists := s.egress.lists.mapVals {} f } } :=
  { h with lists := h.lists.mapVals fun l => le_of_eq (hf l) }

theorem Ok.modPresentRadios (h : Ok s) (f : Radio → Radio) : Ok (s.modPresentRadios f) := h.mapRadios _

/-- A change of the replay engine that keeps its tables. -/
theorem Ok.modReplay (h : Ok s) {f : Replay → Replay} (hr : (f s.replay).reels = s.replay.reels := by rfl)
    (hs : (f s.replay).slots = s.replay.slots := by rfl) (hd : (f s.replay).deliveries = s.replay.deliveries := by rfl)
    (hw : (f s.replay).waiting = s.replay.waiting := by rfl) : Ok (s.modReplay f) :=
  { h with
    reels := by show Table.wf _ (f s.replay).reels = true; rw [hr]; exact h.reels
    slots := by show Table.wf _ (f s.replay).slots = true; rw [hs]; exact h.slots
    deliveries := by show PlacesOk (f s.replay).deliveries; rw [hd]; exact h.deliveries
    waiting := by show Table.wf _ (f s.replay).waiting = true; rw [hw]; exact h.waiting }

/-- A change of the admission engine that keeps its tables. -/
theorem Ok.modAdm (h : Ok s) {f : Admission → Admission} (hm : (f s.adm).map = s.adm.map := by rfl)
    (ho : (f s.adm).occupancy = s.adm.occupancy := by rfl) : Ok (s.modAdm f) :=
  { h with
    map := by show Table.wf _ (f s.adm).map = true; rw [hm]; exact h.map
    occupancy := by show Table.wf _ (f s.adm).occupancy = true; rw [ho]; exact h.occupancy }

/-- A delivery replaced by one at the same radio. -/
theorem Ok.setDelivery (h : Ok s) {d : Nat} {v w : Delivery} (hd : s.delivery d = some v)
    (hr : w.radio = v.radio := by rfl) : Ok (s.setDelivery d w) :=
  { h with deliveries := h.deliveries.put_same hd hr }

theorem Ok.setLists (h : Ok s) (r : Nat) {l : RadioLists} (hl : l.replay.length ≤ 4) : Ok (s.setLists r l) :=
  { h with lists := h.lists.set r hl }

theorem Ok.replay_length (h : Ok s) (r : Nat) : (s.list r .replay).length ≤ 4 := h.lists.get_replay r

/-- A class list replaced by one that is not too long for a REPLAY list. -/
theorem Ok.setList (h : Ok s) (r : Nat) (c : Cls) {b : List Burst} (hb : c = .replay → b.length ≤ 4) :
    Ok (s.setList r c b) := by
  refine h.setLists r ?_
  cases c
  case replay => exact hb rfl
  all_goals exact h.replay_length r

/-- A class list replaced by one that is no longer. -/
theorem Ok.setList_le (h : Ok s) (r : Nat) (c : Cls) {b : List Burst} (hb : b.length ≤ (s.list r c).length) :
    Ok (s.setList r c b) :=
  h.setList r c fun hc => by subst hc; exact le_trans hb (h.replay_length r)

/-- The counts of the egress pool are not spoken of. -/
theorem Ok.setPool (h : Ok s) (b k : Nat) (a d : Ctr) :
    Ok { s with egress := { s.egress with buffers := b, bursts := k, accepted := a, declined := d } } := h

end Sys2Proof.Machine
end

section
/-! That every operation keeps the pools and the tables. -/

-- Proved one after another: beside the tests' threads, more threads would not fit the memory the check allows.
set_option Elab.async false

namespace Sys2Proof.Machine

variable {s : State}

/-! ### Ops -/

theorem Ok.askPort (h : Ok s) (p : Nat) : Ok (s.askPort p) := by
  unfold State.askPort
  split
  · exact h
  · exact h

theorem Ok.askRadio (h : Ok s) (r : Nat) : Ok (s.askRadio r) := by
  unfold State.askRadio
  split
  · exact h.askPort _
  · exact h

theorem Ok.askAll (h : Ok s) : Ok s.askAll := (((h.askPort 0).askPort 1).askPort 2).askPort 3

/-! ### Flags -/

/-- A notice changes no record, whatever records the state is taken with. -/
theorem OkWith.notice {t : Table Station} (h : OkWith t s) (k : NoticeKind) (body : List Byte) :
    OkWith t (Machine.notice k body s) := by
  have hs : ∀ n e, OkWith t (s.setNoticeEntry n e) := fun _ _ => { h with entries := Table.wf_set h.entries }
  unfold Machine.notice
  simp only
  split
  · exact hs _ _
  · split
    · exact hs _ _
    · exact hs _ _

theorem Ok.notice (h : Ok s) (k : NoticeKind) (body : List Byte) : Ok (Machine.notice k body s) := by
  obtain ⟨tx, es, he⟩ := notice_only k body s
  have hn := OkWith.notice h k body
  rw [he] at hn ⊢
  exact hn

theorem OkWith.recordFirst {t : Table Station} (h : OkWith t s) (o : Occurrence) :
    OkWith t (Machine.recordFirst o s) := by
  unfold Machine.recordFirst
  split
  · exact h
  · exact h

theorem OkWith.takeOccurrence {t : Table Station} (h : OkWith t s) (o : Occurrence) :
    OkWith t (Machine.takeOccurrence o s) := by
  have hs : ∀ e, OkWith t (s.setErrState o.cls e) := fun _ => { h with classes := Table.wf_set h.classes }
  unfold Machine.takeOccurrence
  simp only
  split
  · exact hs _
  · exact ((hs _).recordFirst o).notice _ _

/-- An occurrence changes no record (R178). -/
theorem occur_stations (o : Occurrence) (s : State) : (occur o s).stations = s.stations := by
  unfold occur
  split
  · rfl
  · obtain ⟨tx, e, he⟩ := takeOccurrence_only o s
    rw [he]

theorem Ok.takeOccurrence (h : Ok s) (o : Occurrence) : Ok (Machine.takeOccurrence o s) := by
  obtain ⟨tx, e, he⟩ := takeOccurrence_only o s
  have hn := OkWith.takeOccurrence h o
  rw [he] at hn ⊢
  exact hn

theorem OkWith.occur {t : Table Station} (h : OkWith t s) (o : Occurrence) : OkWith t (Machine.occur o s) := by
  unfold Machine.occur
  split
  · exact h
  · exact h.takeOccurrence o

theorem Ok.occur (h : Ok s) (o : Occurrence) : Ok (Machine.occur o s) := by
  unfold Ok
  rw [occur_stations]
  exact OkWith.occur h o

/-! ### Airtime -/

theorem Ok.changeSurge (h : Ok s) (new : Surge) : Ok (Machine.changeSurge new s) := by
  unfold Machine.changeSurge
  simp only
  have h1 : Ok (surgeNotice (s.modGov (fun g => { g with surge := new }))) := (h.modGov _).notice _ _
  split
  · exact h1
  · exact ((h1.modPresentRadios _).modGovCtrs _).askAll

theorem Ok.takeSurge (h : Ok s) (was : Bool) : Ok (Machine.takeSurge was s) := by
  unfold Machine.takeSurge
  simp only
  split
  · exact h
  · split
    · split
      · exact Ok.changeSurge (s := s.modGovCtrs _) h _
      · exact h.changeSurge _
      · exact h
    · split
      · exact h.changeSurge _
      · exact h

theorem Ok.stageExpired (h : Ok s) (k : Nat) : Ok (Machine.stageExpired k s) := h.changeSurge _

theorem Ok.grantRequest (h : Ok s) (r : Nat) (cs : List Cls) : Ok (Machine.grantRequest r cs s).2 := by
  unfold Machine.grantRequest
  simp only
  split <;> exact h.setRadio _ _

/-! ### Egress -/

theorem Ok.raiseEgress (h : Ok s) (x : Option Nat) : Ok (Machine.raiseEgress x s) := by
  unfold Machine.raiseEgress
  split
  · exact h.modStation _ _
  · exact h

theorem Station.applyPending_lighter (st : Station) : st.applyPending.Lighter st := by
  unfold Station.applyPending
  split
  · split <;> exact ⟨le_rfl, id⟩
  · exact .refl _

theorem Ok.lowerEgress (h : Ok s) (x : Option Nat) : Ok (Machine.lowerEgress x s) := by
  unfold Machine.lowerEgress
  split
  · exact h.modStation _ _ fun st => (Station.applyPending_lighter _).trans ⟨le_rfl, id⟩
  · exact h

theorem Ok.askIfEligible (h : Ok s) (r : Nat) (c : Cls) (was new : List Burst) (u : Bool) :
    Ok (Machine.askIfEligible r c was new u s) := by
  unfold Machine.askIfEligible
  split
  · exact h.askRadio r
  · exact h

/-- A frame that joins a tail opens no burst (R47). -/
theorem mergeTail_length {f : Frame} {l l' : List Burst} (h : mergeTail f l = some l') : l'.length = l.length := by
  induction l generalizing l' with
  | nil => simp [mergeTail] at h
  | cons b bs ih =>
    cases bs with
    | nil =>
      simp only [mergeTail] at h
      split at h <;> simp only [Option.some.injEq, reduceCtorEq] at h
      rw [← h]; rfl
    | cons b' bs =>
      simp only [mergeTail, Option.map_eq_some_iff] at h
      obtain ⟨m, hm, rfl⟩ := h
      simp [ih hm]

/-- A REPLAY list takes a new burst only while it holds fewer than 4 (R45, R47). -/
theorem place_replay {s : State} {r : Nat} {f : Frame} {l : List Burst} {opened : Bool}
    (h : place s r .replay f = some (l, opened)) (hl : (s.list r .replay).length ≤ 4) : l.length ≤ 4 := by
  unfold place at h
  simp only at h
  split at h
  · split at h
    · next hm =>
      simp only [Option.some.injEq, Prod.mk.injEq] at h
      rw [← h.1, mergeTail_length hm]; exact hl
    · split at h
      · next hc =>
        simp only [Option.some.injEq, Prod.mk.injEq] at h
        have h4 : ¬ 4 ≤ (s.list r .replay).length := fun hx => hc.2 ⟨trivial, hx⟩
        rw [← h.1]
        simp only [openTail, List.length_append, List.length_map, List.length_cons, List.length_nil]
        omega
      · simp at h
  · simp at h

theorem Ok.acceptFrame (h : Ok s) {r : Nat} {c : Cls} {f : Frame} {l : List Burst} {opened : Bool}
    (hp : place s r c f = some (l, opened)) : Ok (Machine.acceptFrame r c f l opened s) := by
  unfold Machine.acceptFrame
  refine Ok.askIfEligible (Ok.raiseEgress (Ok.setPool (h.setList r c fun hc => ?_) _ _ _ _) _) _ _ _ _ _
  subst hc; exact place_replay hp (h.replay_length r)

theorem Ok.offer (h : Ok s) (sort : OfferSort) (r : Nat) (c : Cls) (f : Frame) : Ok (Machine.offer sort r c f s).2 := by
  unfold Machine.offer
  split
  · exact h.modRadio _ _
  · split
    · next hp => exact h.acceptFrame hp
    · split
      · exact h
      · exact (h.modRadio _ _).occur _

theorem Ok.offerService (h : Ok s) (r : Nat) (a : Addr) (code : Byte) (body : List Byte) :
    Ok (Machine.offerService r a code body s).2 := h.offer _ _ _ _

theorem takeFrames_length (x : Nat) (l : List Burst) : (takeFrames x l).2.length ≤ l.length := by
  induction l with
  | nil => exact le_rfl
  | cons b bs ih =>
    simp only [takeFrames]
    split
    · simpa using ih
    · split
      · simp only [List.length_cons]; omega
      · simpa using ih

theorem Ok.takeFromList (h : Ok s) (x r : Nat) (c : Cls) : Ok (Machine.takeFromList x r c s).2 := by
  unfold Machine.takeFromList
  simp only
  split
  · exact h
  · exact Ok.askIfEligible (Ok.setPool (h.setList_le r c (takeFrames_length x _)) _ _ _ _).freedRoom _ _ _ _ _

theorem Ok.takeFromRadio (h : Ok s) (x r : Nat) : Ok (Machine.takeFromRadio x r s).2 := by
  unfold Machine.takeFromRadio
  refine Ok.foldl_snd (fun y c hy => ?_) _ (x := ([], s)) h
  exact hy.takeFromList x r c



theorem Ok.discardQueued (h : Ok s) (x : Nat) : Ok (Machine.discardQueued x s).2 := by
  unfold Machine.discardQueued
  have h1 : Ok (s.egress.lists.keys.foldl (fun acc r =>
      let (fs, s1) := Machine.takeFromRadio x r acc.2
      (acc.1 + fs.length, s1)) (0, s)).2 := by
    refine Ok.foldl_snd (fun y r hy => ?_) _ (x := (0, s)) h
    have hy' := hy.takeFromRadio x r
    generalize Machine.takeFromRadio x r y.2 = q at hy' ⊢
    exact hy'
  generalize s.egress.lists.keys.foldl _ (0, s) = q at h1 ⊢
  obtain ⟨n, u⟩ := q
  exact Ok.mapLists (s := u) h1 fun l => List.length_map _



theorem Ok.lowerAll (h : Ok s) (l : List Frame) : Ok (l.foldl (fun s f => Machine.lowerEgress f.handle s) s) :=
  Ok.foldl (fun _ f hs => hs.lowerEgress f.handle) l h

theorem Ok.purge (h : Ok s) (r : Nat) : Ok (Machine.purge r s) := by
  unfold Machine.purge
  simp only
  split
  · exact h
  · refine Ok.freedRoom (Ok.modRadio (Ok.lowerAll (Ok.setPool (h.setLists r ?_) _ _ _ _) _) _ _)
    exact le_trans (List.length_filter_le _ _) (h.replay_length r)

theorem Ok.dispatch (h : Ok s) (p r : Nat) (cs : List Cls) (c : Cls) : Ok (Machine.dispatch p r cs c s) := by
  unfold Machine.dispatch
  split
  · exact h
  · next hl => exact ((h.setList_le r c (by rw [hl]; exact le_rfl)).setRadio _ _).setPort _ _

theorem Ok.arbiterOver (h : Ok s) (p : Nat) (rs : List Nat) : Ok (Machine.arbiterOver p rs s) := by
  induction rs generalizing s with
  | nil => exact h
  | cons r rs ih =>
    unfold Machine.arbiterOver
    simp only
    have hg := h.grantRequest r (eligible (s.lists r))
    split
    · next heq => exact (hg.snd heq).dispatch _ _ _ _
    · next heq => exact ih (hg.snd heq)

theorem Ok.runArbiter (h : Ok s) (p : Nat) : Ok (Machine.runArbiter p s) := by
  unfold Machine.runArbiter
  split
  · exact h
  · exact h.arbiterOver p _

theorem Ok.runArbiters (h : Ok s) : Ok (Machine.runArbiters s) :=
  Ok.foldl (fun _ p hs => hs.runArbiter p) _ (h.setEv _)

theorem Ok.closeListByAge (h : Ok s) (r : Nat) (c : Cls) : Ok (Machine.closeListByAge r c s) := by
  unfold Machine.closeListByAge
  simp only
  split
  · exact h
  · exact Ok.askIfEligible (h.setList_le r c (by simp)) _ _ _ _ _

theorem Ok.closeByAge (h : Ok s) (r : Nat) : Ok (Machine.closeByAge r s) :=
  Ok.foldl (fun _ c hs => hs.closeListByAge r c) _ h

theorem Ok.finishBurst (h : Ok s) (r : Nat) (c : Cls) : Ok (Machine.finishBurst r c s).2 := by
  unfold Machine.finishBurst
  split
  · exact h
  · next b bs hl =>
    have h1 : Ok (s.setList r c bs) := h.setList_le r c (by simp [hl])
    exact Ok.askIfEligible (Ok.setPool (h1.lowerAll _) _ _ _ _).freedRoom _ _ _ _ _

theorem Ok.completeTransmit (h : Ok s) (p : Nat) : Ok (Machine.completeTransmit p s) := by
  unfold Machine.completeTransmit
  split
  · exact h
  · exact ((h.finishBurst _ _).setPort _ _).askPort _

/-! ### Record memory -/

theorem Ok.failedChecks (h : Ok s) (check : List Nat) : Ok (Machine.failedChecks check s).2 := h

theorem Ok.markAll (h : Ok s) : Ok (s.modMem RecMem.markAll) := h

/-! ### Updates of fields that are not spoken of -/

/-! ### Replay -/

theorem Ok.modSub (h : Ok s) (x : Nat) (f : Sub → Sub) : Ok (s.modSub x f) := h.modStation _ _

theorem Ok.setRider (h : Ok s) (x : Nat) (r : Option Rider) : Ok (s.setRider x r) := h.modSub _ _

theorem Ok.modDelivery (h : Ok s) (d : Nat) (f : Delivery → Delivery)
    (hf : ∀ v, (f v).radio = v.radio := by exact fun _ => rfl) : Ok (s.modDelivery d f) := by
  unfold State.modDelivery
  split
  · next hd => exact h.setDelivery hd (hf _)
  · exact h

theorem Ok.readChunk (h : Ok s) (d : Nat) : Ok (Machine.readChunk d s) := by
  unfold Machine.readChunk
  split
  · exact h
  · next hd => exact ((h.setDelivery hd).modReplayCtrs _).sendRequest _

/-- A delivery is made where the places allow it (R149, R151). -/
theorem Ok.createDelivery (h : Ok s) (x slot k : Nat) {r : Nat} (hp : s.placeFree r = true) :
    Ok (Machine.createDelivery x r slot k s) := by
  unfold State.placeFree State.deliveriesAt at hp
  simp only [Bool.and_eq_true, decide_eq_true_eq, Table.length_eq_total s.replay.deliveries,
    Table.length_filter_eq_total s.replay.deliveries (fun v => decide (v.radio = r))] at hp
  unfold Machine.createDelivery
  refine Ok.readChunk (Ok.setRider (Ok.modReplayCtrs (Ok.modReplay ?_) _) _ _) _
  exact { h with deliveries := h.deliveries.put_new _ hp.2 hp.1 }

theorem Ok.joinDelivery (h : Ok s) (x d : Nat) : Ok (Machine.joinDelivery x d s) :=
  ((h.modDelivery _ _).setRider _ _).modReplayCtrs _

theorem Ok.joinWaiting (h : Ok s) (x r : Nat) : Ok (Machine.joinWaiting x r s) := (h.setWaitList _ _).setRider _ _

theorem Ok.takeSegment (h : Ok s) (x r reel k : Nat) : Ok (Machine.takeSegment x r reel k s) := by
  unfold Machine.takeSegment
  split
  · exact h.setRider _ _
  · split
    · exact h.joinDelivery _ _
    · split
      · next hp => exact h.createDelivery _ _ _ hp.2
      · exact h.joinWaiting _ _

theorem Ok.applySought (h : Ok s) (x : Nat) (y : Sought) : Ok (Machine.applySought x y s) := by
  unfold Machine.applySought
  simp only
  split
  · exact h.modSub _ _
  · exact (h.modSub _ _).modReplayCtrs _

theorem Ok.seekAndTake (h : Ok s) (b : Bool) (x : Nat) : Ok (Machine.seekAndTake b x s) := by
  unfold Machine.seekAndTake
  split
  · exact h
  · split
    · simp only
      split
      · exact (h.applySought _ _).takeSegment _ _ _ _
      · exact (h.applySought _ _).setRider _ _
    · exact h

theorem Ok.serveStation (h : Ok s) (r x : Nat) : Ok (Machine.serveStation r x s) := by
  unfold Machine.serveStation
  split
  · exact h
  · split
    · exact h
    · simp only
      split
      · exact ((h.applySought _ _).setWaitList _ _).setRider _ _
      · split
        · exact ((h.applySought _ _).setWaitList _ _).joinDelivery _ _
        · split
          · next hp => exact ((h.applySought _ _).setWaitList _ _).createDelivery _ _ _ hp
          · exact h.applySought _ _

theorem Ok.serveList (h : Ok s) (r : Nat) : Ok (Machine.serveList r s) :=
  Ok.foldl (fun _ x hs => hs.serveStation r x) _ h

theorem Ok.serveOthers (h : Ok s) (r : Nat) : Ok (Machine.serveOthers r s) := by
  unfold Machine.serveOthers
  refine Ok.foldl (fun s q hs => ?_) _ h
  split
  · exact hs.serveList q
  · exact hs

theorem Ok.servePlaces (h : Ok s) (r : Nat) : Ok (Machine.servePlaces r s) := (h.serveList r).serveOthers r

theorem Ok.freeDelivery (h : Ok s) (d : Nat) : Ok (Machine.freeDelivery d s) :=
  { h with deliveries := h.deliveries.del d }

theorem Ok.dropDelivery (h : Ok s) (d : Nat) : Ok (Machine.dropDelivery d s) := by
  unfold Machine.dropDelivery
  split
  · exact h
  · exact (h.freeDelivery d).modRadio _ _

theorem Ok.abandonDelivery (h : Ok s) (d : Nat) : Ok (Machine.abandonDelivery d s) := by
  unfold Machine.abandonDelivery
  split
  · exact h
  · exact (h.dropDelivery d).servePlaces _

theorem Ok.leaveRider (h : Ok s) (x : Nat) (radio : Option Nat) (rider : Option Rider) :
    Ok (Machine.leaveRider x radio rider s) := by
  unfold Machine.leaveRider
  split
  · split
    · exact h
    · next hd =>
      simp only
      split
      · exact (h.setDelivery hd).abandonDelivery _
      · exact h.setDelivery hd
  · split
    · exact h.setWaitList _ _
    · exact h
  · exact h

theorem Ok.lessSubscriber (h : Ok s) (radio : Option Nat) : Ok (Machine.lessSubscriber radio s) := by
  unfold Machine.lessSubscriber
  split
  · exact h.modRadio _ _
  · exact h

theorem Ok.pauseSub (h : Ok s) (x : Nat) : Ok (Machine.pauseSub x s) := by
  unfold Machine.pauseSub
  split
  · exact h
  · split
    · exact h
    · exact ((h.setRider _ _).lessSubscriber _).leaveRider _ _ _

theorem Ok.removeSub (h : Ok s) (x : Nat) : Ok (Machine.removeSub x s) := by
  unfold Machine.removeSub
  split
  · exact h
  · next hx =>
    split
    · exact h
    · simp only
      split
      · exact (h.setStation hx).modReplayCtrs _
      · exact (((h.setStation hx).modReplayCtrs _).lessSubscriber _).leaveRider _ _ _

theorem Ok.resumeSub (h : Ok s) (x : Nat) : Ok (Machine.resumeSub x s) := by
  unfold Machine.resumeSub
  split
  · exact h
  · split
    · split
      · exact (((h.setRider _ _).modRadio _ _).modReplayCtrs _).seekAndTake _ _
      · exact h.removeSub _
    · exact h

theorem Ok.advanceRider (h : Ok s) (q x : Nat) : Ok (Machine.advanceRider q x s) := by
  unfold Machine.advanceRider
  split
  · exact h
  · split
    · exact (h.removeSub _).modReplayCtrs _
    · exact (h.modSub _ _).seekAndTake _ _
    · exact (h.modSub _ _).seekAndTake _ _

theorem Ok.completeDelivery (h : Ok s) (d : Nat) : Ok (Machine.completeDelivery d s) := by
  unfold Machine.completeDelivery
  split
  · exact h
  · exact (Ok.foldl (fun _ x hs => hs.advanceRider _ x) _ ((h.freeDelivery d).modReplayCtrs _)).servePlaces _

theorem Ok.offerFrames (h : Ok s) (d r : Nat) (fs : List Frame) : Ok (Machine.offerFrames d r fs s).2 := by
  induction fs generalizing s with
  | nil => exact h
  | cons f fs ih =>
    unfold Machine.offerFrames
    have ho := h.offer .declinable r .replay f
    split
    · next heq => exact ih (((ho.snd heq).modDelivery _ _).modReplayCtrs _)
    · next heq => exact ih ((ho.snd heq).modDelivery _ _)
    · next heq => exact ho.snd heq

theorem Ok.offerHeld (h : Ok s) (d : Nat) : Ok (Machine.offerHeld d s) := by
  unfold Machine.offerHeld
  split
  · exact h
  · next v _ =>
    split
    · exact h
    · next frames _ =>
      have ho := h.offerFrames d v.radio frames
      split
      next left s1 heq =>
      have h2 := (ho.snd heq).modDelivery d (fun v => { v with chunk := .held left })
      simp only
      split
      · split
        · exact h2
        · exact h2.modReplay
      · have h3 : Ok ((s1.modDelivery d (fun v => { v with chunk := .held left })).modReplay
            (fun p => { p with stalled := p.stalled.filter (· ≠ d) })) := h2.modReplay
        split
        · exact h3
        · split
          · exact h3.completeDelivery d
          · exact h3.readChunk d

theorem Ok.serveStalled (h : Ok s) : Ok (Machine.serveStalled s) := Ok.foldl (fun _ d hs => hs.offerHeld d) _ h

theorem Ok.lapRider (h : Ok s) (reel x : Nat) : Ok (Machine.lapRider reel x s) := by
  unfold Machine.lapRider
  split
  · simp only
    split
    · exact (h.modSub _ _).seekAndTake _ _
    · exact h.seekAndTake _ _
  · exact h

theorem Ok.lapDelivery (h : Ok s) (d : Nat) : Ok (Machine.lapDelivery d s) := by
  unfold Machine.lapDelivery
  split
  · exact h
  · exact (Ok.foldl (fun _ x hs => hs.lapRider _ x) _ ((h.freeDelivery d).modRadio _ _)).servePlaces _

theorem Ok.loseDeliveries (h : Ok s) (r : Nat) : Ok (Machine.loseDeliveries r s) := by
  unfold Machine.loseDeliveries
  exact Ok.foldl (fun _ d hs => (hs.dropDelivery d).serveOthers r) _ (h.setWaitList r [])

theorem Ok.wakeReel (h : Ok s) (reel : Nat) : Ok (Machine.wakeReel reel s) := by
  unfold Machine.wakeReel
  refine Ok.foldl (fun s x hs => ?_) _ h
  simp only
  split
  · exact hs.seekAndTake _ _
  · exact (hs.seekAndTake _ _).modReplayCtrs _

/-! ### Stations -/

theorem Station.rederive_lighter (st : Station) : st.rederive.Lighter st := by
  unfold Station.rederive
  split
  · exact ⟨le_rfl, id⟩
  · split <;> exact ⟨le_rfl, id⟩

theorem Ok.rederive (h : Ok s) (x : Nat) : Ok (s.modStation x Station.rederive) :=
  h.modStation _ _ Station.rederive_lighter

theorem Ok.recompute (h : Ok s) (x : Nat) : Ok (Machine.recompute x s) := by
  unfold Machine.recompute
  split
  · exact h
  · next hx =>
    simp only
    split
    · exact (h.setStation hx).rederive x
    · exact ((h.setStation hx).removeSub _).rederive x

theorem Ok.setBinding (h : Ok s) (x : Nat) (b : Binding) : Ok (Machine.setBinding x b s) :=
  (h.modStation _ _).recompute _

theorem Ok.unbind (h : Ok s) (x b w : Nat) : Ok (Machine.unbind x b w s) := by
  unfold Machine.unbind
  split
  · exact ((h.modStation _ _).modAdmCtrs _).recompute _
  · exact h.modAdmCtrs _

theorem Ok.clearMark (h : Ok s) (x : Nat) : Ok (Machine.clearMark x s) := { h with marks := Table.sorted_del h.marks }
theorem Ok.setMark (h : Ok s) (x r : Nat) : Ok (Machine.setMark x r s) := { h with marks := Table.sorted_put h.marks }
theorem Ok.clearMarksOf (h : Ok s) (r : Nat) : Ok (Machine.clearMarksOf r s) :=
  { h with marks := Table.sorted_filter _ h.marks }
theorem Ok.moreStations (h : Ok s) (r : Nat) : Ok (Machine.moreStations r s) := h.modRadio _ _
theorem Ok.lessStations (h : Ok s) (r : Nat) : Ok (Machine.lessStations r s) := h.modRadio _ _

/-! ### Roam -/

theorem Ok.holdOverflow (h : Ok s) (x : Nat) (r : Option Nat) (f : Frame) : Ok (Machine.holdOverflow x r f s) :=
  (h.modRoamCtrs _).occur _

theorem Ok.hold (h : Ok s) (x : Nat) (f : Frame) : Ok (Machine.hold x f s) := by
  unfold Machine.hold
  split
  · exact h
  · next st hx =>
    split
    · next hr =>
      obtain ⟨hu, hq⟩ := hr
      have hp := h.stations.pinned
      have hu' : s.stations.total (fun st => st.hold.length) < 2048 := hu
      have hq' : st.hold.length < 64 := hq
      refine { h with stations := h.stations.put ?_ ?_ ?_ } <;>
        simp only [Table.weightAt, show s.stations.find x = some st from hx, Option.map_some, Option.getD_some,
          List.length_append, List.length_cons, List.length_nil] <;> omega
    · split
      · exact h.holdOverflow _ _ _
      · next oldest rest hq =>
        refine Ok.holdOverflow (h.setStation (v := { st with hold := rest ++ [f] }) hx ⟨?_, id⟩) _ _ _
        rw [hq]; simp

theorem holdOverflow_stations (x : Nat) (r : Option Nat) (f : Frame) (s : State) :
    (holdOverflow x r f s).stations = s.stations := occur_stations _ _

theorem OkWith.holdOverflow {t : Table Station} (h : OkWith t s) (x : Nat) (r : Option Nat) (f : Frame) :
    OkWith t (Machine.holdOverflow x r f s) :=
  OkWith.occur (s := s.modRoamCtrs _) h _

/-- The record at `x` is `st`, and all is well but for its hold queue, which may be over its limits (R27: it is trimmed next). -/
def OkBut (x : Nat) (st : Station) (s : State) : Prop :=
  s.station x = some st ∧ s.stations.sorted = true ∧ OkWith (s.stations.put x { st with hold := [] }) s

/-- A hold queue within its limits is well too (R26). -/
theorem OkBut.ok {x : Nat} {st : Station} (h : OkBut x st s) (hq : st.hold.length ≤ 64) (hu : s.holdUsed ≤ 2048) : Ok s := by
  obtain ⟨hx, hs, h⟩ := h
  have hx' : s.stations.find x = some st := hx
  have he : s.stations = (s.stations.put x { st with hold := [] }).put x st := by
    rw [Table.put_put, Table.put_find hs hx]
  have h1 := Table.total_put (fun st : Station => st.hold.length) hs x { st with hold := [] }
  have h2 : s.stations.total (fun st => st.hold.length) ≤ 2048 := hu
  have h3 := h.stations.pinned
  simp only [Table.weightAt, hx', Option.map_some, Option.getD_some, List.length_nil] at h1
  unfold Ok
  rw [he]
  refine { h with stations := h.stations.put hq ?_ ?_ } <;>
    simp only [Table.weightAt, Table.find_put_self, Option.map_some, Option.getD_some, List.length_nil] <;> omega

/-- A hold queue dropped from its head is still all that may be over its limits. -/
theorem OkBut.dropped {x : Nat} {st : Station} (h : OkBut x st s) (rest : List Frame) (r : Option Nat) (f : Frame) :
    OkBut x { st with hold := rest } (Machine.holdOverflow x r f (s.setStation x { st with hold := rest })) := by
  obtain ⟨hx, hs, h⟩ := h
  have ht := holdOverflow_stations x r f (s.setStation x { st with hold := rest })
  refine ⟨?_, ?_, ?_⟩
  · unfold State.station; rw [ht]; exact Table.find_put_self _ _ _
  · rw [ht]; exact Table.sorted_put hs
  · rw [ht, State.setStation, Table.put_put]
    exact OkWith.holdOverflow (s := s.setStation x _) h x r f

/-- What is trimmed to within its limits is kept (R27). -/
theorem OkBut.trimHold {x k : Nat} {st : Station} (h : OkBut x st s) (hk : st.hold.length ≤ k) :
    Ok (Machine.trimHold x k s) := by
  have hfree : st.hold = [] → s.holdUsed ≤ 2048 := fun he => by
    obtain ⟨hx, hs, h⟩ := h
    have := h.stations.held
    rwa [show { st with hold := [] } = st by cases st; simp_all, Table.put_find hs hx] at this
  induction k generalizing s st with
  | zero =>
    have he : st.hold = [] := List.length_eq_zero_iff.1 (Nat.le_zero.1 hk)
    exact h.ok (by simp [he]) (hfree he)
  | succ k ih =>
    unfold Machine.trimHold
    simp only [h.1]
    split
    · next he => exact h.ok (by simp [he]) (hfree he)
    · next oldest rest he =>
      split
      · refine ih (h.dropped rest _ oldest) (by simp only; rw [he] at hk; simpa using hk) fun hr => ?_
        obtain ⟨hx, hs, hw⟩ := h.dropped rest st.current oldest
        have := hw.stations.held
        rwa [show ({ st with hold := [] } : Station) = { st with hold := rest } by cases st; simp_all, Table.put_find hs hx] at this
      · next hl =>
        simp only [not_or, not_lt] at hl
        exact h.ok hl.1 hl.2

/-- Frames recalled to the head of a hold queue, which is then trimmed (R27). -/
theorem Ok.recallFrames (h : Ok s) (x r : Nat) : Ok (Machine.recallFrames x r s) := by
  unfold Machine.recallFrames
  have ht := h.takeFromRadio x r
  split
  next fs s1 heq =>
  have h1 : Ok s1 := ht.snd heq
  split
  · exact h1
  · simp only
    cases hx : s1.station x with
    | none =>
      have he : ∀ f, s1.modStation x f = s1 := fun f => by unfold State.modStation; rw [hx]
      rw [he]
      simp only [State.modRoamCtrs, State.station] at hx ⊢
      rw [hx]
      exact h1
    | some st =>
      have hl := Station.applyPending_lighter { st with egress := st.egress - fs.length, hold := fs ++ st.hold }
      have hb : OkBut x ({ st with egress := st.egress - fs.length, hold := fs ++ st.hold } : Station).applyPending
          ((s1.modStation x (fun st => { st with egress := st.egress - fs.length, hold := fs ++ st.hold }.applyPending)).modRoamCtrs
            (fun k => { k with recalled := bumpBy k.recalled fs.length })) := by
        unfold State.modStation
        rw [hx]
        refine ⟨Table.find_put_self _ _ _, Table.sorted_put h1.stations.sorted, ?_⟩
        show OkWith (Table.put (Table.put _ _ _) _ _) _
        rw [Table.put_put]
        exact { h1 with stations := h1.stations.put_lighter hx ⟨Nat.zero_le _, fun hp => hl.pinned hp⟩ }
      exact hb.trimHold (by rw [hb.1]; exact le_rfl)

theorem Ok.leaveDrainList (h : Ok s) (x : Nat) : Ok (Machine.leaveDrainList x s) := h

theorem Ok.joinDrainList (h : Ok s) (x : Nat) : Ok (Machine.joinDrainList x s) := by
  unfold Machine.joinDrainList
  split
  · exact h
  · exact h

/-- An offer leaves every hold queue as it is. -/
theorem offer_hold (sort : OfferSort) (r : Nat) (c : Cls) (f : Frame) (s : State) (x : Nat) :
    ((offer sort r c f s).2.station x).map Station.hold = (s.station x).map Station.hold := by
  cases ho : offer sort r c f s with
  | mk told u =>
    cases told with
    | accepted =>
      obtain ⟨e, he⟩ := offer_accepted_station ho x
      rw [he]; cases s.station x <;> rfl
    | declined => rw [offer_declined ho]; rfl
    | refused =>
      unfold offer at ho
      split at ho
      · simp only [Prod.mk.injEq, true_and] at ho
        rw [← ho]; rfl
      · split at ho
        · simp at ho
        · split at ho <;> simp at ho
    | dropped =>
      unfold offer at ho
      split at ho
      · simp at ho
      · split at ho
        · simp at ho
        · split at ho
          · simp at ho
          · simp only [Prod.mk.injEq, true_and] at ho
            rw [← ho]
            simp only [State.station, occur_stations]
            rfl

theorem Ok.drainFrames (h : Ok s) (x k : Nat) : Ok (Machine.drainFrames x k s) := by
  induction k generalizing s with
  | zero => exact h
  | succ k ih =>
    unfold Machine.drainFrames
    split
    · exact h
    · next st hx =>
      split
      · next f rest r hq _ =>
        have ho := h.offer .declinable r st.cls f
        have hh := offer_hold .declinable r st.cls f s x
        split
        · next heq => exact ho.snd heq
        · next heq =>
          rw [heq, hx] at hh
          refine ih ((ho.snd heq).modStation_at _ _ fun st' hx' => ⟨?_, id⟩)
          simp only [hx', Option.map_some, Option.some.injEq] at hh
          rw [hh, hq]; simp
      · exact h

theorem Ok.drain (h : Ok s) (x : Nat) : Ok (Machine.drain x s) := by
  unfold Machine.drain
  split
  · exact h
  · split
    · simp only
      split
      · exact (h.drainFrames _ _).leaveDrainList _
      · exact (h.drainFrames _ _).joinDrainList _
    · exact h

theorem Ok.serveDrainList (h : Ok s) : Ok (Machine.serveDrainList s) := Ok.foldl (fun _ x hs => hs.drain x) _ h

theorem Ok.sendRoam (h : Ok s) (code : Byte) (a : Addr) (r : Nat) : Ok (Machine.sendRoam code a r s).2 := by
  unfold Machine.sendRoam
  have ho := h.offerService r a code []
  split
  · next heq => exact ho.snd heq
  · next heq => exact (ho.snd heq).modRoamCtrs _

theorem Ok.dropContext (h : Ok s) (x : Nat) : Ok (Machine.dropContext x s) := { h with ctxs := Table.sorted_del h.ctxs }

theorem Ok.countPingPong (h : Ok s) (x : Nat) : Ok (Machine.countPingPong x s) := by
  unfold Machine.countPingPong
  split
  · exact h
  · next hx =>
    split
    · exact (h.setStation hx).modRoamCtrs _
    · exact h.setStation hx

theorem Ok.pingPongAtCompletion (h : Ok s) (x y : Nat) : Ok (Machine.pingPongAtCompletion x y s) := by
  unfold Machine.pingPongAtCompletion
  split
  · exact h
  · next hx =>
    split
    · split
      · exact h.countPingPong _
      · exact h.setStation hx
    · exact h.setStation hx

theorem Ok.pingPongAtCancel (h : Ok s) (x : Nat) (t : Time) : Ok (Machine.pingPongAtCancel x t s) := by
  unfold Machine.pingPongAtCancel
  split
  · exact h.countPingPong _
  · exact h

theorem Ok.beginHandoff (h : Ok s) (k x y : Nat) : Ok (Machine.beginHandoff k x y s) := by
  unfold Machine.beginHandoff
  split
  · exact h
  · next st hk =>
    have hs := (h.setStation (v := { st with state := .handoff, target := some y }) hk).sendRoam codeDetach st.addr x
    exact ((((hs.modRoam (Table.sorted_put hs.ctxs) hs.marks).leaveDrainList k).recallFrames k x).pauseSub k).clearMark k

theorem Ok.declineRoam (h : Ok s) (x y : Nat) : Ok (Machine.declineRoam x y s) := by
  unfold Machine.declineRoam
  split
  · exact h
  · exact ((h.sendRoam _ _ _).setMark _ _).modRoamCtrs _

theorem Ok.completeHandoff (h : Ok s) (k x y : Nat) : Ok (Machine.completeHandoff k x y s) := by
  unfold Machine.completeHandoff
  exact (((((((h.dropContext k).pingPongAtCompletion k y).modStation _ _).lessStations x).moreStations y).recompute k).resumeSub
    k).drain k

theorem Ok.cancelHandoff (h : Ok s) (k x y : Nat) : Ok (Machine.cancelHandoff k x y s) := by
  unfold Machine.cancelHandoff
  split
  · exact (((((((h.dropContext k).sendRoam _ _ _).pingPongAtCancel k _).modStation _ _).setMark k x).resumeSub k).drain
      k).modRoamCtrs _
  · exact h

theorem Ok.retarget (h : Ok s) (k z : Nat) : Ok (Machine.retarget k z s) := by
  have h1 := h.modStation k (fun st => { st with target := some z })
  unfold Machine.retarget
  refine h1.modRoam ?_ h1.marks
  split
  · exact Table.sorted_put h1.ctxs
  · exact h1.ctxs

theorem Ok.endUnattached (h : Ok s) (k x : Nat) : Ok (Machine.endUnattached k x s) :=
  ((h.dropContext k).modStation _ _).lessStations x

theorem Ok.endByTargetPart (h : Ok s) (k x : Nat) : Ok (Machine.endByTargetPart k x s) :=
  ((h.endUnattached k x).setMark k x).modRoamCtrs _

theorem Ok.endOnOld (h : Ok s) (k x : Nat) : Ok (Machine.endOnOld k x s) := by
  unfold Machine.endOnOld
  split
  · exact h
  · exact ((((((h.dropContext k).sendRoam _ _ _).setMark k x).modStation _ _).recompute k).resumeSub k).drain k

theorem Ok.resolveOne (h : Ok s) (lost k : Nat) : Ok (Machine.resolveOne lost k s) := by
  unfold Machine.resolveOne
  split
  · exact h
  · split
    · simp only
      split
      · split
        · exact (h.modRoamCtrs _).completeHandoff _ _ _
        · exact (h.modRoamCtrs _).endUnattached _ _
      · split
        · split
          · exact (h.modRoamCtrs _).endOnOld _ _
          · exact (h.modRoamCtrs _).endUnattached _ _
        · exact h
    · exact h

theorem Ok.resolveHandoffs (h : Ok s) (lost : Nat) : Ok (Machine.resolveHandoffs lost s) :=
  (Ok.foldl (fun _ x hs => hs.resolveOne lost x) _ h).clearMarksOf lost

theorem Ok.createStation (h : Ok s) (a : Addr) (k r : Nat) : Ok (Machine.createStation a k r s) :=
  ((h.addStation k rfl (.inl rfl)).moreStations r).modStationCtrs _

theorem Ok.attach (h : Ok s) (k r : Nat) : Ok (Machine.attach k r s) := by
  unfold Machine.attach
  exact (((((h.modStation _ _).clearMark k).moreStations r).recompute k).drain k).resumeSub k

theorem Ok.detachStation (h : Ok s) (k r : Nat) : Ok (Machine.detachStation k r s) := by
  unfold Machine.detachStation
  exact ((((h.leaveDrainList k).recallFrames k r).pauseSub k).modStation _ _).lessStations r

theorem Ok.joinRecord (h : Ok s) (k y : Nat) : Ok (Machine.joinRecord k y s) := by
  unfold Machine.joinRecord
  split
  · exact h
  · split
    · exact h.attach _ _
    · split
      · exact h
      · split
        · exact h.declineRoam _ _
        · exact h.beginHandoff _ _ _
    · split
      · exact h
      · split
        · exact h.cancelHandoff _ _ _
        · exact h.retarget _ _
    · exact h

theorem Ok.removeRecord (h : Ok s) (keep : Bool) (k : Nat) : Ok (Machine.removeRecord keep k s) := by
  unfold Machine.removeRecord
  split
  · exact h
  · refine Ok.modStationCtrs (Ok.delStation (Ok.discardQueued (Ok.clearMark (Ok.leaveDrainList (Ok.removeSub ?_ k) k) k) k) k) _
    split
    · refine Ok.lessStations ?_ _
      split
      · split
        · exact (h.dropContext k).sendRoam _ _ _
        · exact h.dropContext k
      · exact h
    · split
      · split
        · exact (h.dropContext k).sendRoam _ _ _
        · exact h.dropContext k
      · exact h

/-! ### Service -/

theorem Ok.detachAll (h : Ok s) (r : Nat) : Ok (Machine.detachAll r s) :=
  Ok.foldl (fun _ _ hs => (hs.leaveDrainList _).modStation _ _) _ h

theorem Ok.detachRadio (h : Ok s) (r : Nat) : Ok (Machine.detachRadio r s) := by
  unfold Machine.detachRadio Machine.zeroCounts
  exact ((((h.detachAll r).resolveHandoffs r).modRadio _ _).purge r).loseDeliveries r

theorem Ok.leaveService (h : Ok s) (r : Nat) (new : RadioState) : Ok (Machine.leaveService r new s) := by
  unfold Machine.leaveService
  exact ((h.modRadio _ _).detachRadio r).modRadio _ _



theorem Ok.takeAll (h : Ok s) (l : List Occurrence) : Ok (l.foldl (fun s o => Machine.takeOccurrence o s) s) :=
  Ok.foldl (fun _ o hs => hs.takeOccurrence o) l h

theorem Ok.quarantine (h : Ok s) (r : Nat) (c : ErrClass) : Ok (Machine.quarantine r c s) := by
  have h1 : Ok (quarantineNotice r c (Machine.leaveService r .quarantined { s with ev := { s.ev with deferring := true } })) :=
    ((h.setEv _).leaveService r .quarantined).notice _ _
  unfold Machine.quarantine
  simp only
  generalize quarantineNotice r c _ = u at h1 ⊢
  exact (h1.countQuarantine.setEv _).takeAll _

theorem Ok.strike (h : Ok s) (r : Nat) (c : ErrClass) : Ok (Machine.strike r c s) := by
  unfold Machine.strike
  split
  · simp only
    split
    · exact (h.modRadio _ _).quarantine _ _
    · exact h.modRadio _ _
  · exact h

theorem Ok.raiseError (h : Ok s) (o : Occurrence) : Ok (Machine.raiseError o s) := by
  unfold Machine.raiseError
  simp only
  split
  · split
    · exact (h.occur o).strike _ _
    · exact h.occur o
  · exact h.occur o

theorem Ok.resetRadio (h : Ok s) (r : Nat) : Ok (Machine.resetRadio r s) := by
  unfold Machine.resetRadio
  simp only
  split
  · exact ((h.detachRadio r).modRadio _ _).askRadio r
  · exact (h.detachRadio r).modRadio _ _

/-! ### Replies -/

/-- A reply changes no table. -/
theorem Ok.reply (h : Ok s) (a : Answer) : Ok (Machine.reply a s) := by
  unfold Machine.reply
  split
  · exact h
  · exact h

theorem Ok.modMgmtCtrs (h : Ok s) (f : MgmtCtrs → MgmtCtrs) : Ok (s.modMgmtCtrs f) := h

/-! ### Admission -/

theorem Ok.raiseOccupancy (h : Ok s) (z : Nat) : Ok (Machine.raiseOccupancy z s) := h.setOccupancy _ _
theorem Ok.lowerOccupancy (h : Ok s) (z : Nat) : Ok (Machine.lowerOccupancy z s) := h.setOccupancy _ _

theorem Ok.releaseBinding (h : Ok s) (p : Nat) : Ok (Machine.releaseBinding p s) := by
  unfold Machine.releaseBinding
  split
  · exact h
  · exact (h.modEntry _ _).unbind _ _ _

theorem Ok.leaveAdmitted (h : Ok s) (p : Nat) (new : EntryState) : Ok (Machine.leaveAdmitted p new s) :=
  ((h.modEntry _ _).lowerOccupancy _).releaseBinding p

theorem Ok.voidEntry (h : Ok s) (p : Nat) : Ok (Machine.voidEntry p s) := by
  unfold Machine.voidEntry
  split
  · exact h.leaveAdmitted _ _
  · exact h.modEntry _ _

theorem Ok.admitIn (h : Ok s) (p : Nat) : Ok (Machine.admitIn p s) := (h.modEntry _ _).raiseOccupancy _

theorem Ok.markFaulty (h : Ok s) (p : Nat) : Ok (Machine.markFaulty p s) :=
  ((h.modEntry _ _).modAdmCtrs _).occur _

theorem Ok.applyChecks (h : Ok s) (check : List Nat) : Ok (Machine.applyChecks check s) := by
  unfold Machine.applyChecks
  exact Ok.foldl (fun _ p hs => hs.markFaulty p) _ (h.failedChecks check)

theorem Ok.modItem (h : Ok s) (x : Nat) (f : WorkItem → WorkItem) : Ok (s.modAdm (fun a => a.modItem x f)) :=
  h.modAdm

theorem Ok.takeSlot (h : Ok s) (i : WorkItem) (k : Nat) : Ok (Machine.takeSlot i k s) := by
  unfold Machine.takeSlot
  exact ((h.modItem _ _).modAdmCtrs _).sendRequest _

theorem Ok.grantSlots (h : Ok s) (k : Nat) : Ok (Machine.grantSlots k s) := by
  induction k generalizing s with
  | zero => exact h
  | succ k ih =>
    unfold Machine.grantSlots
    split
    · exact ih (h.takeSlot _ _)
    · exact h

theorem Ok.completeItem (h : Ok s) (x : Nat) : Ok (Machine.completeItem x s) :=
  (h.modAdm).lookForSlot

theorem Ok.sendVerdict (h : Ok s) (r : Nat) (a : Addr) (scanner : Byte) (code : Word64) (v : Verdict)
    (first : Option GateTime) : Ok (Machine.sendVerdict r a scanner code v first s) :=
  (h.modAdmCtrs _).offerService _ _ _ _

theorem Ok.sendCheckinReply (h : Ok s) (r : Nat) (a : Addr) (c : CheckinResult) :
    Ok (Machine.sendCheckinReply r a c s) := (h.modAdmCtrs _).offerService _ _ _ _

theorem Ok.evaluateEntry (h : Ok s) (p zone : Nat) (g : GateTime) : Ok (Machine.evaluateEntry p zone g s).state := by
  unfold Machine.evaluateEntry
  simp only
  split
  · exact h
  · split
    · exact h.admitIn _
    · exact h
    · split
      · exact (h.modEntry _ _).admitIn _
      · exact h
    · exact h
    · exact h

theorem Ok.evaluateExit (h : Ok s) (p : Nat) (g : GateTime) : Ok (Machine.evaluateExit p g s).state := by
  unfold Machine.evaluateExit
  simp only
  split
  · exact h.leaveAdmitted _ _
  all_goals exact h

theorem Ok.writeBackItem (h : Ok s) (i : WorkItem) (p : Nat) (r : Cred) : Ok (Machine.writeBackItem i p r s) := by
  unfold Machine.writeBackItem
  exact ((h.modItem _ _).modAdmCtrs _).sendRequest _

theorem Ok.decideScan (h : Ok s) (i : WorkItem) (dir : Direction) (scanner : Byte) :
    Ok (Machine.decideScan i dir scanner s) := by
  unfold Machine.decideScan
  simp only
  split
  · exact (h.sendVerdict _ _ _ _ _ _).completeItem _
  · split
    · exact (h.sendVerdict _ _ _ _ _ _).completeItem _
    · exact (h.sendVerdict _ _ _ _ _ _).completeItem _
    · cases dir with
      | entry => exact ((h.evaluateEntry _ _ _).sendVerdict _ _ _ _ _ _).writeBackItem _ _ _
      | exit => exact ((h.evaluateExit _ _).sendVerdict _ _ _ _ _ _).writeBackItem _ _ _

theorem Ok.dropOldBound (h : Ok s) (x p : Nat) : Ok (Machine.dropOldBound x p s) := by
  unfold Machine.dropOldBound
  split
  · simp only
    split
    · exact h.modEntry _ _
    · exact h
  · exact h

theorem Ok.bindStation (h : Ok s) (x p : Nat) (r : Cred) : Ok (Machine.bindStation x p r s) := by
  unfold Machine.bindStation
  have h1 : Ok (match s.holder p with
      | some h' =>
        if h' = x then s
        else (Machine.unbind h' (p / 4) (p % 4) s).modAdmCtrs (fun k => { k with takeovers := bump k.takeovers })
      | none => s) := by
    split
    · split
      · exact h
      · exact (h.unbind _ _ _).modAdmCtrs _
    · exact h
  simp only
  have h3 : ∀ b, Ok (Machine.setBinding x b ((Machine.dropOldBound x p (match s.holder p with
      | some h' =>
        if h' = x then s
        else (Machine.unbind h' (p / 4) (p % 4) s).modAdmCtrs (fun k => { k with takeovers := bump k.takeovers })
      | none => s)).modEntry p (fun e => { e with bound := some x }))) :=
    fun b => ((h1.dropOldBound x p).modEntry _ _).setBinding x b
  split
  · split
    · exact h3 _
    · exact (h3 _).removeSub _
  · split
    · exact (h3 _).modAdmCtrs _
    · exact ((h3 _).removeSub _).modAdmCtrs _

theorem Ok.decideCheckin (h : Ok s) (i : WorkItem) (x : Nat) : Ok (Machine.decideCheckin i x s) := by
  unfold Machine.decideCheckin
  simp only
  split
  · split
    · exact (h.sendCheckinReply _ _ _).completeItem _
    · exact (h.sendCheckinReply _ _ _).completeItem _
    · split
      · exact (h.sendCheckinReply _ _ _).completeItem _
      · split
        · exact (h.sendCheckinReply _ _ _).completeItem _
        · exact ((h.bindStation _ _ _).sendCheckinReply _ _ _).completeItem _
  · exact (h.modAdmCtrs _).completeItem _

theorem Ok.itemFetched (h : Ok s) (x : Nat) (check : List Nat) : Ok (Machine.itemFetched x check s) := by
  unfold Machine.itemFetched
  split
  · exact h
  · simp only
    split
    · exact (h.applyChecks check).decideScan _ _ _
    · exact (h.applyChecks check).decideCheckin _ _

theorem Ok.addItem (h : Ok s) (kind : ItemKind) (code : Word64) (r : Nat) (a : Addr) :
    Ok (Machine.addItem kind code r a s) := h.modAdm.lookForSlot

theorem Ok.takeScan (h : Ok s) (r : Nat) (a : Addr) (code : Word64) (d : Direction) (scanner : Byte) (f : List Byte) :
    Ok (Machine.takeScan r a code d scanner f s) := by
  unfold Machine.takeScan
  split
  · exact h.raiseError _
  · split
    · exact h.sendVerdict _ _ _ _ _ _
    · split
      · exact (h.modAdmCtrs _).sendVerdict _ _ _ _ _ _
      · exact h.addItem _ _ _ _

theorem Ok.takeCheckin (h : Ok s) (r x : Nat) (a : Addr) (code : Word64) : Ok (Machine.takeCheckin r x a code s) := by
  unfold Machine.takeCheckin
  split
  · exact (h.modAdmCtrs _).sendCheckinReply _ _ _
  · exact h.addItem _ _ _ _

theorem Ok.startOp (h : Ok s) (b : Nat) (job : CredJob) : Ok (Machine.startOp b job s) :=
  (h.modAdm).lookForSlot

theorem Ok.endOp (h : Ok s) : Ok (Machine.endOp s) := (h.modAdm).lookForSlot

theorem Ok.finishOp (h : Ok s) (a : Answer) : Ok (Machine.finishOp a s) := h.endOp.reply a

theorem Ok.nextLoad (h : Ok s) (rest : List LoadRec) (done : List (LoadStatus × Option Nat)) :
    Ok (Machine.nextLoad rest done s) := by
  unfold Machine.nextLoad
  split
  · exact h.finishOp _
  · exact h.endOp.startOp _ _

theorem Ok.moveHome (h : Ok s) (p home : Nat) : Ok (Machine.moveHome p home s) := by
  unfold Machine.moveHome
  simp only
  split
  · exact ((h.modEntry _ _).lowerOccupancy _).raiseOccupancy _
  · exact h.modEntry _ _

theorem Ok.updateBinding (h : Ok s) (p : Nat) (c : Cred) : Ok (Machine.updateBinding p c s) := by
  unfold Machine.updateBinding
  split
  · exact h
  · simp only
    split <;> split
    · exact (h.modStation _ _).recompute _
    · exact (h.modStation _ _).rederive _
    · exact ((h.modStation _ _).recompute _).removeSub _
    · exact ((h.modStation _ _).rederive _).removeSub _

theorem Ok.writeOp (h : Ok s) (p : Nat) (c : Cred) (job : CredJob) : Ok (Machine.writeOp p c job s) := by
  unfold Machine.writeOp
  exact (h.modAdm).sendRequest _

theorem Ok.decideLoad (h : Ok s) (b : Nat) (r : LoadRec) (rest : List LoadRec) (done : List (LoadStatus × Option Nat)) :
    Ok (Machine.decideLoad b r rest done s) := by
  unfold Machine.decideLoad
  simp only
  split
  · exact (((h.modAdmCtrs _).moveHome _ _).updateBinding _ _).writeOp _ _ _
  · exact (h.modAdmCtrs _).nextLoad _ _
  · split
    · exact ((h.modAdmCtrs _).setEntry _ _).writeOp _ _ _
    · exact (h.modAdmCtrs _).nextLoad _ _

theorem Ok.decideVoid (h : Ok s) (b : Nat) (code : Word64) : Ok (Machine.decideVoid b code s) := by
  unfold Machine.decideVoid
  simp only
  split
  · exact h.finishOp _
  · exact h.finishOp _
  · split
    · exact ((h.modAdmCtrs _).voidEntry _).finishOp _
    · exact ((h.modAdmCtrs _).voidEntry _).finishOp _
    · exact ((h.modAdmCtrs _).voidEntry _).finishOp _
    · exact h.finishOp _
    · exact h.finishOp _

theorem Ok.eraseWay (h : Ok s) (p : Nat) : Ok (Machine.eraseWay p s) := by
  unfold Machine.eraseWay
  simp only
  split
  · exact (((h.leaveAdmitted _ _).setEntry _ _).modAdmCtrs _).finishOp _
  · exact ((h.setEntry _ _).modAdmCtrs _).finishOp _

theorem Ok.opFetched (h : Ok s) (check : List Nat) : Ok (Machine.opFetched check s) := by
  unfold Machine.opFetched
  split
  · exact h
  · simp only
    split
    · exact (h.applyChecks check).decideLoad _ _ _ _
    · exact (h.applyChecks check).finishOp _
    · exact (h.applyChecks check).finishOp _
    · exact (h.applyChecks check).decideVoid _ _
    · exact (h.applyChecks check).eraseWay _

theorem Ok.opWritten (h : Ok s) : Ok (Machine.opWritten s) := by
  unfold Machine.opWritten
  split
  · exact h.nextLoad _ _
  · exact h

theorem Ok.takeBucket (h : Ok s) : Ok (Machine.takeBucket s) := by
  unfold Machine.takeBucket
  split
  · exact h
  · split
    · split
      · exact h.eraseWay _
      · exact (h.modAdm).sendRequest _
    · exact h

theorem Ok.sendStride (h : Ok s) : Ok (Machine.sendStride s) := by
  unfold Machine.sendStride
  simp only
  split
  · exact (h.modSweep _).sendRequest _
  · exact h

theorem Ok.claimStride (h : Ok s) : Ok (Machine.claimStride s) := (h.modSweep _).lookForSlot

theorem Ok.sweepWay (h : Ok s) (p : Nat) : Ok (Machine.sweepWay p s) := by
  unfold Machine.sweepWay
  simp only
  split
  · exact h
  · split
    · exact h.modSweep _
    · split
      · exact (h.voidEntry _).modSweep _
      · exact h

theorem Ok.sweepDone (h : Ok s) : Ok (Machine.sweepDone s) := h.notice _ _

theorem Ok.afterStride (h : Ok s) : Ok (Machine.afterStride s) := by
  unfold Machine.afterStride
  simp only
  split
  · split
    · exact (((h.modSweep _).modAdmCtrs _).sweepDone).reply _
    · exact ((h.modSweep _).modAdmCtrs _).sweepDone
  · split
    · exact (h.modSweep _).reply _
    · exact h.claimStride

theorem Ok.strideRead (h : Ok s) (b : Nat) (check : List Nat) : Ok (Machine.strideRead b check s) := by
  unfold Machine.strideRead
  exact ((((Ok.foldl (fun _ p hs => hs.sweepWay p) _ (h.applyChecks check)).modSweep _).modAdmCtrs _).lookForSlot).afterStride

theorem Ok.settle (h : Ok s) : Ok (Machine.settle s) := by
  unfold Machine.settle
  split
  · exact (((h.setEv _).sendStride).takeBucket).grantSlots _
  · exact h

theorem Ok.markedRead (h : Ok s) (t : Tagged) : Ok (Machine.markedRead t s) :=
  (h.failedChecks _).lookForSlot

theorem Ok.fetchCompleted (h : Ok s) (t : Tagged) : Ok (Machine.fetchCompleted t s) := by
  unfold Machine.fetchCompleted
  split
  · exact h.markedRead t
  · split
    · exact h.itemFetched _ _
    · exact h.opFetched _
    · exact h

theorem Ok.writeBackCompleted (h : Ok s) (t : Tagged) : Ok (Machine.writeBackCompleted t s) := by
  unfold Machine.writeBackCompleted
  split
  · exact h.lookForSlot
  · split
    · exact h.completeItem _
    · exact h.opWritten
    · exact h

theorem Ok.strideCompleted (h : Ok s) (t : Tagged) : Ok (Machine.strideCompleted t s) := by
  unfold Machine.strideCompleted
  split
  · exact h.markedRead t
  · split
    · exact h.strideRead _ _
    · exact h

theorem Ok.clearBinding (h : Ok s) (x : Nat) : Ok (Machine.clearBinding x s) :=
  ((h.modStation _ _).modAdmCtrs _).recompute _

theorem Ok.clearAll (h : Ok s) : Ok (Machine.clearAll s).2 := by
  unfold Machine.clearAll
  have h1 : Ok (s.modAdm (fun a => { a with map := a.map.mapVals {} MapEntry.cleared, occupancy := [] })) :=
    { h with map := Table.wf_mapVals MapEntry.cleared h.map, occupancy := rfl }
  exact (Ok.foldl (fun _ x hs => hs.clearBinding x) _ h1).modAdmCtrs _

theorem Ok.retryItem (h : Ok s) (i : WorkItem) : Ok (Machine.retryItem i s) := by
  unfold Machine.retryItem
  split
  · exact h
  · exact h.sendVerdict _ _ _ _ _ _
  · exact h.sendCheckinReply _ _ _

/-! ### Ingest -/

theorem Ok.discardSlot (h : Ok s) (k : Nat) : Ok (Machine.discardSlot k s) := h.modSlot _ _
theorem Ok.recomputeSeqs (h : Ok s) (r : Nat) : Ok (Machine.recomputeSeqs r s) := h.modReelCfg _ _

theorem Ok.ingestIncomplete (h : Ok s) (r : Nat) (f : Option (List Byte)) : Ok (Machine.ingestIncomplete r f s) :=
  (h.modReelCtrs _ _).occur _

theorem Ok.reelLapped (h : Ok s) (r slot q : Nat) (g : Half) (k : Nat) : Ok (Machine.reelLapped r slot q g k s) :=
  h.notice _ _

theorem Ok.overwriteSlot (h : Ok s) (r slot : Nat) : Ok (Machine.overwriteSlot r slot s) := by
  unfold Machine.overwriteSlot
  simp only
  have h3 := (Ok.foldl (fun _ d hs => Ok.lapDelivery hs d)
    ((Machine.recomputeSeqs r (Machine.discardSlot slot s)).deliveriesWhere
      (fun v => decide (v.slot = slot ∧ v.generation = (s.slot slot).generation)))
    ((h.discardSlot slot).recomputeSeqs r))
  split
  · exact h3.modReelCtrs _ _
  · exact (h3.modReelCtrs _ _).reelLapped _ _ _ _ _

theorem Ok.takeWriteSlot (h : Ok s) (r slot : Nat) : Ok (Machine.takeWriteSlot r slot s) := by
  unfold Machine.takeWriteSlot
  split
  · exact h.overwriteSlot _ _
  · exact (h.discardSlot _).ingestIncomplete _ _
  · exact h
  · exact h

theorem Ok.takeSlotFor (h : Ok s) (r q len : Nat) : Ok (Machine.takeSlotFor r q len s) := by
  unfold Machine.takeSlotFor
  split
  · exact h
  · simp only
    refine Ok.modReelCtrs (Ok.modReelCfg (Ok.modSlot (Ok.takeWriteSlot ?_ _ _) _ _) _ _) _ _
    split
    · exact ((h.discardSlot _).modReelCfg _ _).ingestIncomplete _ _
    · exact h

theorem Ok.ingestSequence (h : Ok s) (f : List Byte) : Ok (Machine.ingestSequence f s) := h.occur _

theorem Ok.segmentOpen (h : Ok s) (r q len : Nat) (f : List Byte) : Ok (Machine.segmentOpen r q len f s) := by
  unfold Machine.segmentOpen
  split
  · exact h.takeSlotFor _ _ _
  · split
    · exact (h.modReelCtrs _ _).ingestSequence _
    · split
      · exact h.takeSlotFor _ _ _
      · exact ((h.modReelCtrs _ _).ingestSequence _).takeSlotFor _ _ _

theorem Ok.ingestDone (h : Ok s) (r slot : Nat) : Ok (Machine.ingestDone r slot s) := h.notice _ _

theorem Ok.slotReady (h : Ok s) (r slot : Nat) : Ok (Machine.slotReady r slot s) := by
  unfold Machine.slotReady
  exact ((((h.modSlot _ _).modReelCfg _ _).modReelCtrs _ _).ingestDone _ _).wakeReel _

theorem Ok.segmentData (h : Ok s) (r q o : Nat) (data : List Byte) : Ok (Machine.segmentData r q o data s) := by
  unfold Machine.segmentData
  split
  · exact h.modReelCtrs _ _
  · simp only
    split
    · exact h.modReelCtrs _ _
    · split
      · exact h.modReelCtrs _ _
      · split
        · exact h.modReelCtrs _ _
        · exact (((h.modSlot _ _).modReplay).modReelCtrs _ _).sendRequest _

theorem Ok.segmentClose (h : Ok s) (r q : Nat) (f : List Byte) : Ok (Machine.segmentClose r q f s) := by
  unfold Machine.segmentClose
  split
  · exact h.modReelCtrs _ _
  · simp only
    split
    · exact ((h.modReelCfg _ _).discardSlot _).ingestIncomplete _ _
    · split
      · exact ((h.modReelCfg _ _).modSlot _ _).slotReady _ _
      · exact (h.modReelCfg _ _).modSlot _ _

theorem Ok.ingestCompleted (h : Ok s) (t : Tagged) : Ok (Machine.ingestCompleted t s) := by
  unfold Machine.ingestCompleted
  split
  · simp only
    split
    · exact h.modReplay.modReplayCtrs _
    · split
      · exact (h.modReplay.modSlot _ _).slotReady _ _
      · exact h.modReplay.modSlot _ _
  · exact h

theorem Ok.chunkCompleted (h : Ok s) (t : Tagged) : Ok (Machine.chunkCompleted t s) := by
  unfold Machine.chunkCompleted
  split
  · split
    · exact h.modReplayCtrs _
    · next hd =>
      split
      · exact h.lapDelivery _
      · exact (h.setDelivery hd).offerHeld _
  · exact h

theorem Ok.malformedReel (h : Ok s) : Ok (Machine.malformedReel s) := h
theorem Ok.unconfiguredReel (h : Ok s) : Ok (Machine.unconfiguredReel s) := h

theorem Ok.takeReelMsg (h : Ok s) (f : List Byte) (msg : ReelMsg) : Ok (Machine.takeReelMsg f msg s) := by
  unfold Machine.takeReelMsg
  simp only
  split
  · split
    · exact h.malformedReel
    · split
      · exact h.unconfiguredReel
      · exact h.segmentOpen _ _ _ _
  · split
    · exact h.malformedReel
    · split
      · exact h.unconfiguredReel
      · exact h.segmentData _ _ _ _
  · split
    · exact h.malformedReel
    · split
      · exact h.unconfiguredReel
      · exact h.segmentClose _ _ _

theorem Ok.takeReelFrame (h : Ok s) (src : Addr) (e : Half) (c : List Byte) : Ok (Machine.takeReelFrame src e c s) := by
  unfold Machine.takeReelFrame
  split
  · exact h.malformedReel
  · exact h.takeReelMsg _ _

theorem Ok.abandonReel (h : Ok s) (r : Nat) : Ok (Machine.abandonReel r s) :=
  Ok.foldl (fun _ d hs => hs.abandonDelivery d) _ h

theorem Ok.restartClips (h : Ok s) : Ok (Machine.restartClips s) :=
  { h with
    slots := Table.wf_mapVals Slot.restarted h.slots
    reels := Table.wf_mapVals (fun r : Reel => { r with cfg := r.cfg.map (fun c => { c with filling := none }) }) h.reels }

/-! ### Carrier frames -/

theorem Ok.carrierMalformed (h : Ok s) (r : Option Nat) (f : List Byte) : Ok (Machine.carrierMalformed r f s) :=
  h.raiseError _

theorem Ok.serviceUnexpected (h : Ok s) (r : Nat) (f : List Byte) : Ok (Machine.serviceUnexpected r f s) :=
  h.raiseError _

theorem Ok.strayService (h : Ok s) : Ok (Machine.strayService s) := h

theorem Ok.takeJoin (h : Ok s) (r : Nat) (a : Addr) (f : List Byte) : Ok (Machine.takeJoin r a f s) := by
  unfold Machine.takeJoin
  split
  · exact h.carrierMalformed _ _
  · split
    · exact h.joinRecord _ _
    · split
      · exact h.createStation _ _ _
      · exact h.raiseError _

theorem Ok.partRecord (h : Ok s) (x r : Nat) (f : List Byte) : Ok (Machine.partRecord x r f s) := by
  unfold Machine.partRecord
  split
  · exact h
  · split
    · split
      · exact h.detachStation _ _
      · exact h.serviceUnexpected _ _
    · split
      · exact (h.completeHandoff _ _ _).modRoamCtrs _
      · split
        · exact h.endByTargetPart _ _
        · exact h.serviceUnexpected _ _
    · exact h.serviceUnexpected _ _

theorem Ok.takePart (h : Ok s) (r : Nat) (a : Addr) (f : List Byte) : Ok (Machine.takePart r a f s) := by
  unfold Machine.takePart
  split
  · exact h.partRecord _ _ _
  · exact h.strayService

theorem Ok.releaseRecord (h : Ok s) (x r d : Nat) (f : List Byte) : Ok (Machine.releaseRecord x r d f s) := by
  unfold Machine.releaseRecord
  split
  · exact h
  · split
    · split
      · exact (h.completeHandoff _ _ _).modRoamCtrs _
      · exact h.serviceUnexpected _ _
    · split
      · exact (h.clearMark _).modRoamCtrs _
      · exact h.raiseError _

theorem Ok.takeRelease (h : Ok s) (r : Nat) (a : Addr) (d : Nat) (f : List Byte) :
    Ok (Machine.takeRelease r a d f s) := by
  unfold Machine.takeRelease
  split
  · exact h.carrierMalformed _ _
  · split
    · exact h.releaseRecord _ _ _ _
    · exact h.strayService

theorem Ok.takeRadioStatus (h : Ok s) (r : Nat) (c : Byte) (f : List Byte) :
    Ok (Machine.takeRadioStatus r c f s) := by
  unfold Machine.takeRadioStatus
  split
  · exact h.carrierMalformed _ _
  · split
    · exact h.modRadio _ _
    · exact (h.modRadio _ _).askRadio _

theorem Ok.takeScanMsg (h : Ok s) (r : Nat) (a : Addr) (code : Word64) (d sc : Byte) (f : List Byte) :
    Ok (Machine.takeScanMsg r a code d sc f s) := by
  unfold Machine.takeScanMsg
  split
  · exact h.carrierMalformed _ _
  · split
    · exact h.carrierMalformed _ _
    · exact (h.modAdmCtrs _).takeScan _ _ _ _ _ _

theorem Ok.takeCheckinMsg (h : Ok s) (r : Nat) (a : Addr) (code : Word64) (f : List Byte) :
    Ok (Machine.takeCheckinMsg r a code f s) := by
  unfold Machine.takeCheckinMsg
  split
  · exact h.carrierMalformed _ _
  · simp only
    split
    · exact (h.modAdmCtrs _).strayService
    · split
      · exact (h.modAdmCtrs _).takeCheckin _ _ _ _
      · exact (h.modAdmCtrs _).serviceUnexpected _ _

theorem Ok.createSub (h : Ok s) (x reel : Nat) (mode : Mode) (st w : Option Nat) :
    Ok (Machine.createSub x reel mode st w s) := by
  unfold Machine.createSub
  simp only
  split
  · exact h.removeSub _
  · next st' hx =>
    have h1 := fun b => (h.removeSub x).setStation (v := { st' with sub := some b }) hx
    split <;> split
    · exact (h1 _).modRadio _ _
    · exact h1 _
    · exact ((h1 _).modRadio _ _).seekAndTake _ _
    · exact (h1 _).seekAndTake _ _

theorem Ok.sendCueReply (h : Ok s) (r : Nat) (a : Addr) (c : CueResult) (reel : Nat) (st : Option Nat) :
    Ok (Machine.sendCueReply r a c reel st s) := h.offerService _ _ _ _

theorem Ok.decideCue (h : Ok s) (x r : Nat) (a : Addr) (reel : Nat) (mode : Mode) (b : Nat) (w : Option Nat) :
    Ok (Machine.decideCue x r a reel mode b w s) := by
  unfold Machine.decideCue
  split
  · exact h
  · split
    refine Ok.sendCueReply (Ok.modReplayCtrs ?_ _) _ _ _ _ _
    split
    · exact h.createSub _ _ _ _ _
    · exact h.createSub _ _ _ _ _
    · exact h

theorem Ok.haltRecord (h : Ok s) (x : Nat) : Ok (Machine.haltRecord x s) := by
  unfold Machine.haltRecord
  split
  · exact (h.removeSub _).modReplayCtrs _
  · exact h.modReplayCtrs _

theorem Ok.fromStation (h : Ok s) (r : Nat) (a : Addr) (f : List Byte) {go : Nat → State} (hg : ∀ x, Ok (go x)) :
    Ok (Machine.fromStation r a f go s) := by
  unfold Machine.fromStation
  split
  · exact h.strayService
  · split
    · exact hg _
    · exact h.serviceUnexpected _ _

theorem Ok.takeCue (h : Ok s) (r : Nat) (a : Addr) (reel mode : Byte) (st : Half) (w : Byte) (f : List Byte) :
    Ok (Machine.takeCue r a reel mode st w f s) := by
  unfold Machine.takeCue
  split
  · exact h.carrierMalformed _ _
  · split
    · exact h.carrierMalformed _ _
    · exact h.fromStation _ _ _ fun x => h.decideCue _ _ _ _ _ _ _

theorem Ok.takeHalt (h : Ok s) (r : Nat) (a : Addr) (f : List Byte) : Ok (Machine.takeHalt r a f s) := by
  unfold Machine.takeHalt
  split
  · exact h.carrierMalformed _ _
  · exact h.fromStation _ _ _ fun x => h.haltRecord x

theorem Ok.forwardUpstream (h : Ok s) (p : Nat) (src dst : Addr) (e : Half) (l : List Byte) :
    Ok (Machine.forwardUpstream p src dst e l s) := by
  unfold Machine.forwardUpstream
  simp only
  split
  · exact h
  · exact Ok.modPortCtrs (s := s.sendUplink _) h _ _

theorem Ok.dropNotInService (h : Ok s) (p r : Nat) (f : List Byte) : Ok (Machine.dropNotInService p r f s) := by
  unfold Machine.dropNotInService
  simp only
  split <;> split
  · exact h.modPortCtrs _ _
  · exact h.modRadio _ _
  · exact ((h.modPortCtrs _ _).modRadio _ _).raiseError _
  · exact ((h.modRadio _ _).modRadio _ _).raiseError _

theorem Ok.carrierChecks (h : Ok s) (p r : Nat) (f : List Byte) {go : State → State}
    (hg : Ok (go s)) : Ok (Machine.carrierChecks p r f go s) := by
  unfold Machine.carrierChecks
  split
  · exact h.dropNotInService _ _ _
  · split
    · exact h.carrierMalformed _ _
    · split
      · exact hg
      · exact h.dropNotInService _ _ _

theorem Ok.fromPort (h : Ok s) (p : Nat) : Ok (Machine.fromPort p s) := h.modPortCtrs _ _

theorem Ok.takeMalformed (h : Ok s) (l : List Byte) : Ok (Machine.takeMalformed l s) := h.carrierMalformed _ _

theorem Ok.takeCarrierMsg (h : Ok s) (p r : Nat) (a : Addr) (msg : CarrierMsg) (f : List Byte) :
    Ok (Machine.takeCarrierMsg p r a msg f s) := by
  unfold Machine.takeCarrierMsg
  split
  · exact h.forwardUpstream _ _ _ _ _
  · exact h.takeJoin _ _ _
  · exact h.takePart _ _ _
  · exact h.takeRelease _ _ _ _
  · exact h.takeRadioStatus _ _ _
  · exact h.takeScanMsg _ _ _ _ _ _
  · exact h.takeCheckinMsg _ _ _ _
  · exact h.takeCue _ _ _ _ _ _ _
  · exact h.takeHalt _ _ _
  · exact h.serviceUnexpected _ _

theorem Ok.takeCarrierFrame (h : Ok s) (p : Nat) (f : CarrierFrame) (l : List Byte) :
    Ok (Machine.takeCarrierFrame p f l s) :=
  (h.fromPort p).carrierChecks _ _ _ ((h.fromPort p).takeCarrierMsg _ _ _ _ _)

theorem Ok.takeCarrierBytes (h : Ok s) (p : Nat) (l : List Byte) : Ok (Machine.takeCarrierBytes p l s) := by
  unfold Machine.takeCarrierBytes
  split
  · exact h.takeCarrierFrame _ _ _
  · exact (h.fromPort p).takeMalformed _

/-! ### Timers -/

theorem Ok.lingerExpire (h : Ok s) (x : Nat) : Ok (Machine.lingerExpire x s) := by
  unfold Machine.lingerExpire
  split
  · exact (h.removeRecord _ _).modStationCtrs _
  · exact h

theorem Ok.detachExpire (h : Ok s) (x : Nat) : Ok (Machine.detachExpire x s) := by
  unfold Machine.detachExpire
  split
  · split
    · exact h
    · simp only
      split
      · exact ((h.completeHandoff _ _ _).modRoamCtrs _).raiseError _
      · exact (h.completeHandoff _ _ _).modRoamCtrs _
  · exact h

theorem Ok.dampingExpire (h : Ok s) (x : Nat) : Ok (Machine.dampingExpire x s) := by
  unfold Machine.dampingExpire
  split
  · exact h.modStation _ _
  · exact h

theorem Ok.sealExpire (h : Ok s) (r : Nat) : Ok (Machine.sealExpire r s) := by
  unfold Machine.sealExpire
  split
  · exact h.closeByAge r
  · exact h

theorem Ok.wakeExpire (h : Ok s) (r : Nat) : Ok (Machine.wakeExpire r s) := by
  unfold Machine.wakeExpire
  split
  · exact (h.modRadio _ _).askRadio r
  · exact h

theorem Ok.stageExpire (h : Ok s) : Ok (Machine.stageExpire s) := by
  unfold Machine.stageExpire
  split
  · split
    · exact h.stageExpired _
    · exact h
  · exact h

theorem Ok.expireDue (h : Ok s) : Ok (Machine.expireDue s) := by
  unfold Machine.expireDue
  exact (Ok.foldl (fun _ r hs => hs.wakeExpire r) _ (Ok.foldl (fun _ r hs => hs.sealExpire r) _
    (Ok.foldl (fun _ x hs => hs.dampingExpire x) _ (Ok.foldl (fun _ x hs => hs.detachExpire x) _
      (Ok.foldl (fun _ x hs => hs.lingerExpire x) _ h))))).stageExpire

/-! ### Directives -/



theorem Ok.modSeals (h : Ok s) (f : Time → Time) : Ok (s.modSeals f) := h.mapLists fun _ => List.length_map _

theorem Ok.setVenueTime (h : Ok s) (t : Time) : Ok (Machine.setVenueTime t s) := by
  unfold Machine.setVenueTime
  refine Ok.modSeals (Ok.modPresentRadios ?_ _) _
  exact { h with
    stations := h.stations.map fun _ => ⟨le_rfl, id⟩
    ctxs := Table.sorted_map (fun e => e.2.moved s.venueTime t) h.ctxs }

theorem Ok.runSetTime (h : Ok s) (t : Time) : Ok (Machine.runSetTime t s).2 := (h.setVenueTime t).expireDue

theorem Ok.clearGroup (h : Ok s) (g : Group) : Ok (Machine.clearGroup g s) := by
  unfold Machine.clearGroup
  split
  case h_1 => exact h.mapPorts _
  case h_3 => exact h.modRadio _ _
  case h_7 => exact h.modReelCtrs _ _
  all_goals exact h

theorem Ok.runCounterRead (h : Ok s) (g p i c : Byte) : Ok (Machine.runCounterRead g p i c s).2 := by
  unfold Machine.runCounterRead
  split
  · simp only
    split
    · exact h.clearGroup _
    · exact h
  · exact h

theorem Ok.runMgmtFilter (h : Ok s) (l : List Addr) (p : Byte) (a : Addr) : Ok (Machine.runMgmtFilter l p a s).2 := by
  unfold Machine.runMgmtFilter
  split
  · exact h
  · split <;> exact h

theorem Ok.configureAbsent (h : Ok s) (r : Nat) (c : RadioCfg) : Ok (Machine.configureAbsent r c s) := h.modRadio _ _
theorem Ok.reconfigure (h : Ok s) (r : Nat) (c : RadioCfg) : Ok (Machine.reconfigure r c s) := h.modRadio _ _
theorem Ok.unconfigure (h : Ok s) (r : Nat) : Ok (Machine.unconfigure r s) := h.modRadio _ _

theorem Ok.runRadioConfig (h : Ok s) (a b c d e f : Byte) : Ok (Machine.runRadioConfig a b c d e f s).2 := by
  unfold Machine.runRadioConfig
  simp only
  split
  · exact h
  · split
    · exact h.configureAbsent _ _
    · exact h
    · exact h.reconfigure _ _
    · exact h.unconfigure _
    · exact h
    · exact h

theorem Ok.runRadioState (h : Ok s) (a b : Byte) : Ok (Machine.runRadioState a b s).2 := by
  unfold Machine.runRadioState
  simp only
  split
  · exact h
  · split
    · exact h
    · exact (h.modRadio _ _).askRadio _
    · exact h
    · exact h
    · exact h.leaveService _ _
    · exact (h.modRadio _ _).askRadio _
    · exact h.modRadio _ _

theorem Ok.runRadioReset (h : Ok s) (a : Byte) : Ok (Machine.runRadioReset a s).2 := by
  unfold Machine.runRadioReset
  split
  · exact h
  · exact h.resetRadio _

theorem Ok.runStationRead (h : Ok s) (r : StationRef) : Ok (Machine.runStationRead r s).2 := by
  unfold Machine.runStationRead
  split
  · exact h
  · split <;> exact h
  · exact h

theorem Ok.runStationPin (h : Ok s) (a : Addr) : Ok (Machine.runStationPin a s).2 := by
  unfold Machine.runStationPin
  split
  · split
    · exact h
    · next st hx =>
      split
      · exact h
      · split
        · next hp => exact h.pinStation hx hp (Station.rederive_lighter _).hold
        · exact h
  · split
    · next hp =>
      split
      · exact (h.addStation _ rfl (.inr hp)).modStationCtrs _
      · exact h.occur _
    · exact h

theorem Ok.runStationUnpin (h : Ok s) (a : Addr) : Ok (Machine.runStationUnpin a s).2 := by
  unfold Machine.runStationUnpin
  split
  · exact h
  · split
    · exact h
    · next hx =>
      split
      · refine h.setStation hx ((Station.rederive_lighter _).trans ⟨le_rfl, fun hp => ?_⟩)
        simp at hp
      · exact h

theorem Ok.announce (h : Ok s) : Ok (Machine.announce s) := by
  unfold Machine.announce
  split
  · exact ((h.setEv _).serveDrainList).serveStalled
  · exact h

theorem Ok.runClearFans (h : Ok s) : Ok (Machine.runClearFans s).2 := by
  unfold Machine.runClearFans
  exact Ok.foldl (fun _ x hs => (hs.removeRecord true x).announce) _ h

theorem Ok.runStationSettings (h : Ok s) (a b c d e : Half) : Ok (Machine.runStationSettings a b c d e s).2 := by
  unfold Machine.runStationSettings
  split
  · exact h
  · exact h

theorem Ok.runCredLoad (h : Ok s) (l : List LoadRec) : Ok (Machine.runCredLoad l s).2 := by
  unfold Machine.runCredLoad
  split
  · exact h
  · split
    · exact h
    · split
      · exact h
      · exact h.startOp _ _

theorem Ok.runCredRead (h : Ok s) (r : CredRef) : Ok (Machine.runCredRead r s).2 := by
  unfold Machine.runCredRead
  split
  · exact h.startOp _ _
  · split
    · exact h.startOp _ _
    · exact h
  · exact h

theorem Ok.runCredVoid (h : Ok s) (c : Word64) : Ok (Machine.runCredVoid c s).2 := h.startOp _ _

theorem Ok.runCredEraseWay (h : Ok s) (b : Half) (w : Byte) : Ok (Machine.runCredEraseWay b w s).2 := by
  unfold Machine.runCredEraseWay
  split
  · exact h
  · split
    · exact h
    · exact h.startOp _ _

theorem Ok.runAdmissionFreeze (h : Ok s) : Ok (Machine.runAdmissionFreeze s).2 := h.modAdm

theorem Ok.runEventClose (h : Ok s) : Ok (Machine.runEventClose s).2 := by
  unfold Machine.runEventClose
  split
  · exact h
  · exact h.modAdm

theorem Ok.runVoidSweep (h : Ok s) (a b : Byte) : Ok (Machine.runVoidSweep a b s).2 := by
  unfold Machine.runVoidSweep
  split
  · exact h
  · split
    · exact h
    · exact ((h.modSweep _).modAdmCtrs _).claimStride

theorem Ok.runSweepSuspend (h : Ok s) : Ok (Machine.runSweepSuspend s).2 := by
  unfold Machine.runSweepSuspend
  simp only
  split
  · exact h
  · split
    · exact h.modSweep _
    · exact (h.modSweep _).lookForSlot

theorem Ok.runSweepResume (h : Ok s) : Ok (Machine.runSweepResume s).2 := by
  unfold Machine.runSweepResume
  split
  · exact h
  · exact (h.modSweep _).claimStride

theorem Ok.runClearRedemptions (h : Ok s) : Ok (Machine.runClearRedemptions s).2 := by
  unfold Machine.runClearRedemptions
  split
  · exact h
  · split
    · exact h
    · exact h.clearAll

theorem Ok.freeSlotOf (h : Ok s) (k : Nat) : Ok (Machine.freeSlotOf k s) := h.modSlot _ _

theorem Ok.freeRange (h : Ok s) (r : Nat) : Ok (Machine.freeRange r s) := by
  unfold Machine.freeRange
  split
  · exact h
  · exact (Ok.foldl (fun _ k hs => hs.freeSlotOf k) _ (h.abandonReel r)).setReel _ _

theorem Ok.takeRange (h : Ok s) (r a b : Nat) : Ok (Machine.takeRange r a b s) := by
  unfold Machine.takeRange
  exact (Ok.foldl (fun _ k hs => hs.modSlot k _) _ h).setReel _ _

theorem Ok.runReelConfig (h : Ok s) (a : Byte) (b c : Half) (d : Byte) : Ok (Machine.runReelConfig a b c d s).2 := by
  unfold Machine.runReelConfig
  simp only
  split
  · exact h
  · split
    · exact h
    · split
      · exact h
      · split
        · exact h
        · split
          · exact h
          · show Ok (if _ then _ else _)
            split
            · exact h.freeRange _
            · exact (h.freeRange _).takeRange _ _ _

theorem Ok.resetReel (h : Ok s) (r : Nat) (c : ReelCfg) : Ok (Machine.resetReel r c s) := by
  unfold Machine.resetReel
  exact (Ok.foldl (fun _ k hs => hs.discardSlot k) _
    ((Ok.foldl (fun _ x hs => hs.removeSub x) _ h).abandonReel r)).setReel _ _

theorem Ok.runReelReset (h : Ok s) (a : Byte) : Ok (Machine.runReelReset a s).2 := by
  unfold Machine.runReelReset
  simp only
  split
  · exact h
  · split
    · exact h
    · exact h.resetReel _ _

theorem Ok.runReelStatus (h : Ok s) (a b : Byte) (c : Half) : Ok (Machine.runReelStatus a b c s).2 := by
  unfold Machine.runReelStatus
  simp only
  split
  · exact h
  · split <;> exact h

theorem Ok.runProfileAccess (h : Ok s) (a : Byte) : Ok (Machine.runProfileAccess a s).2 := by
  unfold Machine.runProfileAccess
  split <;> exact h

theorem Ok.runProfileWrite (h : Ok s) (p : ProfilePart) : Ok (Machine.runProfileWrite p s).2 := by
  unfold Machine.runProfileWrite
  split
  · exact h
  · split <;> exact h

theorem Ok.runProfileValidate (h : Ok s) : Ok (Machine.runProfileValidate s).2 := by
  unfold Machine.runProfileValidate
  simp only
  split <;> exact h

theorem Ok.closeAllByAge (h : Ok s) : Ok (Machine.closeAllByAge s) := Ok.foldl (fun _ r hs => hs.closeByAge r) _ h

theorem Ok.phaseChanged (h : Ok s) (c a : Phase) : Ok (Machine.phaseChanged c a s) := h.notice _ _

theorem Ok.surgeNotice (h : Ok s) : Ok (Machine.surgeNotice s) := h.notice _ _

theorem Ok.changePhase (h : Ok s) (c : Phase) : Ok (Machine.changePhase c s) := by
  unfold Machine.changePhase
  simp only
  split
  · exact (((((h.modPresentRadios _).modGov _).modPresentRadios _ |>.modGov _).modPresentRadios _ |>.modSeals
      _).closeAllByAge.phaseChanged _ _).surgeNotice.modGovCtrs _ |>.askAll
  · exact ((((((h.modPresentRadios _).modGov _).modPresentRadios _).modPresentRadios _).modSeals
      _).closeAllByAge.phaseChanged _ _).modGovCtrs _ |>.askAll

theorem Ok.runPhaseSet (h : Ok s) (a : Byte) : Ok (Machine.runPhaseSet a s).2 := by
  unfold Machine.runPhaseSet
  split
  · exact h
  · split
    · exact h
    · split
      · exact (h.modGovCtrs _).notice _ _
      · exact h.changePhase _

theorem Ok.runSurgeSet (h : Ok s) (a : Byte) : Ok (Machine.runSurgeSet a s).2 := by
  unfold Machine.runSurgeSet
  split
  · exact h
  · exact (h.modGov _).takeSurge _

theorem Ok.runRateTable (h : Ok s) (l : List Half) : Ok (Machine.runRateTable l s).2 := by
  unfold Machine.runRateTable
  split <;> exact h



theorem Ok.runErrorRead (h : Ok s) (a : Byte) : Ok (Machine.runErrorRead a s).2 := by
  unfold Machine.runErrorRead
  split
  · exact h
  · simp only
    split
    · exact Ok.foldl (fun _ k hs => hs.setErrState k _) _ h
    · exact h

theorem Ok.runErrorClear (h : Ok s) (a : Half) (b : Byte) : Ok (Machine.runErrorClear a b s).2 := by
  unfold Machine.runErrorClear
  split
  · exact h
  · split
    · exact h
    · have h1 := fun l : List ErrClass =>
        Ok.foldl (f := fun s k => s.setErrState k { s.errState k with status := false }) (fun _ k hs => hs.setErrState k _) l h
      simp only
      split
      · exact (h1 _).setErr
      · exact h1 _

theorem Ok.configClass (h : Ok s) (a b : Option Bool) (c : ErrClass) : Ok (Machine.configClass a b c s) :=
  h.setErrState _ _

theorem Ok.runErrorConfig (h : Ok s) (a b c : Byte) (d : Half) : Ok (Machine.runErrorConfig a b c d s).2 := by
  unfold Machine.runErrorConfig
  split
  · next cs m sev t _ _ _ _ =>
    split
    · exact h
    · have h1 : Ok (cs.foldl (fun s c => Machine.configClass m sev c s) s) :=
        Ok.foldl (fun _ c hs => hs.configClass _ _ c) _ h
      exact h1.setErr
  · exact h

theorem Ok.settleEntry (h : Ok s) (k : Nat) : Ok (Machine.settleEntry k s) := by
  unfold Machine.settleEntry
  simp only
  split
  · exact h
  · split
    · exact h.setNoticeEntry _ _
    · split
      · exact h
      · exact h.setNoticeEntry _ _

theorem Ok.mapKind (h : Ok s) (x : Nat) (k : NoticeKind) : Ok (Machine.mapKind x k s) := by
  refine { h with mapping := ?_ }
  show Table.sorted (if x = k.home then _ else _) = true
  split
  · exact Table.sorted_del h.mapping
  · exact Table.sorted_put h.mapping

theorem Ok.runNoticeConfig (h : Ok s) (a : Byte) (b : Addr) (c d e : Byte) :
    Ok (Machine.runNoticeConfig a b c d e s).2 := by
  unfold Machine.runNoticeConfig
  simp only
  split
  · split <;> split
    · exact h
    · exact (Ok.foldl (fun _ k hs => hs.mapKind _ k) _ (h.setNoticeEntry _ _)).settleEntry _
    · exact h
    · exact (Ok.foldl (fun _ k hs => hs.mapKind _ k) _ (h.setNoticeEntry _ _)).settleEntry _
  · exact h

/-! ### Zone restart -/

theorem Ok.restartStations (h : Ok s) : Ok (Machine.restartStations s) :=
  { h.mapRadios (fun r => { r with stations := 0, subscribers := 0 }) with
    stations := (h.stations.filter _).map fun _ => ⟨Nat.zero_le _, id⟩
    ctxs := rfl
    marks := rfl }

theorem Ok.emptied (h : Ok s) (u : Uplink) (d : Nat) :
    Ok { s with uplink := u, draws := d, egress := { s.egress with lists := [], buffers := 0, bursts := 0 } } :=
  { h with lists := ⟨rfl, by simp⟩ }

theorem Ok.restartEgress (h : Ok s) : Ok (Machine.restartEgress s) := by
  unfold Machine.restartEgress
  exact (Ok.foldl (f := fun s' p => s'.setPort p ((s'.port p).restarted (s.draws + p))) (fun _ p hs => hs.setPort p _)
    [0, 1, 2, 3] h).emptied _ _

theorem Ok.restartGovernor (h : Ok s) : Ok (Machine.restartGovernor s) := Ok.modPresentRadios (h.modGov _) _

theorem Ok.restartReplay (h : Ok s) : Ok (Machine.restartReplay s) := by
  unfold Machine.restartReplay
  refine Ok.restartClips ?_
  exact { h with deliveries := .nil, waiting := rfl }

theorem Ok.zoneRestart (h : Ok s) : Ok (Machine.zoneRestart s) := by
  unfold Machine.zoneRestart
  simp only
  have h1 := h.restartStations.restartEgress.restartGovernor
  have h2 := Ok.foldl (fun _ i hs => Ok.retryItem hs i) s.adm.items
    (((h1.modAdm (f := fun a => { a with items := [], sweep := a.sweep.restarted })).lookForSlot).restartReplay.markAll)
  split
  · exact h2.surgeNotice
  · exact h2

/-- Running a directive keeps it. -/
theorem Ok.runDirective (h : Ok s) (d : Directive) : Ok (Machine.runDirective d s).2 := by
  unfold Machine.runDirective
  split
  case h_1 => exact h
  case h_2 => exact h.runSetTime _
  case h_3 => exact h.runCounterRead _ _ _ _
  case h_4 => exact h.zoneRestart
  case h_5 => exact h.runMgmtFilter _ _ _
  case h_6 => exact h.runRadioConfig _ _ _ _ _ _
  case h_7 => exact h.runRadioState _ _
  case h_8 => exact h.runRadioReset _
  case h_9 => exact h.runStationRead _
  case h_10 => exact h.runStationPin _
  case h_11 => exact h.runStationUnpin _
  case h_12 => exact h.runClearFans
  case h_13 => exact h.runStationSettings _ _ _ _ _
  case h_14 => exact h.runCredLoad _
  case h_15 => exact h.runCredRead _
  case h_16 => exact h.runCredVoid _
  case h_17 => exact h.runCredEraseWay _ _
  case h_18 => exact h.runAdmissionFreeze
  case h_19 => exact h.runEventClose
  case h_20 => exact h.runVoidSweep _ _
  case h_21 => exact h.runSweepSuspend
  case h_22 => exact h.runSweepResume
  case h_23 => exact h
  case h_24 => exact h.runClearRedemptions
  case h_25 => exact h.runReelConfig _ _ _ _
  case h_26 => exact h.runReelReset _
  case h_27 => exact h.runReelStatus _ _ _
  case h_28 => exact h.runProfileAccess _
  case h_29 => exact h.runProfileWrite _
  case h_30 => exact h.runProfileValidate
  case h_31 => exact h.runPhaseSet _
  case h_32 => exact h.runSurgeSet _
  case h_33 => exact h.runRateTable _
  case h_34 => exact h.runErrorRead _
  case h_35 => exact h.runErrorClear _ _
  case h_36 => exact h.runErrorConfig _ _ _ _
  case h_37 => exact h.runNoticeConfig _ _ _ _ _
  case h_38 => exact h

/-! ### Frames from the uplink -/

theorem Ok.fromUplink (h : Ok s) : Ok (Machine.fromUplink s) := h

theorem Ok.takeDownstream (h : Ok s) (a b : Addr) (e : Half) (l : List Byte) :
    Ok (Machine.takeDownstream a b e l s) := by
  unfold Machine.takeDownstream
  split
  · exact h
  · split
    · exact h
    · split
      · exact h
      · split
        · exact h
        · split
          · exact h
          · simp only
            split
            · exact h.offer _ _ _ _
            · exact h.hold _ _

/-! ### Completions -/

/-- The record memory is not spoken of. -/
theorem Ok.completed (h : Ok s) (x : RecMem) : Ok { s with mem := x } := h

theorem Ok.completeTransfer (h : Ok s) (k : ReqKind) (spoilt : List Host.Cell) {rule : Tagged → State → State}
    (hr : ∀ t s, Ok s → Ok (rule t s)) : Ok (Machine.completeTransfer k spoilt rule s) := by
  unfold Machine.completeTransfer
  split
  · exact h
  · exact hr _ _ (h.completed _)

/-! ### The rest of an event -/

theorem Ok.flush (h : Ok s) : Ok (Machine.flush s) := h.announce.settle.runArbiters

end Sys2Proof.Machine
end

section
/-! That every step keeps the pools and the tables: the management queue, the event, the commands, and the tick. -/

-- Proved one after another: beside the tests' threads, more threads would not fit the memory the check allows.
set_option Elab.async false

namespace Sys2Proof.Machine

variable {s : State}

/-! ### The management unit and the uplink -/

theorem Ok.startHead (h : Ok s) : Ok (Machine.startHead s) := by
  unfold Machine.startHead
  split
  · exact h
  · next e _ _ =>
    have hr := h.runDirective e.dir
    split
    · next heq => exact (hr.snd heq).reply _
    · next heq => exact (hr.snd heq).modMgmt _

theorem Ok.takeDirective (h : Ok s) (e : MgmtEntry) (f : List Byte) : Ok (Machine.takeDirective e f s) := by
  unfold Machine.takeDirective
  split
  · exact (h.modMgmtCtrs _).occur _
  · split
    · exact (h.modMgmtCtrs _).occur _
    · exact h.modMgmt _

theorem Ok.takeManagementFrame (h : Ok s) (src : Addr) (e : Half) (l : List Byte) :
    Ok (Machine.takeManagementFrame src e l s) := by
  unfold Machine.takeManagementFrame
  split
  · exact h.modMgmtCtrs _
  · split
    · exact h.modMgmtCtrs _
    · exact h.takeDirective _ _

theorem Ok.takeUplinkFrame (h : Ok s) (dst src : Addr) (e : Half) (l : List Byte) :
    Ok (Machine.takeUplinkFrame dst src e l s) := by
  unfold Machine.takeUplinkFrame
  split
  · exact h.takeReelFrame _ _ _
  · split
    · exact h.takeManagementFrame _ _ _
    · exact h.takeDownstream _ _ _ _

theorem Ok.directiveArrives (h : Ok s) (src : Addr) (tag : Half) (d : Directive) :
    Ok (Machine.directiveArrives src tag d s) := h.fromUplink.takeDirective _ _

theorem Ok.takeReel (h : Ok s) (src : Addr) (m : ReelMsg) : Ok (Machine.takeReel src m s) := h.takeReelMsg _ _

theorem Ok.arrive (h : Ok s) (p : Fin 4) (r : Byte) (a : Addr) (m : CarrierMsg) : Ok (Machine.arrive p r a m s) :=
  h.takeCarrierFrame _ _ _

/-! ### Completions and pins -/

/-- Every table of the reset state is empty. -/
theorem Ok.coldReset (s : State) : Ok (Machine.coldReset s) :=
  ⟨⟨rfl, Nat.zero_le _, by simp [Machine.coldReset], Nat.zero_le _⟩, rfl, rfl, .nil, rfl, rfl, rfl, ⟨rfl, by simp [Machine.coldReset]⟩,
   rfl, rfl, rfl, rfl, rfl, rfl, rfl⟩

theorem Ok.changeLine (h : Ok s) (level : Bool) : Ok (Machine.changeLine level s) :=
  Ok.takeSurge (s := { s with surgeLine := level }) h _

/-! ### The event -/

theorem Ok.runQueue (h : Ok s) (n : Nat) : Ok (Machine.runQueue n s) := by
  induction n generalizing s with
  | zero => exact h
  | succ n ih =>
    unfold Machine.runQueue
    split
    · exact h
    · exact ih h.startHead.flush

theorem Ok.finish (h : Ok s) : Ok (Machine.finish s) := (h.flush.runQueue _).setEv _

/-- A command whose own effect keeps it. -/
theorem Ok.event {f : State → State} {t : State} (hf : Ok (f s)) (ht : Machine.event f s = .next t) : Ok t := by
  unfold Machine.event at ht
  simp only [Host.Outcome.next.injEq] at ht
  rw [← ht]; exact hf.finish

theorem Ok.spelled (h : Ok s) {src : Addr} {tag : Half} {d : Directive} {t : State}
    (ht : spelledArrives src tag d s = .next t) : Ok t := by
  unfold spelledArrives at ht
  split at ht
  · simp at ht
  · exact Ok.event (h.directiveArrives _ _ _) ht

/-- A directive whose list a frame can spell, or none. -/
theorem Ok.listed (h : Ok s) {src : Addr} {tag : Half} {d : Directive} {p : Prop} [Decidable p] {t : State}
    (ht : (if p then .fault .notAFrame else Machine.event (Machine.directiveArrives src tag d) s) = .next t) : Ok t := by
  split at ht
  · simp at ht
  · exact Ok.event (h.directiveArrives _ _ _) ht

/-! ### The commands -/

/-- A frame of a row of the carrier, as its command takes it. -/
theorem Ok.upstreamData (h : Ok s) (p : Fin 4) (r : Byte) (a dst : Addr) (e : Half) (l : List Byte) :
    Ok (if l = [] ∨ 1500 < l.length then
        Machine.takeMalformed (CarrierFrame.bytes ⟨r, a, .data dst e l⟩) (Machine.fromPort p.val s)
      else Machine.arrive p r a (.data dst e l) s) := by
  split
  · exact (h.fromPort _).takeMalformed _
  · exact h.arrive _ _ _ _

theorem Ok.segmentDataFrame (h : Ok s) (src : Addr) (reel : Byte) (q o : Word32) (l : List Byte) :
    Ok (if l = [] ∨ Config.frameData < l.length then Machine.malformedReel (Machine.fromUplink s)
      else Machine.takeReel src (.segData reel q o l) (Machine.fromUplink s)) := by
  split
  · exact h.fromUplink.malformedReel
  · exact h.fromUplink.takeReel _ _

/-- Every command keeps it. -/
theorem Ok.exec (h : Ok s) (c : Instr) {t : State} (ht : Machine.exec c s = .next t) : Ok t := by
  cases c with
  | coldReset => exact Ok.event (Ok.coldReset s) ht
  | surgeLineChange level => exact Ok.event (h.changeLine level) ht
  | downstreamDataFrame dst src e l => exact Ok.event (h.fromUplink.takeUplinkFrame dst src e l) ht
  | managementFrame src e l => exact Ok.event (h.fromUplink.takeManagementFrame src e l) ht
  | malformedReelFrame src e l => exact Ok.event (h.fromUplink.takeReelFrame src e l) ht
  | segmentOpen src reel q len => exact Ok.event (h.fromUplink.takeReel src (.segOpen reel q len)) ht
  | segmentData src reel q o l => exact Ok.event (h.segmentDataFrame src reel q o l) ht
  | segmentClose src reel q => exact Ok.event (h.fromUplink.takeReel src (.segClose reel q)) ht
  | malformedCarrierFrame p l => exact Ok.event (h.takeCarrierBytes p.val l) ht
  | upstreamDataFrame p r a dst e l => exact Ok.event (h.upstreamData p r a dst e l) ht
  | join p r a => exact Ok.event (h.arrive p r a .join) ht
  | part p r a => exact Ok.event (h.arrive p r a .part) ht
  | release p r a n => exact Ok.event (h.arrive p r a (.release n)) ht
  | radioStatus p r k => exact Ok.event (h.arrive p r 0 (.radioStatus k)) ht
  | scan p r a code d sc => exact Ok.event (h.arrive p r a (.scan code d sc)) ht
  | checkin p r a code => exact Ok.event (h.arrive p r a (.checkin code)) ht
  | cue p r a reel mode st w => exact Ok.event (h.arrive p r a (.cue reel mode st w)) ht
  | halt p r a => exact Ok.event (h.arrive p r a .halt) ht
  | partToRadioServiceFrame p r a code body =>
    exact Ok.event (h.takeCarrierBytes p.val (serviceBytes r.toNat a code body)) ht
  | lingerExpiry x => exact Ok.event (h.lingerExpire x.val) ht
  | detachTimerExpiry x => exact Ok.event (h.detachExpire x.val) ht
  | dampingExpiry x => exact Ok.event (h.dampingExpire x.val) ht
  | sealTimerExpiry r => exact Ok.event (h.sealExpire r.val) ht
  | wakeTimerExpiry r => exact Ok.event (h.wakeExpire r.val) ht
  | stageTimerExpiry => exact Ok.event h.stageExpire ht
  | transmitCompletion p => exact Ok.event (h.completeTransmit p.val) ht
  | credentialFetchCompletion sp => exact Ok.event (h.completeTransfer _ sp fun t _ hs => hs.fetchCompleted t) ht
  | credentialWriteBackCompletion => exact Ok.event (h.completeTransfer _ [] fun t _ hs => hs.writeBackCompleted t) ht
  | sweepStrideCompletion sp => exact Ok.event (h.completeTransfer _ sp fun t _ hs => hs.strideCompleted t) ht
  | clipChunkReadCompletion => exact Ok.event (h.completeTransfer _ [] fun t _ hs => hs.chunkCompleted t) ht
  | clipIngestWriteCompletion => exact Ok.event (h.completeTransfer _ [] fun t _ hs => hs.ingestCompleted t) ht
  | mgmtFilter | credLoad => exact h.listed ht
  | stationRead | credRead | profileWrite | rateTable | unknownDirective => exact h.spelled ht
  | _ => exact Ok.event (h.directiveArrives _ _ _) ht

/-! ### The tick and the step -/

theorem Ok.uplinkSends (h : Ok s) : Ok (Machine.uplinkSends s) := by
  unfold Machine.uplinkSends
  split
  · exact h
  · exact h

theorem Ok.takeArrivals (h : Ok s) : Ok (Machine.takeArrivals s) := h.mapPorts _

/-- A tick takes from the receive FIFOs only (R173; log entry 2). -/
theorem Ok.tick (h : Ok s) : Ok (Machine.tick s) :=
  (Ok.uplinkSends (s := { s with venueTime := s.venueTime + 1 }) h).takeArrivals

theorem Ok.step (h : Ok s) {t : State} (ht : Machine.step s = .next t) : Ok t := by
  unfold Machine.step at ht
  split at ht
  · next c rest _ => exact Ok.exec (s := { s with pending := rest }) h c ht
  · simp only [Host.Outcome.next.injEq] at ht
    rw [← ht]; exact h.tick

end Sys2Proof.Machine

open Sys2Proof Sys2Proof.Machine in
/-- Settles O6: the predicate `Ok` is kept by every operation, so by every command and by the tick. -/
theorem everyStepKeepsPoolsAndTables : Obligations.EveryStepKeepsPoolsAndTables := fun s _ hp ht hs =>
  (ok_iff _).1 (Ok.step ((ok_iff s).2 ⟨hp, ht⟩) hs)
end

section
/-! The reset values and COLD_RESET (R2, R16, R24, R25, R45, R60, R62, R77, R129, R169, R177, R182). -/

-- One proof at a time: the threads of the default would not fit the memory the check allows.
set_option Elab.async false

open Sys2Proof.Machine

/-- Settles O4: the reset state asks for nothing, so the event of COLD_RESET ends with it. -/
theorem coldResetReturnsReset : Obligations.ColdResetReturnsReset :=
  fun s => event_quiet (f := coldReset) (s := s) rfl (Or.inl rfl)

namespace Sys2Proof.Machine

theorem reset_inv : State.reset.Inv :=
  ⟨⟨by decide, by decide, by decide, by decide, by decide, by decide, by decide, by decide⟩, ⟨by decide, by decide⟩⟩

theorem reset_pools : State.reset.Pools := by
  refine ⟨by decide, ?_, by decide, by decide, ?_, ?_⟩
  · intro e he; cases he
  · exact fun _ => Nat.zero_le 8
  · intro e he; cases he

theorem reset_tables : State.reset.Tables := by constructor <;> rfl

end Sys2Proof.Machine

/-- Settles O3: every field of the reset state by evaluation, every table being empty. -/
theorem resetHoldsSpecValues : Obligations.ResetHoldsSpecValues := by
  refine ⟨⟨reset_inv, reset_pools, reset_tables, rfl, Or.inl rfl⟩, rfl, rfl, rfl, rfl, rfl, fun _ => rfl, fun _ => rfl, rfl,
    fun _ => rfl, rfl, fun _ => rfl, rfl, rfl, fun _ => rfl, fun _ => rfl, rfl, rfl, rfl, rfl, rfl, rfl, fun _ => rfl,
    fun _ => rfl, fun _ => rfl, fun _ => rfl, rfl, rfl, rfl, rfl, rfl, fun _ => rfl, rfl, rfl, rfl, rfl, fun _ => rfl, ?_⟩
  intro k
  rfl
end

section
/-! The bytes of frames and directives read back as what they spell (R184 to R190), so that a command with fields does what the
frame that carries it does. -/

-- One proof at a time: the threads of the default would not fit the memory the check allows.
set_option Elab.async false

namespace Sys2Proof.Machine

/-! ### Fields of a list of bytes -/

theorem beVal_append (l m : List Byte) : beVal (l ++ m) = beVal l * 256 ^ m.length + beVal m := by
  induction m using List.reverseRecOn with
  | nil => simp [beVal]
  | append_singleton m b ih =>
    rw [← List.append_assoc]
    simp only [beVal, List.foldl_append, List.foldl_cons, List.foldl_nil, List.length_append, List.length_singleton] at *
    rw [ih]; ring

/-- The low `n` bytes of a number spell the number modulo 256 to the `n`. -/
theorem beVal_be (n v : Nat) : beVal (be n v) = v % 256 ^ n := by
  induction n with
  | zero => simp [be, beVal, Nat.mod_one]
  | succ n ih =>
    rw [be, ← List.singleton_append, beVal_append, ih, length_be]
    have hd : beVal [BitVec.ofNat 8 (v / 256 ^ n)] = v / 256 ^ n % 256 := by simp [beVal]
    rw [hd, Nat.pow_succ, Nat.mod_mul, mul_comm, add_comm]

theorem be_toNat_mod {w n : Nat} (v : BitVec w) (h : w ≤ 8 * n) : v.toNat % 256 ^ n = v.toNat := by
  refine Nat.mod_eq_of_lt (lt_of_lt_of_le v.isLt ?_)
  rw [show (256 : Nat) = 2 ^ 8 from rfl, ← Nat.pow_mul]
  exact Nat.pow_le_pow_right (by decide) h

theorem be_one (n : Nat) : be 1 n = [BitVec.ofNat 8 n] := by simp [be]

@[simp] theorem fieldAt_cons (b : Byte) (l : List Byte) (a n : Nat) : fieldAt (b :: l) (a + 1) n = fieldAt l a n := rfl

@[simp] theorem fieldAt_skip {k a : Nat} (v : Nat) (l : List Byte) (n : Nat) (h : k ≤ a) :
    fieldAt (be k v ++ l) a n = fieldAt l (a - k) n := by
  simp [fieldAt, List.drop_append, List.drop_of_length_le, h]

theorem fieldAt_be (n v : Nat) (l : List Byte) : fieldAt (be n v ++ l) 0 n = v % 256 ^ n := by
  rw [fieldAt, List.drop_zero, List.take_left' (length_be n v), beVal_be]

@[simp] theorem u8_cons_zero (b : Byte) (l : List Byte) : u8 (b :: l) 0 = b := rfl

@[simp] theorem u8_cons (b : Byte) (l : List Byte) (a : Nat) : u8 (b :: l) (a + 1) = u8 l a := rfl

@[simp] theorem u8_skip {k a : Nat} (v : Nat) (l : List Byte) (h : k ≤ a) : u8 (be k v ++ l) a = u8 l (a - k) := by
  simp only [u8, List.getD_eq_getElem?_getD]
  rw [List.getElem?_append_right (by simpa using h), length_be]

@[simp] theorem u16_be (v : Half) (l : List Byte) : u16 (be 2 v.toNat ++ l) 0 = v := by
  rw [u16, fieldAt_be, be_toNat_mod v (by decide), BitVec.ofNat_toNat, BitVec.setWidth_eq]

@[simp] theorem u16_be_end (v : Half) : u16 (be 2 v.toNat) 0 = v := by simpa using u16_be v []

@[simp] theorem u16_cons (b : Byte) (l : List Byte) (a : Nat) : u16 (b :: l) (a + 1) = u16 l a := rfl

@[simp] theorem u16_skip {k a : Nat} (v : Nat) (l : List Byte) (h : k ≤ a) : u16 (be k v ++ l) a = u16 l (a - k) := by
  simp [u16, h]

@[simp] theorem u32_be (v : Word32) (l : List Byte) : u32 (be 4 v.toNat ++ l) 0 = v := by
  rw [u32, fieldAt_be, be_toNat_mod v (by decide), BitVec.ofNat_toNat, BitVec.setWidth_eq]

@[simp] theorem u32_be_end (v : Word32) : u32 (be 4 v.toNat) 0 = v := by simpa using u32_be v []

@[simp] theorem u32_cons (b : Byte) (l : List Byte) (a : Nat) : u32 (b :: l) (a + 1) = u32 l a := rfl

@[simp] theorem u32_skip {k a : Nat} (v : Nat) (l : List Byte) (h : k ≤ a) : u32 (be k v ++ l) a = u32 l (a - k) := by
  simp [u32, h]

@[simp] theorem u48_be (v : Addr) (l : List Byte) : u48 (be 6 v.toNat ++ l) 0 = v := by
  rw [u48, fieldAt_be, be_toNat_mod v (by decide), BitVec.ofNat_toNat, BitVec.setWidth_eq]

@[simp] theorem u48_be_end (v : Addr) : u48 (be 6 v.toNat) 0 = v := by simpa using u48_be v []

@[simp] theorem u48_cons (b : Byte) (l : List Byte) (a : Nat) : u48 (b :: l) (a + 1) = u48 l a := rfl

@[simp] theorem u48_skip {k a : Nat} (v : Nat) (l : List Byte) (h : k ≤ a) : u48 (be k v ++ l) a = u48 l (a - k) := by
  simp [u48, h]

@[simp] theorem u64_be (v : Word64) (l : List Byte) : u64 (be 8 v.toNat ++ l) 0 = v := by
  rw [u64, fieldAt_be, be_toNat_mod v (by decide), BitVec.ofNat_toNat, BitVec.setWidth_eq]

@[simp] theorem u64_be_end (v : Word64) : u64 (be 8 v.toNat) 0 = v := by simpa using u64_be v []

@[simp] theorem u64_cons (b : Byte) (l : List Byte) (a : Nat) : u64 (b :: l) (a + 1) = u64 l a := rfl

@[simp] theorem u64_skip {k a : Nat} (v : Nat) (l : List Byte) (h : k ≤ a) : u64 (be k v ++ l) a = u64 l (a - k) := by
  simp [u64, h]

theorem u8_append {l : List Byte} {n : Nat} (h : l.length = n) (r : List Byte) (a : Nat) : u8 (l ++ r) (n + a) = u8 r a := by
  subst h
  simp only [u8, List.getD_eq_getElem?_getD]
  rw [List.getElem?_append_right (Nat.le_add_right _ _), Nat.add_sub_cancel_left]

theorem u48_append {l : List Byte} {n : Nat} (h : l.length = n) (r : List Byte) (a : Nat) :
    u48 (l ++ r) (n + a) = u48 r a := by
  subst h; simp [u48, fieldAt]

/-! ### Carrier frames and reel frames (R185 to R188) -/

theorem length_etherBytes (dst src : Addr) (etype : Half) (payload : List Byte) :
    (etherBytes dst src etype payload).length = 14 + payload.length := by
  simp [etherBytes]; omega

/-- A carrier header of version 1 with a body of the length it gives reads back as the header's fields (R186). -/
theorem parseCarrier_header (r kind code : Byte) (a : Addr) (body : List Byte) (h : body.length < 65536) :
    parseCarrier (carrierHeader r.toNat kind a code body.length ++ body)
      = if kind = 1 then
          if 15 ≤ body.length ∧ body.length ≤ 1514 ∧ u48 body 6 = a then
            some ⟨r, a, .data (u48 body 0) (u16 body 12) (body.drop 14)⟩
          else none
        else if kind = 2 then
          if serviceLength code.toNat = some body.length then some ⟨r, a, serviceMsg code body⟩ else none
        else none := by
  have hr : be 1 r.toNat = [r] := by simp [be_one]
  have hlen : (carrierHeader r.toNat kind a code body.length).length = 12 := by simp [carrierHeader]
  have hdrop : (carrierHeader r.toNat kind a code body.length ++ body).drop 12 = body := List.drop_left' hlen
  have hfield : fieldAt (carrierHeader r.toNat kind a code body.length ++ body) 10 2 = body.length := by
    simp [carrierHeader, hr, fieldAt_be, Nat.mod_eq_of_lt h]
  unfold parseCarrier
  rw [if_neg (by simp [hlen]), hdrop, hfield]
  simp [carrierHeader, hr]

theorem serviceLength_le {k n : Nat} (h : serviceLength k = some n) : n ≤ 18 := by
  unfold serviceLength at h
  split at h <;> simp at h <;> omega

/-- A code of 10h or above is none a radio sends (R185). -/
theorem serviceMsg_toRadio {code : Byte} (body : List Byte) (h : 0x10 ≤ code.toNat) :
    serviceMsg code body = .toRadio code body := by
  unfold serviceMsg
  split
  any_goals omega
  rfl

/-- A frame with fields reads back from its bytes (R185, R186). -/
theorem parseCarrier_bytes {c : CarrierFrame} (h : carrierWf c = true) : parseCarrier c.bytes = some c := by
  obtain ⟨r, a, m⟩ := c
  cases m with
  | data dst etype payload =>
    have hp : 1 ≤ payload.length ∧ payload.length ≤ 1500 := by simpa [carrierWf, payloadWf] using h
    have hl := length_etherBytes dst a etype payload
    simp only [CarrierFrame.bytes, dataBytes]
    rw [← hl, parseCarrier_header _ _ _ _ _ (by omega), if_pos rfl, hl, if_pos ⟨by omega, by omega, by simp [etherBytes]⟩]
    simp [etherBytes, List.drop_append, List.drop_of_length_le]
  | toRadio code body =>
    obtain ⟨hc, hl⟩ : 0x10 ≤ code.toNat ∧ serviceLength code.toNat = some body.length := by
      simpa [carrierWf, toRadioWf] using h
    have hle := serviceLength_le hl
    simp only [CarrierFrame.bytes, serviceBytes]
    rw [parseCarrier_header _ _ _ _ _ (by omega), if_neg (by decide), if_pos rfl, if_pos hl, serviceMsg_toRadio body hc]
  | _ =>
    simp only [CarrierFrame.bytes, serviceBytes]
    rw [parseCarrier_header _ _ _ _ _ (by simp), if_neg (by decide), if_pos rfl, if_pos (by simp [serviceLength])]
    simp [serviceMsg]

theorem parseReel_content {m : ReelMsg} (h : reelWf m = true) : parseReel typeReel m.content = some m := by
  cases m with
  | segOpen reel seq len => simp [parseReel, ReelMsg.content]
  | segData reel seq offset data =>
    obtain ⟨h1, h2⟩ : 1 ≤ data.length ∧ data.length ≤ Config.frameData := by simpa [reelWf] using h
    have hd : data.length % 65536 = data.length := Nat.mod_eq_of_lt (lt_of_le_of_lt h2 (by decide))
    have hn : data ≠ [] := List.ne_nil_of_length_pos h1
    simp [parseReel, ReelMsg.content, fieldAt_be, hd, hn, h2, List.drop_append, List.drop_of_length_le]
    omega
  | segClose reel seq => simp [parseReel, ReelMsg.content]

/-! ### Directives (R189, R190) -/

theorem parseAddrs_bytes (l : List Addr) (r : List Byte) :
    parseAddrs l.length (l.flatMap (fun a => be 6 a.toNat) ++ r) = l := by
  induction l with
  | nil => rfl
  | cons a l ih => simp [parseAddrs, ih]

theorem parseLoads_bytes (l : List LoadRec) (r : List Byte) : parseLoads l.length (l.flatMap LoadRec.bytes ++ r) = l := by
  induction l with
  | nil => rfl
  | cons a l ih => simp [parseLoads, LoadRec.bytes, List.drop_append, List.drop_of_length_le, ih]

theorem parseHalves_bytes (l : List Half) (r : List Byte) :
    parseHalves l.length (l.flatMap (fun v => be 2 v.toNat) ++ r) = l := by
  induction l with
  | nil => rfl
  | cons a l ih => simp [parseHalves, ih]

@[simp] theorem LoadRec.length_bytes (r : LoadRec) : r.bytes.length = 20 := by simp [LoadRec.bytes]

theorem parseStationRef_bytes {r : StationRef} (h : stationRefWf r = true) : parseStationRef r.bytes = some r := by
  cases r with
  | badForm form rest =>
    obtain ⟨h1, h2, -⟩ : form ≠ 1 ∧ form ≠ 2 ∧ rest.length ≤ 65534 := by simpa [stationRefWf] using h
    simp only [StationRef.bytes, parseStationRef, if_neg h1, if_neg h2]
  | _ => simp [parseStationRef, StationRef.bytes]

theorem parseCredRef_bytes {r : CredRef} (h : credRefWf r = true) : parseCredRef r.bytes = some r := by
  cases r with
  | badForm form rest =>
    obtain ⟨h1, h2, -⟩ : form ≠ 1 ∧ form ≠ 2 ∧ rest.length ≤ 65534 := by simpa [credRefWf] using h
    simp only [CredRef.bytes, parseCredRef, if_neg h1, if_neg h2]
  | _ => simp [parseCredRef, CredRef.bytes]

theorem parseProfilePart_bytes {p : ProfilePart} (h : profilePartWf p = true) : parseProfilePart p.bytes = some p := by
  cases p with
  | group g =>
    have hg : g.val % 256 = g.val := by omega
    simp [parseProfilePart, ProfilePart.bytes, hg, g.isLt]
  | badPart part rest =>
    obtain ⟨h1, -⟩ : 10 < part.toNat ∧ rest.length ≤ 65534 := by simpa [profilePartWf] using h
    have hne {k : Byte} (hk : k.toNat ≤ 10) : part ≠ k := by rintro rfl; omega
    simp only [parseProfilePart, ProfilePart.bytes, dif_neg (show ¬ part.toNat < 8 by omega), if_neg (hne (k := 8) (by decide)),
      if_neg (hne (k := 9) (by decide)), if_neg (hne (k := 10) (by decide))]
  | _ => simp [parseProfilePart, ProfilePart.bytes]

/-- A directive reads back from its body (R190). -/
theorem parseDirective_body {d : Directive} (h : directiveWf d = true) : parseDirective d.kind d.body = d := by
  cases d with
  | mgmtFilter addrs present new =>
    have hn : addrs.length % 256 = addrs.length := Nat.mod_eq_of_lt (by simp [directiveWf] at h; omega)
    have hl : (addrs.flatMap (fun a => be 6 a.toNat)).length = 6 * addrs.length := by simp; omega
    have hb : (Directive.mgmtFilter addrs present new).body
        = BitVec.ofNat 8 addrs.length :: (addrs.flatMap (fun a => be 6 a.toNat) ++ present :: be 6 new.toNat) := by
      simp [Directive.body, be_one]
    have hpresent : u8 (BitVec.ofNat 8 addrs.length :: (addrs.flatMap (fun a => be 6 a.toNat) ++ present :: be 6 new.toNat))
        (1 + 6 * addrs.length) = present := by
      rw [Nat.add_comm, u8_cons]; exact u8_append hl _ 0
    have hnew : u48 (BitVec.ofNat 8 addrs.length :: (addrs.flatMap (fun a => be 6 a.toNat) ++ present :: be 6 new.toNat))
        (2 + 6 * addrs.length) = new := by
      rw [Nat.add_comm, u48_cons]; exact (u48_append hl _ 1).trans (u48_be_end new)
    simp [parseDirective, Directive.kind, hb, hn, hpresent, hnew, parseAddrs_bytes]
    omega
  | credLoad recs =>
    have hn : recs.length % 256 = recs.length := Nat.mod_eq_of_lt (by simp [directiveWf] at h; omega)
    have hp := parseLoads_bytes recs []
    rw [List.append_nil] at hp
    simp [parseDirective, Directive.kind, Directive.body, be, hn, hp]
    omega
  | rateTable rates =>
    have hn : rates.length = 16 := by simpa [directiveWf] using h
    have hp := parseHalves_bytes rates []
    rw [List.append_nil, hn] at hp
    simp [parseDirective, Directive.kind, Directive.body, hn, hp]
  | stationRead ref => simp [parseDirective, Directive.kind, Directive.body, parseStationRef_bytes h]
  | credRead ref => simp [parseDirective, Directive.kind, Directive.body, parseCredRef_bytes h]
  | profileWrite part => simp [parseDirective, Directive.kind, Directive.body, parseProfilePart_bytes h]
  | unknown k body =>
    obtain ⟨-, hp⟩ : body.length ≤ 65535 ∧ parseDirective k body = .unknown k body := by simpa [directiveWf] using h
    exact hp
  | _ => simp [parseDirective, Directive.kind, Directive.body]

theorem body_length_le {d : Directive} (h : directiveWf d = true) : d.body.length ≤ 65535 := by
  cases d with
  | mgmtFilter addrs => simp [directiveWf] at h; simp [Directive.body]; omega
  | credLoad recs => simp [directiveWf] at h; simp [Directive.body]; omega
  | rateTable rates => simp [directiveWf] at h; simp [Directive.body, h]
  | stationRead ref => cases ref <;> simp [directiveWf, stationRefWf] at h <;> simp [Directive.body, StationRef.bytes]; omega
  | credRead ref => cases ref <;> simp [directiveWf, credRefWf] at h <;> simp [Directive.body, CredRef.bytes]; omega
  | profileWrite part =>
    cases part <;> simp [directiveWf, profilePartWf] at h <;> simp [Directive.body, ProfilePart.bytes]; omega
  | unknown k body => simp [directiveWf] at h; exact h.1
  | _ => simp [Directive.body]

/-- The content of a directive's frame reads back as header and body (R189). -/
theorem parseContent_content (src : Addr) (tag : Half) {d : Directive} (h : d.body.length ≤ 65535) :
    parseContent src (directiveContent tag d) = ⟨src, tag, d.readBack⟩ := by
  have hn : d.body.length % 65536 = d.body.length := Nat.mod_eq_of_lt (by omega)
  simp [parseContent, directiveContent, fieldAt_be, hn, Directive.readBack, List.drop_append, List.drop_of_length_le]

/-! ### Commands that are frames -/

/-- A directive's frame to the management address is the directive's arrival. -/
theorem takeManagementFrame_content (src : Addr) (tag : Half) {d : Directive} (h : d.body.length ≤ 65535) (s : State) :
    takeManagementFrame src typeManagement (directiveContent tag d) (fromUplink s)
      = takeDirective ⟨src, tag, d.readBack⟩ (s.managementBytes src typeManagement (directiveContent tag d)) (fromUplink s) := by
  have hl : ¬ (directiveContent tag d).length < 7 := by simp [directiveContent]; omega
  unfold takeManagementFrame
  rw [if_neg (fun hne => hne rfl), if_neg hl, parseContent_content src tag h]
  rfl

/-- A command that is a directive has the operands its directive's body carries. -/
theorem directiveWf_of_wf {i : Instr} {e : MgmtEntry} (hd : i.directive = some e) (hw : i.wf = true) :
    directiveWf e.dir = true := by
  cases i <;> cases hd <;> exact hw

/-- A reel frame's content to the ingest address is the reel frame. -/
theorem takeReelFrame_content {m : ReelMsg} (h : reelWf m = true) (src : Addr) (s : State) :
    takeReelFrame src typeReel m.content s = takeReel src m s := by
  unfold takeReelFrame
  rw [parseReel_content h]
  rfl

theorem event_congr {f g : State → State} {s : State} (h : f s = g s) : event f s = event g s := by
  unfold event; rw [h]

theorem exec_managementFrame (src : Addr) (etype : Half) (content : List Byte) (s : State) :
    exec (.managementFrame src etype content) s
      = event (fun s => takeManagementFrame src etype content (fromUplink s)) s := rfl

theorem exec_downstreamDataFrame (dst src : Addr) (etype : Half) (payload : List Byte) (s : State) :
    exec (.downstreamDataFrame dst src etype payload) s
      = event (fun s => takeUplinkFrame dst src etype payload (fromUplink s)) s := rfl

theorem exec_malformedReelFrame (src : Addr) (etype : Half) (content : List Byte) (s : State) :
    exec (.malformedReelFrame src etype content) s
      = event (fun s => takeReelFrame src etype content (fromUplink s)) s := rfl

theorem exec_upstreamDataFrame (port : Fin 4) (radio : Byte) (station dst : Addr) (etype : Half) (payload : List Byte)
    (s : State) :
    exec (.upstreamDataFrame port radio station dst etype payload) s
      = event (fun s =>
        if payload = [] ∨ 1500 < payload.length then
          takeMalformed (CarrierFrame.bytes ⟨radio, station, .data dst etype payload⟩) (fromPort port.val s)
        else arrive port radio station (.data dst etype payload) s) s := rfl

theorem exec_segmentData (src : Addr) (reel : Byte) (seq offset : Word32) (data : List Byte) (s : State) :
    exec (.segmentData src reel seq offset data) s
      = event (fun s =>
        if data = [] ∨ Config.frameData < data.length then malformedReel (fromUplink s)
        else takeReel src (.segData reel seq offset data) (fromUplink s)) s := rfl

theorem exec_reelFrame {m : ReelMsg} (h : reelWf m = true) (src : Addr) (s : State) :
    exec (.malformedReelFrame src typeReel m.content) s = event (fun s => takeReel src m (fromUplink s)) s :=
  event_congr (takeReelFrame_content h src (fromUplink s))

theorem spelledArrives_of_wf {d : Directive} (h : directiveWf d = true) (src : Addr) (tag : Half) (s : State) :
    spelledArrives src tag d s = event (directiveArrives src tag d) s := by
  unfold spelledArrives
  rw [if_neg (by have := body_length_le h; omega), Directive.readBack, parseDirective_body h]

/-- A directive's command is the directive's arrival (log entry 8). -/
theorem exec_directive {i : Instr} {e : MgmtEntry} (hd : i.directive = some e) (hw : i.wf = true) (s : State) :
    exec i s = event (directiveArrives e.src e.tag e.dir) s := by
  have hwf := directiveWf_of_wf hd hw
  cases i <;> cases hd
  case mgmtFilter => exact if_neg (by simpa [directiveWf] using hwf)
  case credLoad => exact if_neg (by simpa [directiveWf] using hwf)
  case stationRead | credRead | profileWrite | rateTable | unknownDirective => exact spelledArrives_of_wf hwf _ _ s
  all_goals rfl

/-- A frame from a downlink port with fields is the frame's bytes arriving (R185, R186). -/
theorem exec_carrier {i : Instr} {p : Fin 4} {c : CarrierFrame} (hc : i.carrier = some (p, c)) (hw : i.wf = true) (s : State) :
    exec i s = event (takeCarrierBytes p.val c.bytes) s := by
  have hread (h : carrierWf c = true) :
      takeCarrierBytes p.val c.bytes = takeCarrierFrame p.val c c.bytes := by
    funext s; unfold takeCarrierBytes; rw [parseCarrier_bytes h]
  cases i <;> cases hc
  case upstreamDataFrame payload =>
    have hp : 1 ≤ payload.length ∧ payload.length ≤ 1500 := by simpa [Instr.wf, payloadWf] using hw
    have hlen : ¬ (payload = [] ∨ 1500 < payload.length) := by
      rintro (rfl | h)
      · exact absurd hp.1 (by decide)
      · omega
    rw [hread hw, exec_upstreamDataFrame]
    refine event_congr ?_
    rw [if_neg hlen]
    rfl
  case partToRadioServiceFrame => rfl
  all_goals rw [hread rfl]; rfl

end Sys2Proof.Machine

open Sys2Proof Sys2Proof.Machine in
/-- Settles O11: the frame's bytes read back as the command's fields, and both take them the same way. -/
theorem frameCommandsAreTheirBytes : Obligations.FrameCommandsAreTheirBytes := by
  refine ⟨fun i p c s hc hw => exec_carrier hc hw s, fun i e s hd hw => ?_, fun src reel seq len s => ?_,
    fun src reel seq offset data s h1 h2 => ?_, fun src reel seq s => ?_, fun dst src etype payload s h => ?_,
    fun dst src etype payload s hi hm => ?_⟩
  · have hwf := directiveWf_of_wf hd hw
    rw [exec_directive hd hw, exec_managementFrame]
    refine event_congr ?_
    rw [takeManagementFrame_content _ _ (body_length_le hwf), Directive.readBack, parseDirective_body hwf]
    rfl
  · rw [exec_reelFrame rfl]; rfl
  · have hw : reelWf (.segData reel seq offset data) = true := decide_eq_true ⟨h1, h2⟩
    have hlen : ¬ (data = [] ∨ Config.frameData < data.length) := by
      rintro (rfl | h)
      · exact absurd h1 (by decide)
      · exact absurd h (Nat.not_lt.2 h2)
    rw [exec_reelFrame hw, exec_segmentData]
    refine event_congr ?_
    rw [if_neg hlen]
  · rw [exec_reelFrame rfl]; rfl
  · rw [exec_downstreamDataFrame, exec_malformedReelFrame]
    refine event_congr ?_
    unfold takeUplinkFrame
    rw [if_pos (show dst = (fromUplink s).ingestAddr from h)]
  · rw [exec_downstreamDataFrame, exec_managementFrame]
    refine event_congr ?_
    unfold takeUplinkFrame
    rw [if_neg (show dst ≠ (fromUplink s).ingestAddr from hi), if_pos (show dst = (fromUplink s).mgmt.address from hm)]
end

section
/-! Standing and class (R13, R14); and the directives that are answered as they arrive and change nothing. -/

-- One proof at a time: the threads of the default would not fit the memory the check allows.
set_option Elab.async false

open Sys2Proof Sys2Proof.Machine

/-- Settles O14: the cases of the definitions of standing, derived class and its application. -/
theorem standingAndClassAreDerived : Obligations.StandingAndClassAreDerived := by
  refine ⟨fun s st hb => ?_, fun s st b r c hb hr hc => ?_, fun s st b hb hr => ?_, fun st => ⟨?_, fun h => ?_, fun h h0 => ?_,
    fun h hp => ?_⟩⟩
  · simp [State.standingOf, hb]
  · simp [State.standingOf, hb, hr, hc, permits]
  · simp [State.standingOf, hb, hr]
  · unfold Station.derived
    split
    · next h => rw [if_pos (.inl h)]
    · next h => simp only [h, Bool.false_eq_true, false_or]
  · exact if_pos h
  · unfold Station.rederive; rw [if_neg h, if_pos h0]
  · unfold Station.rederive; rw [if_neg h, if_neg (by omega)]

namespace Sys2Proof.Machine

/-! ### Directives answered as they arrive, changing nothing -/

/-- A directive that is answered where nothing changes (R170, R171). -/
theorem exec_unchanged {i : Instr} {src : Addr} {tag : Half} {d : Directive} {s : State} {st : Status} {body : List Byte}
    {k : Half} (hs : s.Ready src) (hd : i.directive = some ⟨src, tag, d⟩) (hk : d.kind = k) (hw : i.wf = true)
    (hrun : runDirective d (s.queued ⟨src, tag, d⟩) = (some ⟨st, body⟩, s.queued ⟨src, tag, d⟩)) :
    exec i s = .next (s.concluded src k tag st body) := by
  rw [← hk, exec_directive hd hw]
  exact directive_concluded hs hrun hs.1 hs.2.2.1 hs.2.2.2

theorem stationAnswer_none {s : State} {h : Option Nat} (hn : h.bind s.station = none) : stationAnswer s h = ⟨.done, [0]⟩ := by
  unfold stationAnswer
  cases h with
  | none => rfl
  | some h => simp only [Option.bind_some] at hn; simp [hn]

theorem stationAnswer_some {s : State} {h : Nat} {st : Station} (hst : s.station h = some st) :
    stationAnswer s (some h) = ⟨.done, 1 :: stationBytes s h st⟩ := by
  simp [stationAnswer, hst]

/-- The bytes of a record do not depend on the management queue. -/
theorem stationBytes_queued (s : State) (e : MgmtEntry) (h : Nat) (st : Station) :
    stationBytes (s.queued e) h st = stationBytes s h st := by
  unfold stationBytes State.radio; rfl

theorem stationAnswer_queued (s : State) (e : MgmtEntry) (h : Option Nat) :
    stationAnswer (s.queued e) h = stationAnswer s h := by
  simp only [stationAnswer, stationBytes_queued]
  rfl

theorem runStationRead_handle {h : Half} (hr : h.toNat ≤ 8191) (s : State) :
    runStationRead (.handle h) s = (some (stationAnswer s (some h.toNat)), s) := by
  unfold runStationRead
  exact if_pos (by omega)

theorem runStationRead_range {h : Half} (hr : 8191 < h.toNat) (s : State) :
    runStationRead (.handle h) s = answered .range s := by
  unfold runStationRead
  exact if_neg (by omega)

end Sys2Proof.Machine

/-- Settles O22: the record is looked up by address or read by handle; the reply is sent and nothing else changes. -/
theorem stationReadReportsRecord : Obligations.StationReadReportsRecord := by
  intro s src tag hs
  refine ⟨fun a ha => exec_unchanged hs rfl rfl rfl ?_, fun a h st ha hst => exec_unchanged hs rfl rfl rfl ?_,
    fun h hr hn => exec_unchanged hs rfl rfl rfl ?_, fun h st hr hst => exec_unchanged hs rfl rfl rfl ?_,
    fun h hr => exec_unchanged hs rfl rfl rfl ?_⟩

  · have hq : (s.queued ⟨src, tag, .stationRead (.address a)⟩).lookup a = none := ha
    simp only [runDirective, runStationRead, hq, stationAnswer_none (h := none) rfl]
  · have hq : (s.queued ⟨src, tag, .stationRead (.address a)⟩).lookup a = some h := ha
    simp only [runDirective, runStationRead, hq, stationAnswer_queued, stationAnswer_some hst]
  · simp only [runDirective]
    rw [runStationRead_handle hr, stationAnswer_queued, stationAnswer_none (h := some h.toNat) hn]
  · simp only [runDirective]
    rw [runStationRead_handle hr, stationAnswer_queued, stationAnswer_some hst]
  · exact runStationRead_range hr _
end

section
/-! Directives refused for their fields or for the state of their target (R12, R18, R19, R21, R79, R95 to R97, R107, R112, R113,
R116, R139, R140, R169, R183, R190). -/

-- One proof at a time: the threads of the default would not fit the memory the check allows.
set_option Elab.async false

open Sys2Proof Sys2Proof.Machine

namespace Sys2Proof.Machine

/-! ### Operands out of range -/

theorem flagOf_none {b : Byte} (h0 : b ≠ 0) (h1 : b ≠ 1) : flagOf b = none := by
  unfold flagOf; rw [if_neg h0, if_neg h1]

theorem flagOf_none_of_lt {b : Byte} (h : 1 < b.toNat) : flagOf b = none :=
  flagOf_none (by rintro rfl; simp at h) (by rintro rfl; simp at h)

theorem roleOf_none {b : Byte} (h : b.toNat = 0 ∨ 5 < b.toNat) : roleOf b = none := by
  unfold roleOf
  split
  any_goals omega
  rfl

theorem tierOf_none {b : Byte} (h : b.toNat = 0 ∨ 3 < b.toNat) : tierOf b = none := by
  unfold tierOf
  split
  any_goals omega
  rfl

theorem toNat_ne {b c : Byte} (h : b ≠ c) : b.toNat ≠ c.toNat := fun he => h (BitVec.eq_of_toNat_eq he)

theorem newStateOf_none {b : Byte} (h1 : b ≠ 1) (h2 : b ≠ 2) : newStateOf b = none := by
  unfold newStateOf
  split
  · next h => exact absurd h (toNat_ne h1)
  · next h => exact absurd h (toNat_ne h2)
  · rfl

theorem phaseOf_none {b : Byte} (h1 : b ≠ 1) (h2 : b ≠ 2) : phaseOf b = none := by
  unfold phaseOf
  split
  · next h => exact absurd h (toNat_ne h1)
  · next h => exact absurd h (toNat_ne h2)
  · rfl

theorem configOf_none {role zone group port rm : Byte} (h : 63 < zone.toNat ∨ role.toNat = 0 ∨ 5 < role.toNat ∨ 7 < group.toNat
    ∨ 3 < port.toNat ∨ 1 < rm.toNat) : configOf role zone group port rm = none := by
  unfold configOf
  split
  · next hrole hrm =>
    have h0 : ¬ (role.toNat = 0 ∨ 5 < role.toNat) := fun h => by simp [roleOf_none h] at hrole
    have h1 : ¬ 1 < rm.toNat := fun h => by simp [flagOf_none_of_lt h] at hrm
    exact if_neg (by omega)
  · rfl

theorem LoadRec.not_valid {r : LoadRec} (h : r.code = 0 ∨ r.tier.toNat = 0 ∨ 3 < r.tier.toNat ∨ 7 < r.allowance.toNat
    ∨ 1 < r.grant.toNat ∨ 63 < r.home.toNat) : r.valid = false := by
  unfold LoadRec.valid
  rcases h with h | h | h | h | h | h
  · simp [h]
  · simp [tierOf_none (.inl h)]
  · simp [tierOf_none (.inr h)]
  · simp [show ¬ r.allowance.toNat ≤ 7 by omega]
  · simp [flagOf_none_of_lt h]
  · simp [show ¬ r.home.toNat ≤ 63 by omega]

/-! ### Answers of RANGE -/

variable {s : State}

theorem runCounterRead_flag {f : Byte} (h : flagOf f = none) (group present index : Byte) :
    runCounterRead group present index f s = answered .range s := by
  unfold runCounterRead
  rw [h]
  split
  · next hc => cases hc
  · rfl

theorem runMgmtFilter_flag {f : Byte} (h : flagOf f = none) (addrs : List Addr) (a : Addr) :
    runMgmtFilter addrs f a s = answered .range s := by unfold runMgmtFilter; rw [h]

theorem runMgmtFilter_long {addrs : List Addr} (h : 4 < addrs.length) (p : Byte) (a : Addr) :
    runMgmtFilter addrs p a s = answered .range s := by
  unfold runMgmtFilter
  split
  · rfl
  · exact if_pos (.inl h)

theorem runRadioConfig_range {role zone group port rm : Byte} (h : configOf role zone group port rm = none) (radio : Byte) :
    runRadioConfig radio role zone group port rm s = answered .range s := by unfold runRadioConfig; rw [h]

theorem runRadioState_range {new : Byte} (h : newStateOf new = none) (radio : Byte) :
    runRadioState radio new s = answered .range s := by unfold runRadioState; rw [h]

theorem placeInRange_false {b : Half} {w : Byte} (h : 16383 < b.toNat ∨ 3 < w.toNat) : placeInRange b w = false :=
  decide_eq_false (by simp only [Config.credBuckets]; omega)

theorem runCredRead_range {b : Half} {w : Byte} (h : placeInRange b w = false) :
    runCredRead (.position b w) s = answered .range s := by simp only [runCredRead]; rw [h]; rfl

theorem runCredEraseWay_range {b : Half} {w : Byte} (h : placeInRange b w = false) :
    runCredEraseWay b w s = answered .range s := by unfold runCredEraseWay; rw [h]; rfl

theorem runCredLoad_range {recs : List LoadRec} (hs : s.adm.sweep.state ≠ .running)
    (h : recs = [] ∨ 16 < recs.length ∨ ∃ r ∈ recs, r.valid = false) : runCredLoad recs s = answered .range s := by
  unfold runCredLoad
  rw [if_neg hs]
  split
  · rfl
  · next r rs =>
    refine if_pos ?_
    obtain h | h | ⟨x, hx, hv⟩ := h
    · cases h
    · exact .inl h
    · right
      rw [Bool.not_eq_true', List.all_eq_false]
      exact ⟨x, hx, by simp [hv]⟩

theorem runVoidSweep_range {kind value : Byte} (hs : s.adm.sweep.state = .idle) (h : selectorOf kind value = none) :
    runVoidSweep kind value s = answered .range s := by
  unfold runVoidSweep; rw [if_neg (not_not.2 hs), h]

theorem runReelConfig_flag {f : Byte} (h : flagOf f = none) (reel : Byte) (first count : Half) :
    runReelConfig reel first count f s = answered .range s := by unfold runReelConfig; rw [h]

theorem runReelConfig_reel {reel : Byte} (h : 15 < reel.toNat) (first count : Half) (rm : Byte) :
    runReelConfig reel first count rm s = answered .range s := by
  unfold runReelConfig
  simp only
  split
  · rfl
  · exact if_pos (.inl h)

theorem runReelReset_reel {reel : Byte} (h : 15 < reel.toNat) : runReelReset reel s = answered .range s := by
  unfold runReelReset; exact if_pos h

theorem runReelStatus_flag {f : Byte} (h : flagOf f = none) (reel : Byte) (n : Half) :
    runReelStatus reel f n s = answered .range s := by unfold runReelStatus; rw [h]

theorem runReelStatus_reel {reel : Byte} (h : 15 < reel.toNat) (p : Byte) (n : Half) :
    runReelStatus reel p n s = answered .range s := by
  unfold runReelStatus
  simp only
  split
  · rfl
  · exact if_pos (.inl h)

theorem runProfileAccess_range {c : Byte} (h : phaseOf c = none) : runProfileAccess c s = answered .range s := by
  unfold runProfileAccess; rw [h]

theorem runPhaseSet_range {c : Byte} (h : phaseOf c = none) : runPhaseSet c s = answered .range s := by
  unfold runPhaseSet; rw [h]

theorem runSurgeSet_range {f : Byte} (h : flagOf f = none) : runSurgeSet f s = answered .range s := by
  unfold runSurgeSet; rw [h]

theorem runErrorRead_range {f : Byte} (h : flagOf f = none) : runErrorRead f s = answered .range s := by
  unfold runErrorRead; rw [h]

theorem runErrorClear_range {f : Byte} (h : flagOf f = none) (classes : Half) :
    runErrorClear classes f s = answered .range s := by unfold runErrorClear; rw [h]

theorem runNoticeConfig_range {entry : Byte} (h : 15 < entry.toNat) (d : Addr) (en mk ks : Byte) :
    runNoticeConfig entry d en mk ks s = answered .range s := by
  unfold runNoticeConfig
  simp only
  split
  · exact if_pos (.inl h)
  · rfl

/-! ### The ranges of reels -/

/-- Another configured reel's range shares a slot with the one given (R139). -/
def State.Overlaps (s : State) (reel : Byte) (first count : Half) : Prop :=
  ∃ q c, q ≠ reel.toNat ∧ (s.reel q).cfg = some c ∧ first.toNat < c.first + c.count ∧ c.first < first.toNat + count.toNat

theorem rangeTaken_of_overlaps {reel : Byte} {first count : Half} (h : s.Overlaps reel first count) :
    s.rangeTaken reel.toNat first.toNat count.toNat = true := by
  obtain ⟨q, c, hq, hc, hlt⟩ := h
  have hm : (q, s.reel q) ∈ s.replay.reels := by
    rcases Table.get_mem (d := {}) s.replay.reels q with h | h
    · rw [State.reel, h] at hc; cases hc
    · exact h
  refine List.any_eq_true.2 ⟨_, hm, ?_⟩
  simp [hq, hc, hlt]

theorem overlaps_of_rangeTaken {reel : Byte} {first count : Half} (hs : Table.sorted s.replay.reels = true)
    (h : s.rangeTaken reel.toNat first.toNat count.toNat = true) : s.Overlaps reel first count := by
  obtain ⟨⟨q, x⟩, hm, h⟩ := List.any_eq_true.1 h
  have hx : s.reel q = x := by rw [State.reel, Table.get, Table.find_of_mem hs hm]; rfl
  simp only [Bool.and_eq_true, decide_eq_true_eq] at h
  obtain ⟨hq, h⟩ := h
  split at h
  · next c hc => exact ⟨q, c, hq, by rw [hx, hc], by simpa using h⟩
  · cases h

theorem runReelConfig_range {reel : Byte} {first count : Half}
    (h : 4095 < first.toNat ∨ count.toNat < 8 ∨ 1024 < count.toNat ∨ 4096 < first.toNat + count.toNat
      ∨ s.Overlaps reel first count) : runReelConfig reel first count 0 s = answered .range s := by
  have hf : flagOf 0 = some false := rfl
  unfold runReelConfig
  simp only [hf]
  split
  · rfl
  · next hn => exact if_pos ⟨trivial, rangeTaken_of_overlaps (by tauto)⟩

/-! ### Answers of STATE, BUSY and FROZEN -/

theorem runRadioConfig_state {radio role zone group port rm : Byte} {c : RadioCfg × Bool}
    (hc : configOf role zone group port rm = some c)
    (h : (s.radio radio.toNat).state = .inService ∨ (s.radio radio.toNat).state = .quarantined) :
    runRadioConfig radio role zone group port rm s = answered .state s := by
  unfold runRadioConfig
  rw [hc]
  rcases h with h | h <;> simp only [h]

theorem runRadioState_absent {radio : Byte} (h : (s.radio radio.toNat).state = .absent) :
    runRadioState radio 1 s = answered .state s := by
  have hn : newStateOf 1 = some true := rfl
  unfold runRadioState
  simp only [hn, h]

theorem runRadioReset_absent {radio : Byte} (h : (s.radio radio.toNat).state = .absent) :
    runRadioReset radio s = answered .state s := by unfold runRadioReset; exact if_pos h

theorem runStationUnpin_none {a : Addr} (h : s.lookup a = none) : runStationUnpin a s = answered .state s := by
  unfold runStationUnpin; rw [h]

theorem runProfileWrite_active {p : ProfilePart} (h : s.gov.access = s.gov.active) (hp : ∀ q r, p ≠ .badPart q r) :
    runProfileWrite p s = answered .state s := by
  unfold runProfileWrite
  split
  · exact absurd rfl (hp _ _)
  · exact if_pos h

theorem runSweepSuspend_state (h : s.adm.sweep.state ≠ .running) :
    runSweepSuspend s = (some ⟨.state, s.adm.sweep.suspendBody⟩, s) := by unfold runSweepSuspend; exact if_pos h

theorem runSweepResume_state (h : s.adm.sweep.state ≠ .suspended) : runSweepResume s = answered .state s := by
  unfold runSweepResume; exact if_pos h

theorem runCredLoad_busy (h : s.adm.sweep.state = .running) (recs : List LoadRec) : runCredLoad recs s = answered .busy s := by
  unfold runCredLoad; exact if_pos h

theorem runVoidSweep_busy (h : s.adm.sweep.state ≠ .idle) (kind value : Byte) :
    runVoidSweep kind value s = answered .busy s := by unfold runVoidSweep; exact if_pos h

theorem runClearRedemptions_busy (h : s.adm.sweep.state ≠ .idle) : runClearRedemptions s = answered .busy s := by
  unfold runClearRedemptions; exact if_pos h

theorem runClearRedemptions_frozen (h : s.adm.sweep.state = .idle) (hf : s.adm.frozen = true) :
    runClearRedemptions s = answered .frozen s := by
  unfold runClearRedemptions; rw [if_neg (not_not.2 h), if_pos hf]

theorem runCredEraseWay_frozen {b : Half} {w : Byte} (hp : placeInRange b w = true) (hf : s.adm.frozen = true)
    (h : (s.entry (posOf b.toNat w.toNat)).faulty = false) : runCredEraseWay b w s = answered .frozen s := by
  unfold runCredEraseWay; rw [hp, if_neg (by simp), if_pos ⟨hf, h⟩]

theorem runReelReset_none {reel : Byte} (hr : reel.toNat ≤ 15) (h : (s.reel reel.toNat).cfg = none) :
    runReelReset reel s = answered .state s := by
  unfold runReelReset
  simp only
  rw [if_neg (by omega), h]

theorem slotsIn_pos {x : Reel} {c : ReelCfg} {st : SlotState} {n : Nat} (hc : x.cfg = some c) (h1 : c.first ≤ n)
    (h2 : n < c.first + c.count) (h : (s.slot n).state = st) : 0 < s.slotsIn x st := by
  unfold State.slotsIn
  rw [hc]
  refine List.length_pos_of_mem (a := n) (List.mem_filter.2 ⟨?_, decide_eq_true h⟩)
  exact List.mem_map.2 ⟨n - c.first, List.mem_range.2 (by omega), by omega⟩

/-- A reel that has subscribers, or a slot being filled or written, is not configured anew (R139). -/
theorem runReelConfig_state {reel rm : Byte} {first count : Half} {c : ReelCfg} (hr : reel.toNat ≤ 15)
    (hs : Table.sorted s.replay.reels = true) (hc : (s.reel reel.toNat).cfg = some c)
    (hrm : rm = 1 ∨ rm = 0 ∧ first.toNat ≤ 4095 ∧ 8 ≤ count.toNat ∧ count.toNat ≤ 1024 ∧ first.toNat + count.toNat ≤ 4096
      ∧ ¬ s.Overlaps reel first count)
    (hbusy : (∃ e ∈ s.stations, e.2.sub.map Sub.reel = some reel.toNat)
      ∨ ∃ n, c.first ≤ n ∧ n < c.first + c.count ∧ ((s.slot n).state = .filling ∨ (s.slot n).state = .writing)) :
    runReelConfig reel first count rm s = answered .state s := by
  have hrange (f : Bool) (hf : f = false → rm = 0) :
      ¬ (15 < reel.toNat ∨ (f = false ∧ (4095 < first.toNat ∨ count.toNat < 8 ∨ 1024 < count.toNat
        ∨ 4096 < first.toNat + count.toNat))) ∧ ¬ (f = false ∧ s.rangeTaken reel.toNat first.toNat count.toNat = true) := by
    rcases hrm with rfl | ⟨rfl, h1, h2, h3, h4, h5⟩
    · have : f ≠ false := fun h => by simpa using hf h
      simp [this]; omega
    · exact ⟨by omega, fun ⟨_, ht⟩ => h5 (overlaps_of_rangeTaken hs ht)⟩
  obtain ⟨f, hf, h0⟩ : ∃ f, flagOf rm = some f ∧ (f = false → rm = 0) := by
    rcases hrm with rfl | ⟨rfl, -⟩
    · exact ⟨true, rfl, fun h => by cases h⟩
    · exact ⟨false, rfl, fun _ => rfl⟩
  unfold runReelConfig
  simp only [hf]
  rw [if_neg (hrange f h0).1, if_neg (hrange f h0).2]
  split
  · rfl
  · next hsub =>
    refine if_pos ?_
    rcases hbusy with ⟨e, he, hsub'⟩ | ⟨n, h1, h2, h3 | h3⟩
    · have hm : e.1 ∈ s.subscribersOf reel.toNat :=
        List.mem_map.2 ⟨e, List.mem_filter.2 ⟨he, decide_eq_true hsub'⟩, rfl⟩
      exact (hsub ⟨by rw [hc]; rfl, List.ne_nil_of_mem hm⟩).elim
    · exact Nat.add_pos_left (slotsIn_pos hc h1 h2 h3) _
    · exact Nat.add_pos_right _ (slotsIn_pos hc h1 h2 h3)

end Sys2Proof.Machine

/-- Settles O21: each refusal is the named answer of its directive, given with the part unchanged. -/
theorem refusedDirectivesChangeNothing : Obligations.RefusedDirectivesChangeNothing := by
  refine ⟨fun s src tag hs => ⟨?_, ?_, ?_, ?_, ?_, ?_, ?_, ?_, ?_, ?_, ?_, ?_, ?_, ?_, ?_⟩,
    fun s src tag hs => ⟨?_, ?_, ?_, ?_, ?_, ?_, ?_, ?_, ?_, ?_, ?_, ?_⟩⟩
  · intro a ha h255 p n
    exact exec_unchanged hs rfl rfl (decide_eq_true h255) (by exact runMgmtFilter_long ha p n)
  · intro radio role zone group port rm h
    exact exec_unchanged hs rfl rfl rfl (by exact runRadioConfig_range (configOf_none h) radio)
  · intro radio new h1 h2
    exact exec_unchanged hs rfl rfl rfl (by exact runRadioState_range (newStateOf_none h1 h2) radio)
  · intro h hr
    exact exec_unchanged hs rfl rfl rfl (by exact runStationRead_range hr _)
  · intro b w h
    exact ⟨exec_unchanged hs rfl rfl rfl (by exact runCredRead_range (placeInRange_false h)),
      exec_unchanged hs rfl rfl rfl (by exact runCredEraseWay_range (placeInRange_false h))⟩
  · intro form rest h1 h2 hl
    exact ⟨exec_unchanged hs rfl rfl (decide_eq_true ⟨h1, h2, hl⟩) rfl,
      exec_unchanged hs rfl rfl (decide_eq_true ⟨h1, h2, hl⟩) rfl⟩
  · intro recs hrun hl h
    refine exec_unchanged hs rfl rfl (decide_eq_true hl) (runCredLoad_range hrun ?_)
    rcases h with h | h | ⟨r, hr, h⟩
    · exact .inl h
    · exact .inr (.inl h)
    · exact .inr (.inr ⟨r, hr, LoadRec.not_valid h⟩)
  · intro part rest h hl
    exact exec_unchanged hs rfl rfl (decide_eq_true ⟨h, hl⟩) rfl
  · intro kind value hi h
    exact exec_unchanged hs rfl rfl rfl (by exact runVoidSweep_range hi h)
  · intro reel h
    exact ⟨fun f c rm => exec_unchanged hs rfl rfl rfl (by exact runReelConfig_reel h f c rm),
      exec_unchanged hs rfl rfl rfl (by exact runReelReset_reel h),
      fun p n => exec_unchanged hs rfl rfl rfl (by exact runReelStatus_reel h p n)⟩
  · intro reel first count h
    exact exec_unchanged hs rfl rfl rfl (by exact runReelConfig_range h)
  · intro c h1 h2
    exact ⟨exec_unchanged hs rfl rfl rfl (by exact runProfileAccess_range (phaseOf_none h1 h2)),
      exec_unchanged hs rfl rfl rfl (by exact runPhaseSet_range (phaseOf_none h1 h2))⟩
  · intro f h0 h1
    have hf := flagOf_none h0 h1
    exact ⟨exec_unchanged hs rfl rfl rfl (by exact runSurgeSet_range hf),
      exec_unchanged hs rfl rfl rfl (by exact runErrorRead_range hf),
      fun group present index => exec_unchanged hs rfl rfl rfl (by exact runCounterRead_flag hf group present index),
      fun addrs a hl => exec_unchanged hs rfl rfl (decide_eq_true hl) (by exact runMgmtFilter_flag hf addrs a),
      fun reel first count => exec_unchanged hs rfl rfl rfl (by exact runReelConfig_flag hf reel first count),
      fun reel n => exec_unchanged hs rfl rfl rfl (by exact runReelStatus_flag hf reel n),
      fun classes => exec_unchanged hs rfl rfl rfl (by exact runErrorClear_range hf classes)⟩
  · intro entry d en mk ks h
    exact exec_unchanged hs rfl rfl rfl (by exact runNoticeConfig_range h d en mk ks)
  · intro k body hw
    exact exec_unchanged hs rfl rfl hw rfl
  · intro radio role zone group port rm c hc h
    exact exec_unchanged hs rfl rfl rfl (by exact runRadioConfig_state hc h)
  · intro radio h
    exact ⟨exec_unchanged hs rfl rfl rfl (by exact runRadioState_absent h),
      exec_unchanged hs rfl rfl rfl (by exact runRadioReset_absent h)⟩
  · intro a h
    exact exec_unchanged hs rfl rfl rfl (by exact runStationUnpin_none h)
  · intro h p hw hp
    exact exec_unchanged hs rfl rfl hw (by exact runProfileWrite_active h hp)
  · intro h
    exact exec_unchanged hs rfl rfl rfl (by exact runSweepSuspend_state h)
  · intro h
    exact exec_unchanged hs rfl rfl rfl (by exact runSweepResume_state h)
  · intro h recs hl
    exact exec_unchanged hs rfl rfl (decide_eq_true hl) (by exact runCredLoad_busy (s := s.queued _) h recs)
  · intro h
    exact ⟨fun k v => exec_unchanged hs rfl rfl rfl (by exact runVoidSweep_busy (s := s.queued _) h k v),
      exec_unchanged hs rfl rfl rfl (by exact runClearRedemptions_busy h)⟩
  · intro h hf
    exact exec_unchanged hs rfl rfl rfl (by exact runClearRedemptions_frozen h hf)
  · intro b w hp hf h
    exact exec_unchanged hs rfl rfl rfl (by exact runCredEraseWay_frozen hp hf h)
  · intro reel hr h
    exact exec_unchanged hs rfl rfl rfl (by exact runReelReset_none hr h)
  · intro reel rm first count c hr hsorted hc hrm hbusy
    exact exec_unchanged hs rfl rfl rfl (by exact runReelConfig_state hr hsorted hc hrm hbusy)
end

section
/-! The tick of the clock (R173): which expiries it queues. -/

-- One proof at a time: the threads of the default would not fit the memory the check allows.
set_option Elab.async false

namespace Sys2Proof.Machine

/-! ### The commands a test gives -/

variable {n : Nat} {mk : Fin n → Instr} {due : Nat → Bool} {l : List Nat}

theorem mem_commandsBelow {c : Instr} : c ∈ commandsBelow n mk due l ↔ ∃ k : Fin n, c = mk k ∧ k.val ∈ l ∧ due k.val = true := by
  simp only [commandsBelow, List.mem_filterMap]
  constructor
  · rintro ⟨j, hj, h⟩
    split at h
    · next hlt =>
      split at h
      · next hd => exact ⟨⟨j, hlt⟩, (Option.some.inj h).symm, hj, hd⟩
      · cases h
    · cases h
  · rintro ⟨k, rfl, hj, hd⟩
    exact ⟨k.val, hj, by rw [dif_pos k.isLt, if_pos hd]⟩

/-! ### A timer that is due belongs to what is listed -/

variable {s : State}

theorem key_mem_of_find {α : Type} {t : Table α} {k : Nat} {v : α} (h : t.find k = some v) : k ∈ t.map Prod.fst :=
  List.mem_map_of_mem (Table.mem_of_find h)

theorem find_isSome_of_mem {α : Type} {t : Table α} {k : Nat} (h : k ∈ t.map Prod.fst) : (t.find k).isSome = true := by
  induction t with
  | nil => cases h
  | cons x t ih =>
    obtain ⟨k', v⟩ := x
    simp only [Table.find]
    split
    · rfl
    · next hne => exact ih ((List.mem_cons.1 h).resolve_left hne)

theorem mem_keys_station {h : Nat} : h ∈ s.stations.map Prod.fst ↔ (s.station h).isSome = true :=
  ⟨find_isSome_of_mem, fun hs => by
    obtain ⟨st, hst⟩ := Option.isSome_iff_exists.1 hs
    exact key_mem_of_find hst⟩

theorem lingerDue_listed {h : Nat} (hd : lingerDue h s = true) : (s.station h).isSome = true := by
  cases hs : s.station h with
  | none => rw [lingerDue, hs] at hd; exact hd
  | some st => rfl

theorem dampingDue_listed {h : Nat} (hd : dampingDue h s = true) : (s.station h).isSome = true := by
  cases hs : s.station h with
  | none => rw [dampingDue, hs] at hd; exact hd
  | some st => rfl

theorem sealDue_listed {r : Nat} (hd : s.sealDue r = true) : r ∈ s.sealRadios := by
  cases hf : s.egress.lists.find r with
  | some l => exact key_mem_of_find hf
  | none =>
    have hl : s.lists r = {} := by rw [State.lists, Table.get, hf]; rfl
    unfold State.sealDue State.list at hd
    rw [hl] at hd
    cases hd

theorem wakeDue_listed {r : Nat} (hd : wakeDue r s = true) : r ∈ s.radios.map Prod.fst := by
  cases hf : s.radios.find r with
  | some x => exact key_mem_of_find hf
  | none =>
    have hr : s.radio r = {} := by rw [State.radio, Table.get, hf]; rfl
    rw [wakeDue, hr] at hd
    cases hd

/-! ### The expiries queued -/

/-- The expiries are those of the timers that are due (log entry 2). -/
theorem mem_expiries {c : Instr} : c ∈ expiries s ↔
    (∃ h : Fin 8192, c = .lingerExpiry h ∧ lingerDue h.val s = true)
    ∨ (∃ h : Fin 8192, c = .detachTimerExpiry h ∧ (s.station h.val).isSome = true ∧ detachDue h.val s = true)
    ∨ (∃ h : Fin 8192, c = .dampingExpiry h ∧ dampingDue h.val s = true)
    ∨ (∃ r : Fin 256, c = .sealTimerExpiry r ∧ s.sealDue r.val = true)
    ∨ (∃ r : Fin 256, c = .wakeTimerExpiry r ∧ wakeDue r.val s = true)
    ∨ (c = .stageTimerExpiry ∧ stageDue s = true) := by
  have hstage : c ∈ (if stageDue s then [Instr.stageTimerExpiry] else []) ↔ c = .stageTimerExpiry ∧ stageDue s = true := by
    split <;> simp [*]
  have hkeep {p q : Prop} (h : q → p) : p ∧ q ↔ q := and_iff_right_of_imp h
  simp only [expiries, List.mem_append, mem_commandsBelow, hstage, or_assoc, hkeep lingerDue_listed, hkeep dampingDue_listed,
    hkeep sealDue_listed, hkeep wakeDue_listed, mem_keys_station]

/-- A tick, field by field. -/
theorem tick_eq {s : State} (hp : s.pending = []) : tick s = { s with
    venueTime := s.venueTime + 1
    uplink := match s.uplink.tx with
      | [] => { s.uplink with rx := s.uplink.rx.tail }
      | _ :: rest => { rx := s.uplink.rx.tail, tx := rest, ctrs := { s.uplink.ctrs with sent := bump s.uplink.ctrs.sent } }
    ports := s.ports.mapVals {} (fun p => { p with rx := p.rx.tail })
    pending := expiries (tick s)
      ++ (s.uplink.rx.head?.map (fun f => Instr.downstreamDataFrame f.dst f.src f.etype f.payload)).toList
      ++ ([0, 1, 2, 3] : List (Fin 4)).filterMap (fun p => (s.port p.val).rx.head?.map (Instr.malformedCarrierFrame p)) } := by
  have hs : (uplinkSends { s with venueTime := s.venueTime + 1 }).pending = [] := by
    unfold uplinkSends; split <;> exact hp
  have he : expiries (tick s) = expiries (uplinkSends { s with venueTime := s.venueTime + 1 }) := rfl
  rw [he]
  unfold tick
  simp only [hs, List.nil_append]
  unfold uplinkSends takeArrivals arrivals
  cases htx : s.uplink.tx <;> simp only [htx, List.append_assoc] <;> rfl

end Sys2Proof.Machine

open Sys2Proof.Machine in
/-- Settles O2: the next state is that of the tick, its expiries those of the timers due then. -/
theorem emptyQueueTicks : Obligations.EmptyQueueTicks := by
  intro s hp
  have hstep : step s = .next (tick s) := by unfold step; rw [hp]
  refine ⟨tick s, expiries (tick s), hstep, tick_eq hp, fun h => ?_, fun h => ?_, fun h => ?_, fun r => ?_, fun r => ?_, ?_,
    fun c hc => ?_⟩
  · simp [mem_expiries]
  · simp [mem_expiries]
  · simp [mem_expiries]
  · simp [mem_expiries]
  · simp [mem_expiries]
  · simp [mem_expiries]
  · rcases mem_expiries.1 hc with ⟨h, rfl, -⟩ | ⟨h, rfl, -⟩ | ⟨h, rfl, -⟩ | ⟨r, rfl, -⟩ | ⟨r, rfl, -⟩ | ⟨rfl, -⟩ <;> simp
end

section
/-! Frames from the downlink ports (R23): the events in which nothing more follows, and the operations that find nothing to do. -/

-- One proof at a time: the threads of the default would not fit the memory the check allows.
set_option Elab.async false

open Sys2Proof

namespace Sys2Proof.Machine

variable {s t u : State}

/-! ### Events after calm operations -/

/-- An event whose own effect is calm ends with that effect. -/
theorem event_calm {f : State → State} (hb : s.Between) (h : Calm s (f s)) : event f s = .next (f s).ended := by
  unfold event; rw [finish_calm hb.1 h hb.2]

theorem bump_ne_zero (c : Ctr) : bump c ≠ 0 := by
  intro h
  have := congrArg BitVec.toNat h
  simp [bump, bumpBy] at this
  omega

/-- Counting at a port, where something is counted, is calm. -/
theorem modPortCtrs_calm {p : Nat} {f : PortCtrs → PortCtrs} (h : f (s.port p).ctrs ≠ {}) : Calm s (s.modPortCtrs p f) := by
  refine ⟨rfl, rfl, rfl, rfl, fun q => ?_, fun _ => rfl, fun _ h => .inl h⟩
  unfold State.modPortCtrs State.port State.setPort
  by_cases hq : q = p
  · subst hq
    rw [Table.get_set_of_ne (fun hc => h (congrArg Port.ctrs hc))]
  · simp [Table.get_set_ne hq]

/-- A change of a configured radio that keeps its configuration is calm. -/
theorem modRadio_calm_of_cfg {r : Nat} {f : Radio → Radio} {c : RadioCfg} (hc : (s.radio r).cfg = some c)
    (hf : (f (s.radio r)).cfg = (s.radio r).cfg) : Calm s (s.modRadio r f) := by
  refine modRadio_calm (fun h => ?_) hf
  rw [h, hc] at hf
  cases hf

/-- A frame with fields passes the format checks and comes to the carrier checks. -/
theorem exec_carrier_checks {i : Instr} {p : Fin 4} {c : CarrierFrame} (hc : i.carrier = some (p, c)) (hw : i.wf = true)
    (s : State) : exec i s = event (takeCarrierFrame p.val c c.bytes) s := by
  have hwf : carrierWf c = true := by
    cases i <;> cases hc
    case upstreamDataFrame => exact hw
    case partToRadioServiceFrame => exact hw
    all_goals rfl
  rw [exec_carrier hc hw]
  refine event_congr ?_
  unfold takeCarrierBytes
  rw [parseCarrier_bytes hwf]

/-- A frame that passes the carrier checks, and after which nothing follows (R23). -/
theorem exec_message {i : Instr} {p : Fin 4} {radio : Byte} {a : Addr} {m : CarrierMsg}
    (hc : i.carrier = some (p, ⟨radio, a, m⟩)) (hw : i.wf = true) (hb : s.Between) (hp : s.Passes p.val radio.toNat)
    (hrun : takeCarrierMsg p.val radio.toNat a m (CarrierFrame.bytes ⟨radio, a, m⟩) (s.portHeard p.val) = t)
    (ht : Calm (s.portHeard p.val) t) (hu : t.ended = u) : exec i s = .next u := by
  have harr : takeCarrierFrame p.val ⟨radio, a, m⟩ (CarrierFrame.bytes ⟨radio, a, m⟩) s = t := (arrive_passes a m hp).trans hrun
  rw [exec_carrier_checks hc hw, event_calm hb (by rw [harr]; exact (heard_calm s p.val).trans ht), harr, hu]

/-! ### The bookkeeping that ends with an event -/

theorem askPort_ended (s : State) (p : Nat) : (s.askPort p).ended = s.ended := by
  unfold State.askPort; split <;> rfl

theorem askRadio_ended (s : State) (r : Nat) : (s.askRadio r).ended = s.ended := by
  unfold State.askRadio; split
  · exact askPort_ended s _
  · rfl

theorem askIfEligible_ended (r : Nat) (c : Cls) (was new : List Burst) (b : Bool) (s : State) :
    (askIfEligible r c was new b s).ended = s.ended := by
  unfold askIfEligible; split
  · exact askRadio_ended s r
  · rfl

/-! ### Errors -/

theorem occur_now (hd : s.ev.deferring = false) (o : Occurrence) : occur o s = takeOccurrence o s := by
  unfold occur; rw [hd]; rfl

/-- An error of no radio charges no strike. -/
theorem raiseError_none (hd : s.ev.deferring = false) {o : Occurrence} (ho : o.radio = none) :
    raiseError o s = takeOccurrence o s := by
  unfold raiseError; simp only [ho, occur_now hd]

/-- An error of a class that is not quarantinable charges no strike (R177). -/
theorem raiseError_plain (hd : s.ev.deferring = false) {o : Occurrence} (ho : o.cls.quarantinable = false) :
    raiseError o s = takeOccurrence o s := by
  unfold raiseError
  simp only [ho, Bool.and_false, Bool.false_and, Bool.false_eq_true, if_false, occur_now hd]
  split <;> rfl

theorem heard_deferring (hb : s.Between) (p : Nat) : (s.portHeard p).ev.deferring = false := quiet_deferring hb.1

theorem carrierMalformed_none (hd : s.ev.deferring = false) (frame : List Byte) :
    carrierMalformed none frame s = takeOccurrence (anError .carrierMalformed none frame) s := raiseError_none hd rfl

/-- An error with the strike it charges is calm: the radio struck is listed, since its strikes are not 0. -/
theorem charged_calm (s : State) (o : Occurrence) (r : Nat) : Calm s (s.faulted o r) := by
  unfold State.faulted
  split
  · refine (takeOccurrence_calm o s).trans (modRadio_calm (fun h => ?_) rfl)
    have := congrArg Radio.strikes h
    simp at this
  · exact takeOccurrence_calm o s

theorem carrierMalformed_faulted (hd : s.ev.deferring = false) {r : Nat} (hn : s.noQuarantine .carrierMalformed r = true)
    (frame : List Byte) : carrierMalformed (some r) frame s = s.faulted (anError .carrierMalformed (some r) frame) r :=
  raiseError_faulted hd rfl hn

theorem serviceUnexpected_faulted (hd : s.ev.deferring = false) {r : Nat} (hn : s.noQuarantine .serviceUnexpected r = true)
    (frame : List Byte) : serviceUnexpected r frame s = s.faulted (anError .serviceUnexpected (some r) frame) r :=
  raiseError_faulted hd rfl hn

/-! ### The carrier checks (R23) -/

theorem carrierChecks_wrongPort {p r : Nat} (ha : (s.radio r).state ≠ .absent) (hc : (s.radio r).cfg.map RadioCfg.port ≠ some p)
    (frame : List Byte) (go : State → State) : carrierChecks p r frame go s = carrierMalformed none frame s := by
  unfold carrierChecks
  split
  · next h => exact absurd h ha
  · exact if_pos hc

theorem carrierChecks_notInService {p r : Nat} (h : (s.radio r).state = .absent
      ∨ ((s.radio r).cfg.map RadioCfg.port = some p ∧ ((s.radio r).state = .quarantined ∨ (s.radio r).state = .disabled)))
    (frame : List Byte) (go : State → State) : carrierChecks p r frame go s = dropNotInService p r frame s := by
  unfold carrierChecks
  split
  · rfl
  · next ha =>
    obtain ⟨hc, hs⟩ := h.resolve_left ha
    have hin : (s.radio r).state ≠ .inService := by rcases hs with hs | hs <;> simp [hs]
    rw [if_neg (not_not.2 hc), if_neg hin]

/-- A frame of a radio that is not IN_SERVICE is counted at its port, or at its radio (R23). -/
def State.countDrop (s : State) (p r : Nat) : State :=
  if (s.radio r).state = .absent then s.modPortCtrs p (fun k => { k with absentDrops := bump k.absentDrops })
  else s.modRadio r (fun x => { x with drops := { x.drops with notInService := bump x.drops.notInService } })

theorem countDrop_calm (s : State) (p r : Nat) : Calm s (s.countDrop p r) := by
  unfold State.countDrop
  split
  · exact modPortCtrs_calm (fun h => bump_ne_zero _ (congrArg PortCtrs.absentDrops h))
  · exact modRadio_calm (fun h => bump_ne_zero _ (congrArg (fun x : Radio => x.drops.notInService) h)) rfl

theorem dropNotInService_noted {r : Nat} (hn : (s.radio r).noted = true) (p : Nat) (frame : List Byte) :
    dropNotInService p r frame s = s.countDrop p r := by
  unfold dropNotInService; exact if_pos hn

theorem dropNotInService_first (hd : s.ev.deferring = false) {r : Nat} (hn : (s.radio r).noted = false) (p : Nat)
    (frame : List Byte) : dropNotInService p r frame s = takeOccurrence (anError .radioNotInService (some r) frame)
      ((s.countDrop p r).modRadio r (fun x => { x with noted := true })) := by
  have hd' : ((s.countDrop p r).modRadio r (fun x => { x with noted := true })).ev.deferring = false :=
    (countDrop_calm s p r).defr.trans hd
  unfold dropNotInService
  simp only [hn, Bool.false_eq_true, if_false]
  exact raiseError_plain hd' rfl

end Sys2Proof.Machine

open Sys2Proof.Machine

/-- Settles O42: each frame comes to the carrier checks, and what they make of it is calm. -/
theorem carrierFramesAreTurnedAway : Obligations.CarrierFramesAreTurnedAway := by
  intro i p c s hc hw hb
  have hd := heard_deferring hb p.val
  have hrun (t : State) (ht : carrierChecks p.val c.radio.toNat c.bytes
        (takeCarrierMsg p.val c.radio.toNat c.station c.msg c.bytes) (s.portHeard p.val) = t)
      (hcalm : Calm (s.portHeard p.val) t) : exec i s = .next t.ended := by
    have htake : takeCarrierFrame p.val c c.bytes s = t := ht
    subst htake
    rw [exec_carrier_checks hc hw]
    exact event_calm hb ((heard_calm s p.val).trans hcalm)
  refine ⟨fun ha hport => ?_, fun h => ?_⟩
  · exact hrun _ ((carrierChecks_wrongPort (s := s.portHeard p.val) ha hport _ _).trans (carrierMalformed_none hd _))
      (takeOccurrence_calm _ _)
  · intro counted
    have hcounted : counted = (s.portHeard p.val).countDrop p.val c.radio.toNat := by
      unfold counted State.countDrop
      rfl
    have hdrop := carrierChecks_notInService (s := s.portHeard p.val) h c.bytes
      (takeCarrierMsg p.val c.radio.toNat c.station c.msg c.bytes)
    rw [hcounted]
    refine ⟨fun hn => hrun _ (hdrop.trans (dropNotInService_noted (s := s.portHeard p.val) hn _ _)) (countDrop_calm _ _ _),
      fun hn => hrun _ (hdrop.trans (dropNotInService_first hd (r := c.radio.toNat) hn _ _)) ?_⟩
    refine ((countDrop_calm _ _ _).trans (modRadio_calm ?_ rfl)).trans (takeOccurrence_calm _ _)
    exact fun h => Bool.noConfusion (congrArg Radio.noted h)

/-- Settles O43: the frame is counted at its port, the error is raised for the radio named, and the strike stays below the
threshold. -/
theorem faultyFramesChargeStrikes : Obligations.FaultyFramesChargeStrikes := by
  intro s p hb
  have hd := heard_deferring hb p.val
  have hmal (bytes : List Byte) (t : State) (hn : parseCarrier bytes = none)
      (ht : takeMalformed bytes (s.portHeard p.val) = t) (hc : Calm (s.portHeard p.val) t) :
      exec (.malformedCarrierFrame p bytes) s = .next t.ended := by
    have hrun : takeCarrierBytes p.val bytes s = t := by
      unfold takeCarrierBytes
      rw [hn]
      exact ht
    subst hrun
    exact event_calm hb ((heard_calm s p.val).trans hc)
  refine ⟨fun bytes hn ha => ?_, fun b rest hn hr hq => ?_, fun radio a code body hw hp hq => ?_⟩
  · refine hmal bytes _ hn ?_ (takeOccurrence_calm _ _)
    cases bytes with
    | nil => exact carrierMalformed_none hd _
    | cons b rest =>
      have hr : ((s.portHeard p.val).radio b.toNat).state = .absent := ha b rest rfl
      unfold takeMalformed
      simp only [hr, if_true]
      exact carrierMalformed_none hd _
  · refine hmal (b :: rest) _ hn ?_ (charged_calm _ _ _)
    have hr : ((s.portHeard p.val).radio b.toNat).state ≠ .absent := hr
    unfold takeMalformed
    simp only [hr, if_false]
    exact carrierMalformed_faulted hd hq _
  · exact exec_message (a := a) (m := .toRadio code body) rfl hw hb hp (serviceUnexpected_faulted hd hq _) (charged_calm _ _ _) rfl

/-- Settles O44: the frame is forwarded as it came; a status message counts, sets the class, or is malformed. -/
theorem upstreamDataAndStatusAreTaken : Obligations.UpstreamDataAndStatusAreTaken := by
  intro s p radio hb hp
  have hd := heard_deferring hb p.val
  refine ⟨fun a dst etype payload h1 h2 => ?_, fun cls => ⟨fun hr hk => ?_, fun hr hk hbusy => ?_, fun hk hq => ?_⟩⟩
  · have hmsg (t : State) := exec_message (t := t) (u := t.ended) (i := .upstreamDataFrame p radio a dst etype payload)
      (a := a) (m := .data dst etype payload) rfl (decide_eq_true ⟨h1, h2⟩) hb hp
    have hsent (t : State) (o : UplinkOut) : Calm t (t.sendUplink o) := calm_of_fields rfl rfl rfl rfl
    split
    · next hl => exact hmsg _ (if_pos hl) (hsent _ _) rfl
    · next hl =>
      refine hmsg _ (if_neg hl) ((hsent _ _).trans (modPortCtrs_calm ?_)) rfl
      exact fun h => bump_ne_zero _ (congrArg PortCtrs.unlisted h)
  · have hk' : ¬ 15 < cls.toNat := by omega
    refine exec_message (a := 0) (m := .radioStatus cls) rfl rfl hb hp ((if_neg hk').trans (if_pos hr)) (modRadio_calm ?_ rfl) rfl
    exact fun h => bump_ne_zero _ (congrArg (fun x : Radio => x.gov.statusMessages) h)
  · have hk' : ¬ 15 < cls.toNat := by omega
    have hcalm : Calm (s.portHeard p.val) ((s.portHeard p.val).modRadio radio.toNat (fun x => { x with
        rate := cls.toNat
        gov := { x.gov with statusMessages := bump x.gov.statusMessages, rateChanges := bump x.gov.rateChanges } })) :=
      modRadio_calm (fun h => bump_ne_zero _ (congrArg (fun x : Radio => x.gov.statusMessages) h)) rfl
    have hport : (s.portHeard p.val).portBusy radio.toNat = true := ((heard_calm s p.val).portBusy _).trans hbusy
    exact exec_message (a := 0) (m := .radioStatus cls) rfl rfl hb hp ((if_neg hk').trans (if_neg hr))
      (hcalm.trans (askRadio_calm ((hcalm.portBusy _).trans hport))) (askRadio_ended _ _)
  · exact exec_message (a := 0) (m := .radioStatus cls) rfl rfl hb hp
      ((if_pos hk).trans (carrierMalformed_faulted hd hq _)) (charged_calm _ _ _) rfl
end

section
/-! Stations that join and part (R4 to R8), and the operations that find nothing to do for a station: no frame queued, none held,
no subscription. -/

-- One proof at a time: the threads of the default would not fit the memory the check allows.
set_option Elab.async false

open Sys2Proof

namespace Sys2Proof.Machine

variable {s : State}

/-! ### Nothing queued, nothing held, no subscription -/

theorem takeFrames_none {h : Nat} {l : List Burst}
    (hl : ∀ b ∈ l, b.isTransmitting = true ∨ ∀ f ∈ b.frames, f.handle ≠ some h) : (takeFrames h l).1 = [] := by
  induction l with
  | nil => rfl
  | cons b l ih =>
    have hrest := ih (fun b' hb' => hl b' (List.mem_cons_of_mem _ hb'))
    unfold takeFrames
    simp only
    split
    · exact hrest
    · next hb =>
      have hmine : b.frames.filter (fun f => decide (f.handle = some h)) = [] := by
        refine List.filter_eq_nil_iff.2 (fun f hf => ?_)
        simpa using (hl b List.mem_cons_self).resolve_left hb f hf
      split <;> simp [hmine, hrest]

theorem takeFromList_none {h r : Nat} {c : Cls} (hl : (takeFrames h (s.list r c)).1 = []) : takeFromList h r c s = ([], s) := by
  unfold takeFromList
  simp only [hl, if_true]

theorem noneQueued_list {h r : Nat} (hn : s.noneQueued h r = true) (c : Cls) : (takeFrames h (s.list r c)).1 = [] := by
  refine takeFrames_none (fun b hb => ?_)
  have hc : c ∈ Cls.all := by cases c <;> decide
  have := List.all_eq_true.1 (List.all_eq_true.1 hn c hc) b hb
  simpa using this

theorem takeFromRadio_none {h r : Nat} (hn : s.noneQueued h r = true) : takeFromRadio h r s = ([], s) := by
  unfold takeFromRadio
  simp only [Cls.all, List.foldl_cons, List.foldl_nil, takeFromList_none (noneQueued_list hn _), List.append_nil]

theorem recallFrames_none {h r : Nat} (hn : s.noneQueued h r = true) : recallFrames h r s = s := by
  unfold recallFrames
  simp only [takeFromRadio_none hn, if_true]

theorem pauseSub_none {h : Nat} {st : Station} (hs : s.station h = some st) (hsub : st.sub = none) : pauseSub h s = s := by
  unfold pauseSub
  simp only [hs, hsub, Option.bind_none]

theorem removeSub_none {h : Nat} {st : Station} (hs : s.station h = some st) (hsub : st.sub = none) : removeSub h s = s := by
  unfold removeSub
  simp only [hs, hsub]

theorem resumeSub_none {h : Nat} {st : Station} (hs : s.station h = some st) (hsub : st.sub = none) : resumeSub h s = s := by
  unfold resumeSub
  simp only [hs, hsub]

theorem drain_none {h : Nat} {st : Station} (hs : s.station h = some st) (hh : st.hold = []) : drain h s = s := by
  unfold drain
  simp only [hs, hh, ne_eq, not_true_eq_false, and_false, if_false]

theorem modStation_some {h : Nat} {st : Station} (hs : s.station h = some st) (f : Station → Station) :
    s.modStation h f = s.setStation h (f st) := by
  unfold State.modStation
  rw [hs]

/-! ### JOIN -/

variable {a : Addr} {r : Nat} {frame : List Byte}

theorem takeJoin_malformed (ha : noStation a = true) : takeJoin r a frame s = carrierMalformed (some r) frame s := by
  unfold takeJoin; exact if_pos ha

theorem takeJoin_create {h : Nat} (ha : noStation a = false) (hl : s.lookup a = none) (hf : s.freeHandle a = some h) :
    takeJoin r a frame s = createStation a h r s := by
  simp only [takeJoin, ha, Bool.false_eq_true, if_false, hl, hf]

theorem takeJoin_full (ha : noStation a = false) (hl : s.lookup a = none) (hf : s.freeHandle a = none) :
    takeJoin r a frame s = raiseError (anError .stationTableFull (some r) frame) s := by
  simp only [takeJoin, ha, Bool.false_eq_true, if_false, hl, hf]

theorem takeJoin_record {h : Nat} (ha : noStation a = false) (hl : s.lookup a = some h) :
    takeJoin r a frame s = joinRecord h r s := by
  simp only [takeJoin, ha, Bool.false_eq_true, if_false, hl]

theorem joinRecord_current {h : Nat} {st : Station} (hs : s.station h = some st) (ha : st.state = .attached)
    (hc : st.current = some r) : joinRecord h r s = s := by
  simp only [joinRecord, hs, ha, hc, if_true]

theorem setStation_calm (s : State) (h : Nat) (v : Station) : Calm s (s.setStation h v) := calm_of_fields rfl rfl rfl rfl

theorem modStationCtrs_calm (s : State) (f : StationCtrs → StationCtrs) : Calm s (s.modStationCtrs f) :=
  calm_of_fields rfl rfl rfl rfl

theorem modRoam_calm (s : State) (f : Roam → Roam) : Calm s (s.modRoam f) := calm_of_fields rfl rfl rfl rfl

theorem createStation_calm {h : Nat} {c : RadioCfg} (hc : (s.radio r).cfg = some c) : Calm s (createStation a h r s) :=
  ((setStation_calm s h _).trans (modRadio_calm_of_cfg (c := c) hc rfl)).trans (modStationCtrs_calm _ _)

/-! ### PART -/

theorem takePart_record {h : Nat} (hl : s.lookup a = some h) : takePart r a frame s = partRecord h r frame s := by
  simp only [takePart, hl]

theorem takePart_stray (hl : s.lookup a = none) : takePart r a frame s = strayService s := by
  simp only [takePart, hl]

theorem detachStation_none {h r : Nat} {st : Station} (hs : s.station h = some st) (hsub : st.sub = none)
    (hn : s.noneQueued h r = true) : detachStation h r s
      = lessStations r ((leaveDrainList h s).setStation h { st with
          state := .unattached, current := none, linger := s.lingerFrom st }) := by
  unfold detachStation
  rw [recallFrames_none (s := leaveDrainList h s) hn, pauseSub_none (s := leaveDrainList h s) hs hsub]
  simp only
  rw [modStation_some (s := leaveDrainList h s) hs]

theorem partRecord_current {h r : Nat} {st : Station} (hs : s.station h = some st) (ha : st.state = .attached)
    (hc : st.current = some r) (frame : List Byte) : partRecord h r frame s = detachStation h r s := by
  unfold partRecord
  simp only [hs, ha, hc, if_true]

theorem partRecord_unexpected {h r : Nat} {st : Station} (hs : s.station h = some st)
    (hst : st.state = .unattached ∨ (st.state = .attached ∧ ∃ x, st.current = some x ∧ x ≠ r)) (frame : List Byte) :
    partRecord h r frame s = serviceUnexpected r frame s := by
  unfold partRecord
  rcases hst with ha | ⟨ha, x, hx, hne⟩
  · simp only [hs, ha]
  · simp only [hs, ha, hx, hne, if_false]

end Sys2Proof.Machine

open Sys2Proof.Machine

/-- Settles O45: the rule of each message, and what it makes of the record is calm. -/
theorem joinAndPartMoveStations : Obligations.JoinAndPartMoveStations := by
  intro s p radio a hb hp
  have hd := heard_deferring hb p.val
  obtain ⟨cfg, hcfg, -⟩ := Passes_cfg hp
  have hjoin (t : State) := exec_message (t := t) (u := t.ended) (i := .join p radio a) (a := a) (m := .join) rfl rfl hb hp
  have hpart (t : State) := exec_message (t := t) (u := t.ended) (i := .part p radio a) (a := a) (m := .part) rfl rfl hb hp
  refine ⟨fun h hns hl hf => ?_, fun hns hl hf => ?_, fun hns hq => ?_, fun h st hns hl hs ha hc => ?_,
    fun h st hl hs ha hc hsub hn => ?_, fun hl => ?_, fun h st hl hs hst hq => ?_⟩
  · exact hjoin _ (takeJoin_create (s := s.portHeard p.val) hns hl hf) (createStation_calm (c := cfg) hcfg) rfl
  · exact hjoin _ ((takeJoin_full (s := s.portHeard p.val) hns hl hf).trans (raiseError_plain hd rfl)) (takeOccurrence_calm _ _) rfl
  · exact hjoin _ ((takeJoin_malformed hns).trans (carrierMalformed_faulted hd hq _)) (charged_calm _ _ _) rfl
  · have hs' : (s.portHeard p.val).station h = some st := hs
    exact hjoin _ ((takeJoin_record (s := s.portHeard p.val) hns hl).trans (joinRecord_current hs' ha hc)) (Calm.refl _) rfl
  · have hs' : (s.portHeard p.val).station h = some st := hs
    have hcalm : Calm (s.portHeard p.val) (lessStations radio.toNat ((leaveDrainList h (s.portHeard p.val)).setStation h { st with
        state := .unattached, current := none, linger := s.lingerFrom st })) :=
      ((modRoam_calm _ _).trans (setStation_calm _ _ _)).trans (modRadio_calm_of_cfg (c := cfg) hcfg rfl)
    exact hpart _ ((takePart_record (s := s.portHeard p.val) hl).trans ((partRecord_current hs' ha hc _).trans
      (detachStation_none hs' hsub hn))) hcalm rfl
  · exact hpart _ (takePart_stray (s := s.portHeard p.val) hl) (modStationCtrs_calm _ _) rfl
  · have hs' : (s.portHeard p.val).station h = some st := hs
    exact hpart _ ((takePart_record (s := s.portHeard p.val) hl).trans ((partRecord_unexpected hs' hst _).trans
      (serviceUnexpected_faulted hd hq _))) (charged_calm _ _ _) rfl
end

section
/-! Directives answered as they arrive that change the part (R170); RADIO_CONFIG (R18), RADIO_STATE (R19) and RADIO_RESET (R21). -/

-- One proof at a time: the threads of the default would not fit the memory the check allows.
set_option Elab.async false

open Sys2Proof

namespace Sys2Proof.Machine

variable {s u v : State}

/-! ### Directives that change the part -/

section
variable {i : Instr} {src : Addr} {tag k : Half} {d : Directive} {st : Status} {body : List Byte}

/-- A directive whose change of the part leaves nothing to follow. -/
theorem exec_concluded (hs : s.Ready src) (hd : i.directive = some ⟨src, tag, d⟩) (hk : d.kind = k) (hw : i.wf = true)
    (hrun : runDirective d (s.queued ⟨src, tag, d⟩) = (some ⟨st, body⟩, v.queued ⟨src, tag, d⟩)) (hv : v.ev = s.ev)
    (hm : v.mgmt = s.mgmt) : exec i s = .next (v.concluded src k tag st body) := by
  have hq : v.Quiet := by have := hs.1; unfold State.Quiet at *; rw [hv]; exact this
  rw [← hk, exec_directive hd hw]
  exact directive_concluded hs hrun hq (by rw [hm]; exact hs.2.2.1) (by rw [hm]; exact hs.2.2.2)

/-- States that end alike differ in their bookkeeping only. -/
theorem eq_of_ended (h : u.ended = v.ended) : u = { v with ev := u.ev } :=
  congrArg (fun t : State => { t with ev := u.ev }) h

theorem number_of_ended (h : u.ended = v.ended) : u.ev.number = v.ev.number :=
  Nat.succ.inj (congrArg (fun t : State => t.ev.number) h)

/-- A directive whose change of the part asks only the arbiters of ports that are sending. -/
theorem exec_concluded_calm (hs : s.Ready src) (hd : i.directive = some ⟨src, tag, d⟩) (hk : d.kind = k) (hw : i.wf = true)
    (hrun : runDirective d (s.queued ⟨src, tag, d⟩) = (some ⟨st, body⟩, u)) (hc : Calm (s.queued ⟨src, tag, d⟩) u)
    (hu : u.ended = (v.queued ⟨src, tag, d⟩).ended) (hm : v.mgmt = s.mgmt) :
    exec i s = .next (v.concluded src k tag st body) := by
  have hq : (s.queued ⟨src, tag, d⟩).Quiet := hs.1
  have heq : u = { v.queued ⟨src, tag, d⟩ with ev := u.ev } := eq_of_ended hu
  have hport (p : Nat) : (u.port p).sending = (v.port p).sending := by rw [heq]; rfl
  rw [← hk, exec_directive hd hw]
  refine directive_concluded_busy (x := u.ev) hs (hrun.trans (congrArg _ heq)) ?_ ?_
    (number_of_ended (v := v.queued ⟨src, tag, d⟩) hu) (fun p hp => ?_)
    (by rw [hm]; exact hs.2.2.1) (by rw [hm]; exact hs.2.2.2)
  · rw [hc.room]; exact quiet_room hq
  · rw [hc.look]; exact quiet_look hq
  · rw [← hport, hc.busy]
    refine (hc.ask p hp).resolve_left ?_
    rw [quiet_ask hq]
    exact List.not_mem_nil
end

/-! ### RADIO_CONFIG -/

section
variable {radio role zone group port rm : Byte} {c : RadioCfg} {b : Bool}

theorem configOf_remove (h : configOf role zone group port 0 = some (c, b)) :
    configOf role zone group port 0 = some (c, false) ∧ configOf role zone group port 1 = some (c, true) := by
  have h0 : flagOf 0 = some false := rfl
  have h1 : flagOf 1 = some true := rfl
  unfold configOf at h ⊢
  simp only [h0, h1] at h ⊢
  cases hr : roleOf role with
  | none => rw [hr] at h; cases h
  | some r =>
    rw [hr] at h
    simp only at h ⊢
    split at h
    · next hin =>
      simp only [Option.some.injEq, Prod.mk.injEq] at h
      rw [if_pos hin, if_pos hin, h.1]
      exact ⟨rfl, rfl⟩
    · cases h

theorem runRadioConfig_absent (hc : configOf role zone group port rm = some (c, b))
    (h : (s.radio radio.toNat).state = .absent) : runRadioConfig radio role zone group port rm s
      = answered .done (if b then s else configureAbsent radio.toNat c s) := by
  cases b <;> simp only [runRadioConfig, hc, h] <;> rfl

theorem runRadioConfig_disabled (hc : configOf role zone group port rm = some (c, b))
    (h : (s.radio radio.toNat).state = .disabled) : runRadioConfig radio role zone group port rm s
      = answered .done (if b then unconfigure radio.toNat s else reconfigure radio.toNat c s) := by
  cases b <;> simp only [runRadioConfig, hc, h] <;> rfl
end

/-! ### RADIO_STATE -/

theorem runRadioState_serve {radio : Byte} : runRadioState radio 1 s = match (s.radio radio.toNat).state with
    | .absent => answered .state s
    | .disabled => answered .done ((s.modRadio radio.toNat (fun x => { x with state := .inService, noted := false })).askRadio
        radio.toNat)
    | .inService => answered .done s
    | .quarantined => answered .done ((s.modRadio radio.toNat (fun x => { x with
        state := .inService, noted := false, strikes := 0 })).askRadio radio.toNat) := by
  have h1 : newStateOf 1 = some true := rfl
  unfold runRadioState
  simp only [h1]
  cases (s.radio radio.toNat).state <;> rfl

theorem runRadioState_disable {radio : Byte} : runRadioState radio 2 s = match (s.radio radio.toNat).state with
    | .absent => answered .state s
    | .disabled => answered .done s
    | .inService => answered .done (leaveService radio.toNat .disabled s)
    | .quarantined => answered .done (s.modRadio radio.toNat (fun x => { x with state := .disabled, noted := false })) := by
  have h2 : newStateOf 2 = some false := rfl
  unfold runRadioState
  simp only [h2]
  cases (s.radio radio.toNat).state <;> rfl

/-! ### Radios changed twice -/

theorem modRadio_congr {r : Nat} {f g : Radio → Radio} (h : f (s.radio r) = g (s.radio r)) : s.modRadio r f = s.modRadio r g := by
  unfold State.modRadio; rw [h]

theorem set_set_of_ne {α : Type} [DecidableEq α] {d : α} (t : Table α) (k : Nat) {v w : α} (hv : v ≠ d) (hw : w ≠ d) :
    Table.set d (Table.set d t k v) k w = Table.set d t k w := by
  simp only [Table.set, hv, hw, if_false, Table.put_put]

/-- Two changes of a radio that stays listed are one. -/
theorem modRadio_modRadio {r : Nat} {f g : Radio → Radio} (hf : f (s.radio r) ≠ {}) (hg : g (f (s.radio r)) ≠ {}) :
    (s.modRadio r f).modRadio r g = s.modRadio r (fun x => g (f x)) := by
  have hr : (s.modRadio r f).radio r = f (s.radio r) := by rw [modRadio_radio hf, if_pos rfl]
  unfold State.modRadio at *
  unfold State.setRadio at *
  rw [hr]
  simp only [set_set_of_ne _ _ hf hg]

/-! ### RADIO_RESET of an idle radio -/

section
variable {r : Nat}

theorem detachAll_none (h : ∀ e ∈ s.stations, e.2.current ≠ some r) : detachAll r s = s := by
  have : s.attachedTo r = [] := by
    unfold State.attachedTo
    rw [List.filter_eq_nil_iff.2 (fun e he => by simp [h e he])]
    rfl
  unfold detachAll
  rw [this]
  rfl

theorem resolveOne_none (h : ∀ e ∈ s.stations, e.2.current ≠ some r ∧ e.2.target ≠ some r) (k : Nat) : resolveOne r k s = s := by
  unfold resolveOne
  split
  · rfl
  · next st hst =>
    obtain ⟨hc, ht⟩ := h _ (Table.mem_of_find hst)
    split
    · next x t _ hx htt =>
      rw [if_neg (fun e => hc (by rw [hx, e])), if_neg (fun e => ht (by rw [htt, e]))]
    · rfl

theorem resolveHandoffs_none (h : ∀ e ∈ s.stations, e.2.current ≠ some r ∧ e.2.target ≠ some r) :
    resolveHandoffs r s = clearMarksOf r s := by
  have hfold (l : List Nat) : l.foldl (fun s h => resolveOne r h s) s = s := by
    induction l with
    | nil => rfl
    | cons k l ih => rw [List.foldl_cons, resolveOne_none h, ih]
  unfold resolveHandoffs
  rw [hfold]

theorem purge_none (h : ∀ c, ∀ b ∈ s.list r c, b.isTransmitting = true) : purge r s = s := by
  have : Cls.all.flatMap (fun c => (s.list r c).filter (fun b => !b.isTransmitting)) = [] := by
    refine List.flatMap_eq_nil_iff.2 (fun c _ => List.filter_eq_nil_iff.2 (fun b hb => ?_))
    simp [h c b hb]
  unfold purge
  exact if_pos this

theorem loseDeliveries_none (h : ∀ e ∈ s.replay.deliveries, e.2.radio ≠ r) : loseDeliveries r s = s.setWaitList r [] := by
  have : (s.replay.deliveries.filter (fun e => decide (e.2.radio = r))) = [] :=
    List.filter_eq_nil_iff.2 (fun e he => by simp [h e he])
  unfold loseDeliveries
  rw [this]
  rfl

theorem detachRadio_idle (hst : ∀ e ∈ s.stations, e.2.current ≠ some r ∧ e.2.target ≠ some r)
    (hl : ∀ c, ∀ b ∈ s.list r c, b.isTransmitting = true) (hd : ∀ e ∈ s.replay.deliveries, e.2.radio ≠ r) :
    detachRadio r s = (zeroCounts r (clearMarksOf r s)).setWaitList r [] := by
  unfold detachRadio
  rw [detachAll_none (fun e he => (hst e he).1), resolveHandoffs_none hst, purge_none (s := zeroCounts r (clearMarksOf r s)) hl,
    loseDeliveries_none (s := zeroCounts r (clearMarksOf r s)) hd]

theorem groupOf_cfg {g : Governor} {x : Radio} {c : RadioCfg} (h : x.cfg = some c) : g.groupOf x = g.activeCtx.group c.group := by
  unfold Governor.groupOf; rw [h]; rfl

/-- A radio as RADIO_RESET leaves it, in service or DISABLED as it was (R21, R61). -/
def Radio.reset (credit : Int) (now : Time) (x : Radio) : Radio :=
  { x with
    stations := 0, subscribers := 0, strikes := 0, drops := {}, gov := {}, noted := false
    credit := credit, remainder := 0, lastRefill := now, waiting := [], wake := none }

theorem resetRadio_idle {c : RadioCfg} (hserve : (s.radio r).state = .inService ∨ (s.radio r).state = .disabled)
    (hc : (s.radio r).cfg = some c) (hst : ∀ e ∈ s.stations, e.2.current ≠ some r ∧ e.2.target ≠ some r)
    (hl : ∀ c, ∀ b ∈ s.list r c, b.isTransmitting = true) (hd : ∀ e ∈ s.replay.deliveries, e.2.radio ≠ r) :
    resetRadio r s = ((clearMarksOf r s).modRadio r
      (Radio.reset (s.gov.activeCtx.group c.group).ceiling.toNat s.venueTime)).setWaitList r [] := by
  have hstate : (if (s.radio r).state = .disabled then RadioState.disabled else .inService) = (s.radio r).state := by
    rcases hserve with h | h <;> simp [h]
  have hq : (s.radio r).state ≠ .quarantined := by rcases hserve with h | h <;> simp [h]
  have hne {x : Radio} (h : x.cfg = some c) : x ≠ {} := by rintro rfl; cases h
  unfold resetRadio
  simp only [hstate, hq, if_false, detachRadio_idle hst hl hd]
  have hcfg (s' : State) (hr : s'.radios = s.radios) : (s'.radio r).cfg = some c := by unfold State.radio at *; rw [hr]; exact hc
  have hcomm (t : State) (g : Radio → Radio) : (t.setWaitList r []).modRadio r g = (t.modRadio r g).setWaitList r [] := rfl
  rw [hcomm]
  refine congrArg (fun t : State => t.setWaitList r []) ?_
  refine (modRadio_modRadio (hne (hcfg _ rfl)) (hne (hcfg _ rfl))).trans (modRadio_congr ?_)
  simp only [Governor.initCredit, Radio.reset]
  rw [groupOf_cfg (c := c) (x := { (clearMarksOf r s).radio r with stations := 0, subscribers := 0 }) (hcfg (clearMarksOf r s) rfl)]
  rfl
end

end Sys2Proof.Machine

open Sys2Proof.Machine

/-- Settles O30: each case of the radio's state, the change made in the event of the directive. -/
theorem radioConfigFollowsState : Obligations.RadioConfigFollowsState := by
  intro s src tag radio role zone group port c b hs hcfg
  obtain ⟨h0, h1⟩ := configOf_remove hcfg
  refine ⟨fun ha => ⟨?_, ?_⟩, fun hd => ⟨?_, ?_⟩⟩
  · refine exec_concluded hs rfl rfl rfl ?_ rfl rfl
    exact runRadioConfig_absent (s := s.queued _) h0 ha
  · refine exec_concluded hs rfl rfl rfl ?_ rfl rfl
    exact runRadioConfig_absent (s := s.queued _) h1 ha
  · refine exec_concluded hs rfl rfl rfl ?_ rfl rfl
    exact runRadioConfig_disabled (s := s.queued _) h0 hd
  · refine exec_concluded hs rfl rfl rfl ?_ rfl rfl
    exact runRadioConfig_disabled (s := s.queued _) h1 hd

/-- Settles O31: each case of the radio's state; and the steps of a reset that find nothing to do. -/
theorem radioStateAndResetFollowTable : Obligations.RadioStateAndResetFollowTable := by
  have hserve (s : State) (src : Addr) (tag : Half) (radio : Byte) (f : Radio → Radio) (e : MgmtEntry)
      (hs : s.Ready src) (he : e = ⟨src, tag, .radioState radio 1⟩)
      (hrun : runDirective e.dir (s.queued e) = answered .done (((s.queued e).modRadio radio.toNat f).askRadio radio.toNat))
      (hf : f (s.radio radio.toNat) ≠ {}) (hc : (f (s.radio radio.toNat)).cfg = (s.radio radio.toNat).cfg)
      (hbusy : s.portBusy radio.toNat = true) :
      exec (.radioState src tag radio 1) s = .next ((s.modRadio radio.toNat f).concluded src 7 tag .done []) := by
    subst he
    have hcalm : Calm (s.queued ⟨src, tag, .radioState radio 1⟩) ((s.queued ⟨src, tag, .radioState radio 1⟩).modRadio
        radio.toNat f) := modRadio_calm hf hc
    exact exec_concluded_calm hs rfl rfl rfl hrun (hcalm.trans (askRadio_calm ((hcalm.portBusy _).trans hbusy)))
      (askRadio_ended _ _) rfl
  refine ⟨fun s src tag radio hs => ⟨fun h hbusy => ?_, fun h => ?_, fun h => ?_, fun h hbusy => ?_, fun h => ?_, fun h => ⟨?_, ?_⟩⟩,
    fun s src tag radio c hs hserve hc hst hl hd => ?_⟩
  · refine hserve s src tag radio _ _ hs rfl ?_ (fun h => by cases h) rfl hbusy
    exact runRadioState_serve.trans (by rw [show ((s.queued _).radio radio.toNat).state = .disabled from h])
  · refine exec_unchanged hs rfl rfl rfl ?_
    exact runRadioState_disable.trans (by rw [show ((s.queued _).radio radio.toNat).state = .disabled from h]; rfl)
  · refine exec_unchanged hs rfl rfl rfl ?_
    exact runRadioState_serve.trans (by rw [show ((s.queued _).radio radio.toNat).state = .inService from h]; rfl)
  · refine hserve s src tag radio _ _ hs rfl ?_ (fun h => by cases h) rfl hbusy
    exact runRadioState_serve.trans (by rw [show ((s.queued _).radio radio.toNat).state = .quarantined from h])
  · refine exec_concluded hs rfl rfl rfl ?_ rfl rfl
    exact runRadioState_disable.trans (by rw [show ((s.queued _).radio radio.toNat).state = .quarantined from h]; rfl)
  · refine exec_unchanged hs rfl rfl rfl ?_
    exact runRadioState_serve.trans (by rw [show ((s.queued _).radio radio.toNat).state = .absent from h]; rfl)
  · refine exec_unchanged hs rfl rfl rfl ?_
    exact runRadioState_disable.trans (by rw [show ((s.queued _).radio radio.toNat).state = .absent from h]; rfl)
  · refine exec_concluded hs rfl rfl rfl ?_ rfl rfl
    have hidle := resetRadio_idle (s := s.queued ⟨src, tag, .radioReset radio⟩) (r := radio.toNat) hserve hc hst hl hd
    have hne : (s.radio radio.toNat).state ≠ .absent := by rcases hserve with h | h <;> simp [h]
    exact (if_neg hne).trans (congrArg (answered .done) hidle)
end

section
/-! The timers on expiry (R8, R41, R49, R71), in a state whose radio table is not in canonical form. -/

-- One proof at a time: the threads of the default would not fit the memory the check allows.
set_option Elab.async false

open Sys2Proof

namespace Sys2Proof.Machine

/-- Radio 5 is listed twice: as an ABSENT radio that has a wake time, and, behind that entry, as one IN_SERVICE on port 1 with a
CLOSED burst. The table reads as the first entry; the expiry makes that the default, which removes it, and port 1, which is free,
is asked for the second. -/
def twiceListed : State where
  radios := [(5, { wake := some 0 }), (5, { state := .inService, cfg := some ⟨.seat, 0, 0, 1⟩, credit := 1000 })]
  egress := { lists := [(5, { admission := [{ state := .closed, frames := [] }] })], bursts := 1 }

theorem twiceListed_quiet : twiceListed.Between ∧ twiceListed.portBusy 5 = true ∧ (twiceListed.radio 5).wake = some 0 := by
  decide

/-- What a port sends in the state an outcome answers. -/
def sendingAfter (o : Outcome) (p : Nat) : Option (Nat × Cls) :=
  match o with
  | .next t => (t.port p).sending
  | _ => none

/-- The expiry of radio 5's wake timer has port 1 dispatch a burst. -/
theorem twiceListed_dispatches : sendingAfter (exec (.wakeTimerExpiry 5) twiceListed) 1 = some (5, .admission) := by decide

end Sys2Proof.Machine

open Sys2Proof.Machine

/-- Refutes O51: the clause of the wake timer fails where the radio table lists a radio twice, since the port of the entry
uncovered runs its arbiter; the statement does not ask for the canonical form of the table. -/
theorem not_timersExpire : ¬ Obligations.TimersExpire := by
  intro h
  obtain ⟨hb, hbusy, hw⟩ := twiceListed_quiet
  have hrun := (h twiceListed hb).2.2.2 5 0 hw rfl hbusy
  have hsent := twiceListed_dispatches
  rw [hrun] at hsent
  cases hsent
end

section
/-! What an arrival or a freed bucket lets go on in the same event (R92, R108), and the directives of the void sweep (R107, R112,
R113) and CLEAR_REDEMPTIONS (R116). -/

-- One proof at a time: the threads of the default would not fit the memory the check allows.
set_option Elab.async false

open Sys2Proof

namespace Sys2Proof.Machine

variable {s u v : State}

/-! ### What goes on when the engine looks -/

/-- What a look for what can go on does (R92, R94, R108). -/
def goOn (s : State) : State := grantSlots Config.fetchSlots (takeBucket (sendStride s))

theorem settle_lookForSlot (hq : s.ev.look = false) : settle s.lookForSlot = goOn s := by
  have hclear : ({ s.lookForSlot with ev := { s.lookForSlot.ev with look := false } } : State) = s := by
    have h2 : ({ s.ev with look := false } : Scratch) = s.ev := by rw [← hq]
    show ({ s with ev := { s.ev with look := false } } : State) = s
    rw [h2]
  unfold settle goOn
  rw [if_pos (show s.lookForSlot.ev.look = true from rfl), hclear]

section
variable {i : Instr} {src : Addr} {tag k : Half} {d : Directive} {st : Status} {body : List Byte}

/-- A directive answered as it arrives whose change of the part lets something at the engine go on. -/
theorem exec_looked (hs : s.Ready src) (hd : i.directive = some ⟨src, tag, d⟩) (hk : d.kind = k) (hw : i.wf = true)
    (hrun : runDirective d (s.queued ⟨src, tag, d⟩) = (some ⟨st, body⟩, (u.queued ⟨src, tag, d⟩).lookForSlot))
    (hu : u.ev = s.ev) (hv : v.ev = s.ev) (hm : v.mgmt = s.mgmt)
    (hgo : goOn (reply ⟨st, body⟩ (u.queued ⟨src, tag, d⟩)) = reply ⟨st, body⟩ (v.queued ⟨src, tag, d⟩)) :
    exec i s = .next (v.concluded src k tag st body) := by
  have hquiet (w : State) (hw : w.ev = s.ev) : (reply ⟨st, body⟩ (w.queued ⟨src, tag, d⟩)).Quiet := by
    have := hs.1
    unfold State.Quiet at *
    rw [← hw] at this
    exact this
  have hrun' : startHead (s.queued ⟨src, tag, d⟩) = (reply ⟨st, body⟩ (u.queued ⟨src, tag, d⟩)).lookForSlot := by
    unfold startHead
    simp only [State.queued]
    simp only [State.queued] at hrun
    rw [hrun]
    rfl
  have hflush : flush (reply ⟨st, body⟩ (u.queued ⟨src, tag, d⟩)).lookForSlot = reply ⟨st, body⟩ (v.queued ⟨src, tag, d⟩) := by
    have hroom : (reply ⟨st, body⟩ (u.queued ⟨src, tag, d⟩)).ev.roomFreed = false := quiet_room (hquiet u hu)
    unfold flush
    rw [announce_none (s := (reply ⟨st, body⟩ (u.queued ⟨src, tag, d⟩)).lookForSlot) hroom,
      settle_lookForSlot (quiet_look (hquiet u hu)), hgo, runArbiters_none (quiet_ask (hquiet v hv))]
  have hgoes : ¬ ((s.queued ⟨src, tag, d⟩).mgmt.queue = [] ∨ (s.queued ⟨src, tag, d⟩).mgmt.started = true) := by
    have hst : (s.queued ⟨src, tag, d⟩).mgmt.started = s.mgmt.started := rfl
    rw [hst, hs.2.2.2]
    simp [State.queued]
  rw [← hk, exec_directive hd hw]
  unfold event finish
  rw [directiveArrives_queued tag d hs.2, flush_quiet (show (s.queued ⟨src, tag, d⟩).Quiet from hs.1)]
  unfold runQueue
  rw [if_neg hgoes, hrun', hflush, runQueue_settled (Or.inl rfl)]
  unfold closeEvent State.concluded State.ended State.replied reply State.sendUplink State.modMgmt
  simp only [State.queued, State.arrived, hm, hs.2.2.1, hs.2.2.2]

/-- A directive that its owner keeps at the head of the queue. -/
theorem exec_kept (hs : s.Ready src) (hd : i.directive = some ⟨src, tag, d⟩) (hw : i.wf = true)
    (hrun : runDirective d (s.queued ⟨src, tag, d⟩) = (none, v.queued ⟨src, tag, d⟩)) (hv : v.ev = s.ev) (hm : v.mgmt = s.mgmt) :
    exec i s = .next { (v.queued ⟨src, tag, d⟩).ended with
      mgmt := { (s.queued ⟨src, tag, d⟩).mgmt with started := true } } := by
  have hst : startHead (s.queued ⟨src, tag, d⟩) = (v.queued ⟨src, tag, d⟩).modMgmt (fun m => { m with started := true }) := by
    unfold startHead
    simp only [State.queued]
    simp only [State.queued] at hrun
    rw [hrun]
  have hq : ((v.queued ⟨src, tag, d⟩).modMgmt (fun m => { m with started := true })).Quiet := by
    have := hs.1
    unfold State.Quiet at *
    rw [← hv] at this
    exact this
  have hgoes : ¬ ((s.queued ⟨src, tag, d⟩).mgmt.queue = [] ∨ (s.queued ⟨src, tag, d⟩).mgmt.started = true) := by
    have hst : (s.queued ⟨src, tag, d⟩).mgmt.started = s.mgmt.started := rfl
    rw [hst, hs.2.2.2]
    simp [State.queued]
  rw [exec_directive hd hw]
  unfold event finish
  rw [directiveArrives_queued tag d hs.2, flush_quiet (show (s.queued ⟨src, tag, d⟩).Quiet from hs.1)]
  unfold runQueue
  rw [if_neg hgoes, hst, flush_quiet hq, runQueue_settled (Or.inr rfl)]
  unfold closeEvent State.ended State.modMgmt
  simp only [State.queued, State.arrived, hm]
end

/-! ### The claimed stride -/

theorem sendStride_none (h : s.adm.sweep.stride ≠ some .claimed) : sendStride s = s := by
  unfold sendStride
  exact if_neg (fun hc => h hc.1)

theorem sendStride_held {b : Nat} (hb : s.adm.holdsBucket b = true) (hlo : s.adm.sweep.pointer ≤ b)
    (hhi : b < s.adm.sweep.pointer + 64) : sendStride s = s := by
  refine if_neg (fun hc => ?_)
  have := List.all_eq_true.1 hc.2.1 (b - s.adm.sweep.pointer) (List.mem_range.2 (show _ < 64 by omega))
  rw [show s.adm.sweep.pointer + (b - s.adm.sweep.pointer) = b by omega, hb] at this
  exact absurd this (by decide)

theorem holdsBucket_idle {a : Admission} (hi : a.items = []) (ho : a.op = none) (b : Nat) : a.holdsBucket b = false := by
  unfold Admission.holdsBucket
  rw [hi, ho]
  rfl

theorem sendStride_idle (hc : s.adm.sweep.stride = some .claimed) (hi : s.adm.items = []) (ho : s.adm.op = none)
    (hm : s.mem.all.all (fun t => decide (t.req.kind ≠ .stride)) = true) :
    sendStride s = (s.modSweep (fun w => { w with stride := some .reading })).sendRequest
      (.stride s.adm.sweep.pointer (s.checkSet (positionsFrom s.adm.sweep.pointer 64))) := by
  refine if_pos ⟨hc, List.all_eq_true.2 (fun b _ => ?_), hm⟩
  rw [holdsBucket_idle hi ho]
  rfl

/-! ### Operations and items that wait -/

theorem takeBucket_none (h : ∀ o, s.adm.op = some o → o.stage ≠ .waiting) : takeBucket s = s := by
  unfold takeBucket
  cases ho : s.adm.op with
  | none => rfl
  | some o => exact if_neg (fun hc => h o ho hc.1)

theorem mayFetch_of_not_waiting {i : WorkItem} (h : i.stage ≠ .waiting) : s.mayFetch i = false := by
  unfold State.mayFetch
  simp [h]

theorem grantSlots_none (h : ∀ i ∈ s.adm.items, i.stage ≠ .waiting) (n : Nat) : grantSlots n s = s :=
  grant_none (List.find?_eq_none.2 (fun i hi => by simp [mayFetch_of_not_waiting (h i hi)])) n

/-- Where nothing waits and no stride can be read, a look changes nothing. -/
theorem goOn_none (hst : sendStride s = s) (hi : ∀ i ∈ s.adm.items, i.stage ≠ .waiting)
    (ho : ∀ o, s.adm.op = some o → o.stage ≠ .waiting) : goOn s = s := by
  unfold goOn
  rw [hst, takeBucket_none ho, grantSlots_none hi]

/-- At an engine without items and operation, a look sends the claimed stride's read. -/
theorem goOn_stride (hc : s.adm.sweep.stride = some .claimed) (hi : s.adm.items = []) (ho : s.adm.op = none)
    (hm : s.mem.all.all (fun t => decide (t.req.kind ≠ .stride)) = true) :
    goOn s = (s.modSweep (fun w => { w with stride := some .reading })).sendRequest
      (.stride s.adm.sweep.pointer (s.checkSet (positionsFrom s.adm.sweep.pointer 64))) := by
  unfold goOn
  rw [sendStride_idle hc hi ho hm, takeBucket_none (fun o h => ?_), grantSlots_none (fun i h => ?_)]
  · exact absurd (show i ∈ s.adm.items from h) (by rw [hi]; exact List.not_mem_nil)
  · exact absurd (ho.symm.trans h) (by simp)

/-- The stride claimed at the pointer has sent its read (R108). -/
def State.strideSent (s : State) : State :=
  { s with
    adm := { s.adm with sweep := { s.adm.sweep with stride := some .reading } }
    mem := s.mem.send (.stride s.adm.sweep.pointer (s.checkSet (positionsFrom s.adm.sweep.pointer 64))) }

theorem goOn_reply_stride {a : Answer} {e : MgmtEntry} (hc : s.adm.sweep.stride = some .claimed) (hi : s.adm.items = [])
    (ho : s.adm.op = none) (hm : s.mem.all.all (fun t => decide (t.req.kind ≠ .stride)) = true) :
    goOn (reply a (s.queued e)) = reply a (s.strideSent.queued e) := by
  rw [goOn_stride (s := reply a (s.queued e)) (by exact hc) (by exact hi) (by exact ho) (by exact hm)]
  have hcheck (ps : List Nat) : (reply a (s.queued e)).checkSet ps = s.checkSet ps := rfl
  have hp : (reply a (s.queued e)).adm.sweep.pointer = s.adm.sweep.pointer := rfl
  rw [hcheck, hp]
  rfl

theorem goOn_reply_none {a : Answer} {e : MgmtEntry} (hst : sendStride (reply a (s.queued e)) = reply a (s.queued e))
    (hi : ∀ i ∈ s.adm.items, i.stage ≠ .waiting) (ho : ∀ o, s.adm.op = some o → o.stage ≠ .waiting) :
    goOn (reply a (s.queued e)) = reply a (s.queued e) :=
  goOn_none (s := reply a (s.queued e)) hst hi ho

theorem holdsBucket_of_item {a : Admission} {i : WorkItem} (hi : i ∈ a.items) (h : i.stage ≠ .waiting) :
    a.holdsBucket i.bucket = true := by
  have hslot : i.stage.slot.isSome = true := by
    cases hst : i.stage with
    | waiting => exact absurd hst h
    | fetching k => rfl
    | writing k => rfl
  unfold Admission.holdsBucket
  rw [Bool.or_eq_true, List.any_eq_true]
  exact Or.inl ⟨i, hi, by simp [hslot]⟩

/-! ### The one item that waits -/

section
variable {pre post : List WorkItem} {i : WorkItem} {n : Nat}

theorem filter_waiting (hpp : ∀ j ∈ pre ++ post, j.stage ≠ .waiting) (hi : i.stage = .waiting) :
    (pre ++ i :: post).filter (fun j => decide (j.stage = .waiting ∧ j.bucket = i.bucket)) = [i] := by
  have hnone (l : List WorkItem) (hl : ∀ j ∈ l, j.stage ≠ .waiting) :
      l.filter (fun j => decide (j.stage = .waiting ∧ j.bucket = i.bucket)) = [] :=
    List.filter_eq_nil_iff.2 (fun j hj => by simp [hl j hj])
  rw [List.filter_append, List.filter_cons_of_pos (by simp [hi]), hnone pre (fun j hj => hpp j (List.mem_append_left _ hj)),
    hnone post (fun j hj => hpp j (List.mem_append_right _ hj))]
  rfl

theorem pendingHead_only (hs : s.adm.items = pre ++ i :: post) (ho : s.adm.op = none)
    (hpp : ∀ j ∈ pre ++ post, j.stage ≠ .waiting) (hi : i.stage = .waiting) :
    s.adm.pendingHead i.bucket = some i.serial := by
  unfold Admission.pendingHead
  simp only [hs, ho, filter_waiting hpp hi]
  rfl

theorem bucketBusy_only (hs : s.adm.items = pre ++ i :: post) (ho : s.adm.op = none) (hst : s.adm.sweep.stride = none)
    (hm : s.mem.all.all (fun t => !t.marked) = true) (hpp : ∀ j ∈ pre ++ post, j.bucket ≠ i.bucket) (hi : i.stage = .waiting) :
    s.bucketBusy i.bucket = false := by
  have hmem : s.mem.all.any (fun t => t.marked && t.req.covers i.bucket) = false := by
    refine List.any_eq_false.2 (fun t ht => ?_)
    have := List.all_eq_true.1 hm t ht
    simp only [Bool.not_eq_true'] at this
    simp [this]
  have hitems : s.adm.items.any (fun j => j.stage.slot.isSome && decide (j.bucket = i.bucket)) = false := by
    refine List.any_eq_false.2 (fun j hj => ?_)
    rw [hs, List.mem_append, List.mem_cons] at hj
    rcases hj with hj | rfl | hj
    · simp [hpp j (List.mem_append_left _ hj)]
    · simp [hi, ItemStage.slot]
    · simp [hpp j (List.mem_append_right _ hj)]
  simp only [State.bucketBusy, Admission.holdsBucket, Sweep.covers, hitems, hmem, hst, ho]
  rfl

theorem mayFetch_only (hs : s.adm.items = pre ++ i :: post) (ho : s.adm.op = none) (hst : s.adm.sweep.stride = none)
    (hm : s.mem.all.all (fun t => !t.marked) = true)
    (hpp : ∀ j ∈ pre ++ post, j.stage ≠ .waiting ∧ j.bucket ≠ i.bucket ∧ j.serial ≠ i.serial) (hi : i.stage = .waiting) :
    s.adm.items.find? s.mayFetch = some i := by
  have hmay : s.mayFetch i = true := by
    unfold State.mayFetch
    rw [pendingHead_only hs ho (fun j hj => (hpp j hj).1) hi, bucketBusy_only hs ho hst hm (fun j hj => (hpp j hj).2.1) hi]
    simp [hi]
  rw [hs, List.find?_append, List.find?_eq_none.2 (fun j hj => ?_), List.find?_cons_of_pos hmay]
  · rfl
  · simp [mayFetch_of_not_waiting (s := s) (hpp j (List.mem_append_left _ hj)).1]

theorem freeSlot_lowest (hs : s.adm.items = pre ++ i :: post) (hi : i.stage = .waiting) (hn : n < 8)
    (hfree : ∀ j ∈ pre ++ post, j.stage.slot ≠ some n) (hused : ∀ m, m < n → ∃ j ∈ pre ++ post, j.stage.slot = some m) :
    s.adm.freeSlot = some n := by
  have hmem (m : Nat) : m ∈ s.adm.slotsInUse ↔ ∃ j ∈ pre ++ post, j.stage.slot = some m := by
    have hnone : i.stage.slot = none := by rw [hi]; rfl
    unfold Admission.slotsInUse
    rw [hs]
    simp [List.mem_filterMap, hnone, or_and_right, exists_or]
  unfold Admission.freeSlot
  refine List.find?_eq_some_iff_getElem.2 ⟨?_, n, by simpa using hn, by simp, fun m hm => ?_⟩
  · have : n ∉ s.adm.slotsInUse := fun h => by
      obtain ⟨j, hj, hjn⟩ := (hmem n).1 h
      exact hfree j hj hjn
    simpa using this
  · simpa using (hmem m).2 (hused m hm)

theorem modItem_only (hpp : ∀ j ∈ pre ++ post, j.serial ≠ i.serial) (f : WorkItem → WorkItem) :
    (pre ++ i :: post).map (fun j => if j.serial = i.serial then f j else j) = pre ++ f i :: post := by
  have hsame (l : List WorkItem) (hl : ∀ j ∈ l, j.serial ≠ i.serial) :
      l.map (fun j => if j.serial = i.serial then f j else j) = l := by
    conv_rhs => rw [← List.map_id l]
    exact List.map_congr_left (fun j hj => if_neg (hl j hj))
  rw [List.map_append, List.map_cons, if_pos rfl, hsame pre (fun j hj => hpp j (List.mem_append_left _ hj)),
    hsame post (fun j hj => hpp j (List.mem_append_right _ hj))]

/-- Where one item alone waits, a look gives it the lowest free slot and sends its fetch (R92). -/
theorem goOn_only (hs : s.adm.items = pre ++ i :: post) (ho : s.adm.op = none) (hst : s.adm.sweep.stride = none)
    (hm : s.mem.all.all (fun t => !t.marked) = true)
    (hpp : ∀ j ∈ pre ++ post, j.stage ≠ .waiting ∧ j.bucket ≠ i.bucket ∧ j.serial ≠ i.serial) (hi : i.stage = .waiting)
    (hn : n < 8) (hfree : ∀ j ∈ pre ++ post, j.stage.slot ≠ some n)
    (hused : ∀ m, m < n → ∃ j ∈ pre ++ post, j.stage.slot = some m) :
    goOn s = { s with
      adm := { s.adm with
        items := pre ++ { i with stage := .fetching n } :: post
        ctrs := { s.adm.ctrs with fetches := bump s.adm.ctrs.fetches } }
      mem := s.mem.send (.fetch i.bucket (s.checkSet (positionsFrom i.bucket 1)) (.item i.serial)) } := by
  have hitems : (takeSlot i n s).adm.items = pre ++ { i with stage := .fetching n } :: post := by
    rw [← modItem_only (fun j hj => (hpp j hj).2.2) (fun j => { j with stage := .fetching n }), ← hs]
    rfl
  have htake : takeSlot i n s = { s with
      adm := { s.adm with
        items := (takeSlot i n s).adm.items
        ctrs := { s.adm.ctrs with fetches := bump s.adm.ctrs.fetches } }
      mem := s.mem.send (.fetch i.bucket (s.checkSet (positionsFrom i.bucket 1)) (.item i.serial)) } := rfl
  have hrest (m : Nat) : grantSlots m (takeSlot i n s) = takeSlot i n s := by
    refine grantSlots_none (fun j hj => ?_) m
    rw [hitems, List.mem_append, List.mem_cons] at hj
    rcases hj with hj | rfl | hj
    · exact (hpp j (List.mem_append_left _ hj)).1
    · simp
    · exact (hpp j (List.mem_append_right _ hj)).1
  have hgrant (m : Nat) : grantSlots (m + 1) s = takeSlot i n s := by
    simp only [grantSlots, freeSlot_lowest hs hi hn hfree hused, mayFetch_only hs ho hst hm hpp hi]
    exact hrest m
  unfold goOn
  rw [sendStride_none (by rw [hst]; simp), takeBucket_none (fun o h => absurd (ho.symm.trans h) (by simp)), hgrant 7, htake, hitems]
end

/-! ### The directives of the sweep -/

/-- The sweep record is `w`, with a stride claimed (R107, R113). -/
def State.sweepClaimed (s : State) (w : Sweep) : State :=
  { s with adm := { s.adm with sweep := { w with stride := some .claimed } } }

section
variable {src : Addr} {tag : Half}

theorem runVoidSweep_idle {kind value : Byte} {sel : Selector} {e : MgmtEntry} (hidle : s.adm.sweep.state = .idle)
    (hsel : selectorOf kind value = some sel) : runVoidSweep kind value (s.queued e)
      = (some ⟨.accepted, sel.bytes⟩, (((s.modAdmCtrs (fun k => { k with sweepsStarted := bump k.sweepsStarted })).sweepClaimed
          { state := .running, selector := some sel, startTime := s.venueTime }).queued e).lookForSlot) := by
  unfold runVoidSweep
  rw [if_neg (by exact not_not.2 hidle), hsel]
  rfl

theorem runSweepResume_suspended {e : MgmtEntry} (hsus : s.adm.sweep.state = .suspended) : runSweepResume (s.queued e)
      = (some ⟨.done, be 2 s.adm.sweep.pointer⟩,
          ((s.sweepClaimed { s.adm.sweep with state := .running }).queued e).lookForSlot) :=
  if_neg (by exact not_not.2 hsus)

/-- The sweep is suspended and its stride released (R112). -/
def State.sweepReleased (s : State) : State :=
  { s with adm := { s.adm with sweep := { s.adm.sweep with state := .suspended, stride := none } } }

theorem suspendBody_released : s.sweepReleased.adm.sweep.suspendBody
    = be 1 3 ++ be 2 s.adm.sweep.pointer ++ be 4 s.adm.sweep.voided ++ be 4 s.adm.sweep.voidedInside
      ++ be 4 s.adm.sweep.faultyPassed := by
  unfold Sweep.suspendBody Sweep.counts
  simp only [← List.append_assoc]
  rfl

theorem runSweepSuspend_claimed {e : MgmtEntry} (hrun : s.adm.sweep.state = .running)
    (hst : s.adm.sweep.stride = some .claimed) : runSweepSuspend (s.queued e)
      = (some ⟨.done, s.sweepReleased.adm.sweep.suspendBody⟩, (s.sweepReleased.queued e).lookForSlot) := by
  have hstate : (s.queued e).adm.sweep.state = .running := hrun
  have hstride : (s.queued e).adm.sweep.stride = some .claimed := hst
  unfold runSweepSuspend
  simp only [hstate, hstride]
  rfl

theorem runSweepSuspend_reading {e : MgmtEntry} (hrun : s.adm.sweep.state = .running)
    (hst : s.adm.sweep.stride = some .reading) : runSweepSuspend (s.queued e)
      = (none, ({ s with adm := { s.adm with sweep := { s.adm.sweep with suspendRequested := true } } } : State).queued e) := by
  have hstate : (s.queued e).adm.sweep.state = .running := hrun
  have hstride : (s.queued e).adm.sweep.stride = some .reading := hst
  unfold runSweepSuspend
  simp only [hstate, hstride]
  rfl
end

/-- Where one item alone waits, a look as SWEEP_SUSPEND is answered gives it the lowest free slot. -/
theorem goOn_reply_only {pre post : List WorkItem} {i : WorkItem} {n : Nat} {a : Answer} {e : MgmtEntry}
    (hs : s.adm.items = pre ++ i :: post) (ho : s.adm.op = none) (hst : s.adm.sweep.stride = none)
    (hm : s.mem.all.all (fun t => !t.marked) = true)
    (hpp : ∀ j ∈ pre ++ post, j.stage ≠ .waiting ∧ j.bucket ≠ i.bucket ∧ j.serial ≠ i.serial) (hi : i.stage = .waiting)
    (hn : n < 8) (hfree : ∀ j ∈ pre ++ post, j.stage.slot ≠ some n)
    (hused : ∀ m, m < n → ∃ j ∈ pre ++ post, j.stage.slot = some m) :
    goOn (reply a (s.queued e)) = reply a (({ s with
      adm := { s.adm with
        items := pre ++ { i with stage := .fetching n } :: post
        ctrs := { s.adm.ctrs with fetches := bump s.adm.ctrs.fetches } }
      mem := s.mem.send (.fetch i.bucket (s.checkSet (positionsFrom i.bucket 1)) (.item i.serial)) } : State).queued e) := by
  rw [goOn_only (s := reply a (s.queued e)) (by exact hs) (by exact ho) (by exact hst) (by exact hm) hpp hi hn hfree hused]
  have hcheck (ps : List Nat) : (reply a (s.queued e)).checkSet ps = s.checkSet ps := rfl
  rw [hcheck]
  rfl

/-! ### CLEAR_REDEMPTIONS -/

@[simp] theorem bumpBy_zero (c : Ctr) : bumpBy c 0 = c := by
  have := c.isLt
  refine BitVec.eq_of_toNat_eq ?_
  unfold bumpBy
  rw [BitVec.toNat_ofNat]
  omega

theorem bumpBy_bumpBy (c : Ctr) (m n : Nat) : bumpBy (bumpBy c m) n = bumpBy c (m + n) := by
  refine BitVec.eq_of_toNat_eq ?_
  unfold bumpBy
  simp only [BitVec.toNat_ofNat]
  omega

theorem Table.find_mapVals {α : Type} [DecidableEq α] {d : α} {f : α → α} {t : Table α} (hs : t.sorted = true) (k : Nat) :
    (t.mapVals d f).find k = (t.find k).bind (fun v => if f v = d then none else some (f v)) := by
  induction t with
  | nil => rfl
  | cons e t ih =>
    obtain ⟨k', v⟩ := e
    obtain ⟨hst, habove⟩ := (Table.sorted_cons k' v t).1 hs
    have hcons : Table.mapVals d f ((k', v) :: t)
        = if f v = d then Table.mapVals d f t else (k', f v) :: Table.mapVals d f t := by
      by_cases hd : f v = d <;> simp [Table.mapVals, hd]
    rw [hcons]
    by_cases hk : k = k'
    · subst hk
      by_cases hd : f v = d
      · simp [Table.find, hd, ih hst, Table.find_of_above habove]
      · simp [Table.find, hd]
    · by_cases hd : f v = d <;> simp [Table.find, hk, hd, ih hst]

theorem Table.get_mapVals {α : Type} [DecidableEq α] {d : α} {f : α → α} {t : Table α} (hs : t.sorted = true) (hd : f d = d)
    (k : Nat) : (t.mapVals d f).get d k = f (t.get d k) := by
  unfold Table.get
  rw [Table.find_mapVals hs]
  cases t.find k with
  | none => exact hd.symm
  | some v =>
    simp only [Option.bind_some, Option.getD_some]
    split
    · next h => exact h.symm
    · rfl

/-- A station's record once its binding is taken away (R120). -/
def Station.unbound (st : Station) : Station := ({ st with binding := none, standing := .unbound } : Station).rederive

theorem setStation_setStation (s : State) (h : Nat) (x y : Station) : (s.setStation h x).setStation h y = s.setStation h y := by
  unfold State.setStation
  simp only [Table.put_put]

theorem station_setStation_self (s : State) (h : Nat) (x : Station) : (s.setStation h x).station h = some x :=
  Table.find_put_self h x s.stations

theorem modStation_setStation (s : State) (h : Nat) (x : Station) (f : Station → Station) :
    (s.setStation h x).modStation h f = s.setStation h (f x) := by
  rw [modStation_some (station_setStation_self s h x), setStation_setStation]

/-- Where no subscription can be lost, the standing is that of the binding and the zone, and the class is derived anew (R13,
R14). -/
theorem recompute_eq {h : Nat} {st : Station} (hs : s.station h = some st) (hsub : st.sub = none) :
    recompute h s = s.setStation h ({ st with standing := s.standingOf st } : Station).rederive := by
  have hremove (x : Standing) : removeSub h (s.setStation h { st with standing := x }) = s.setStation h { st with standing := x } :=
    removeSub_none (station_setStation_self s h _) hsub
  unfold recompute
  simp only [hs, hremove, ite_self, modStation_setStation]

theorem clearBinding_none {h : Nat} {st : Station} (hs : s.station h = some st) (hsub : st.sub = none) :
    clearBinding h s = (s.setStation h st.unbound).modAdmCtrs (fun k => { k with unbinds := bump k.unbinds }) := by
  unfold clearBinding
  rw [modStation_some hs]
  refine (recompute_eq (s := (s.setStation h { st with binding := none }).modAdmCtrs (fun k => { k with unbinds := bump k.unbinds }))
    (st := { st with binding := none }) (station_setStation_self s h _) hsub).trans ?_
  unfold State.modAdmCtrs State.setStation
  simp only [Table.put_put]
  rfl

/-- Unbinding several stations, one after another. -/
theorem foldl_clearBinding {hs : List Nat} (hnd : hs.Nodup) (hst : ∀ h ∈ hs, ∃ st, s.station h = some st ∧ st.sub = none) :
    ∃ t : Table Station, hs.foldl (fun s h => clearBinding h s) s
        = { s with
            stations := t
            adm := { s.adm with ctrs := { s.adm.ctrs with unbinds := bumpBy s.adm.ctrs.unbinds hs.length } } }
      ∧ ∀ k, t.find k = if k ∈ hs then (s.station k).map Station.unbound else s.station k := by
  induction hs generalizing s with
  | nil => exact ⟨s.stations, by simp, fun k => by simp [State.station]⟩
  | cons h hs ih =>
    obtain ⟨hnot, hnd⟩ := List.nodup_cons.1 hnd
    obtain ⟨st, hs', hsub⟩ := hst h List.mem_cons_self
    have hother (k : Nat) (hk : k ≠ h) : (clearBinding h s).station k = s.station k := by
      rw [clearBinding_none hs' hsub]
      exact Table.find_put_ne hk _ _
    have hself : (clearBinding h s).station h = some st.unbound := by
      rw [clearBinding_none hs' hsub]
      exact Table.find_put_self _ _ _
    obtain ⟨t, ht, hfind⟩ := ih (s := clearBinding h s) hnd (fun k hk => by
      obtain ⟨x, hx, hxs⟩ := hst k (List.mem_cons_of_mem _ hk)
      exact ⟨x, (hother k (fun heq => hnot (heq ▸ hk))).trans hx, hxs⟩)
    refine ⟨t, ?_, fun k => ?_⟩
    · rw [List.foldl_cons, ht, clearBinding_none hs' hsub]
      have hcount (c : Ctr) : bumpBy (bump c) hs.length = bumpBy c (hs.length + 1) := by
        unfold bump
        rw [bumpBy_bumpBy, Nat.add_comm]
      simp only [State.modAdmCtrs, State.setStation, hcount, List.length_cons]
    · rw [hfind]
      by_cases hk : k = h
      · subst hk
        simp [hnot, hself, hs']
      · simp [hk, hother k hk]

theorem nodup_keys {α : Type} {t : Table α} (hs : t.sorted = true) : (t.map Prod.fst).Nodup := by
  induction t with
  | nil => exact List.nodup_nil
  | cons e t ih =>
    obtain ⟨hs, habove⟩ := (Table.sorted_cons e.1 e.2 t).1 hs
    refine List.nodup_cons.2 ⟨fun hmem => ?_, ih hs⟩
    obtain ⟨x, hx, heq⟩ := List.mem_map.1 hmem
    have := habove x hx
    omega

/-- How many entries CLEAR_REDEMPTIONS returns, and how many stations it unbinds. -/
def State.returnable (s : State) : Nat :=
  (s.adm.map.filter (fun e => decide (e.2.state = .admitted ∨ e.2.state = .exited))).length

def State.boundCount (s : State) : Nat := (s.stations.filter (fun e => e.2.binding.isSome)).length

/-- The state after CLEAR_REDEMPTIONS, whose stations are `t` (R116). -/
def State.redemptionsCleared (s : State) (t : Table Station) : State :=
  { s with
    stations := t
    adm := { s.adm with
      map := s.adm.map.mapVals {} MapEntry.cleared, occupancy := []
      ctrs := { s.adm.ctrs with
        clears := bump s.adm.ctrs.clears
        returned := bumpBy s.adm.ctrs.returned s.returnable
        unbinds := bumpBy s.adm.ctrs.unbinds s.boundCount } } }

theorem clearAll_eq (hsub : ∀ e ∈ s.stations, e.2.sub = none) (hs : s.stations.sorted = true) :
    ∃ t : Table Station, clearAll s = (⟨.done, be 4 s.returnable ++ be 2 s.boundCount⟩, s.redemptionsCleared t)
      ∧ ∀ k, t.find k = (s.station k).map (fun st => if st.binding.isSome then st.unbound else st) := by
  have hmem (h : Nat) (hh : h ∈ (s.stations.filter (fun e => e.2.binding.isSome)).map Prod.fst) :
      ∃ st, s.station h = some st ∧ st.binding.isSome = true ∧ st.sub = none := by
    obtain ⟨e, he, rfl⟩ := List.mem_map.1 hh
    obtain ⟨hin, hb⟩ := List.mem_filter.1 he
    exact ⟨e.2, Table.find_of_mem hs hin, hb, hsub e hin⟩
  have hnd : ((s.stations.filter (fun e => e.2.binding.isSome)).map Prod.fst).Nodup :=
    (nodup_keys hs).sublist (List.filter_sublist.map _)
  obtain ⟨t, ht, hfind⟩ := foldl_clearBinding
    (s := s.modAdm (fun a => { a with map := a.map.mapVals {} MapEntry.cleared, occupancy := [] })) hnd
    (fun h hh => by obtain ⟨st, h1, -, h3⟩ := hmem h hh; exact ⟨st, h1, h3⟩)
  refine ⟨t, ?_, fun k => ?_⟩
  · unfold clearAll
    simp only [ht, List.length_map]
    rfl
  · rw [hfind]
    show (if _ then (s.station k).map Station.unbound else s.station k) = _
    split
    · next hin =>
      obtain ⟨st, hst, hb, -⟩ := hmem k hin
      simp [hst, hb]
    · next hout =>
      cases hst : s.station k with
      | none => rfl
      | some st =>
        have hb : st.binding.isSome = false := by
          rw [Bool.eq_false_iff]
          intro hb
          exact hout (List.mem_map.2 ⟨(k, st), List.mem_filter.2 ⟨Table.mem_of_find hst, hb⟩, rfl⟩)
        simp [hb]

theorem runClearRedemptions_accepted (hidle : s.adm.sweep.state = .idle) (hfro : s.adm.frozen = false) :
    runClearRedemptions s = (some (clearAll s).1, (clearAll s).2) := by
  unfold runClearRedemptions
  rw [if_neg (not_not.2 hidle), if_neg (by simp [hfro])]

end Sys2Proof.Machine

open Sys2Proof.Machine

/-- Settles O34: what each directive makes of the sweep, then what a look for what can go on does at its engine; and the
unbinding of the bound stations one by one. -/
theorem sweepAndClearDirectives : Obligations.SweepAndClearDirectives := by
  refine ⟨fun s src tag hs hi ho hm => ⟨fun kind value sel hidle hsel => ?_, fun hsus => ?_⟩,
    fun s src tag hs hrun hst => ⟨fun hi ho => ?_, fun pre post i n hitems hi hpp ho hm hn hfree hused => ?_⟩,
    fun s src tag i hs hin hi ho => ⟨fun kind value sel hidle hsel hb => ?_, fun hsus hlo hhi => ?_⟩,
    fun s src tag hs hrun hst => ?_, fun s src tag hs hidle hfro hsub hmap hsta => ?_⟩
  · exact exec_looked (d := .voidSweep kind value) (k := 20) hs rfl rfl rfl (runVoidSweep_idle hidle hsel) rfl rfl rfl
      (goOn_reply_stride (s := (s.modAdmCtrs (fun k => { k with sweepsStarted := bump k.sweepsStarted })).sweepClaimed
        { state := .running, selector := some sel, startTime := s.venueTime }) rfl hi ho hm)
  · exact exec_looked (d := .sweepResume) (k := 22) hs rfl rfl rfl (runSweepResume_suspended hsus) rfl rfl rfl
      (goOn_reply_stride (s := s.sweepClaimed { s.adm.sweep with state := .running }) rfl hi ho hm)
  · rw [← suspendBody_released (s := s)]
    exact exec_looked (d := .sweepSuspend) (k := 21) hs rfl rfl rfl (runSweepSuspend_claimed hrun hst) rfl rfl rfl
      (goOn_reply_none (s := s.sweepReleased) (sendStride_none (by exact nofun)) hi ho)
  · rw [← suspendBody_released (s := s)]
    exact exec_looked (d := .sweepSuspend) (k := 21) hs rfl rfl rfl (runSweepSuspend_claimed hrun hst) rfl rfl rfl
      (goOn_reply_only (s := s.sweepReleased) hitems ho rfl hm hpp hi hn hfree hused)
  · refine exec_looked (d := .voidSweep kind value) (k := 20) hs rfl rfl rfl (runVoidSweep_idle hidle hsel) rfl rfl rfl
      (goOn_reply_none (s := (s.modAdmCtrs (fun k => { k with sweepsStarted := bump k.sweepsStarted })).sweepClaimed
        { state := .running, selector := some sel, startTime := s.venueTime }) (sendStride_held (b := i.bucket) ?_ ?_ ?_) hi ho)
    · exact holdsBucket_of_item hin (hi i hin)
    · exact Nat.zero_le _
    · exact hb
  · refine exec_looked (d := .sweepResume) (k := 22) hs rfl rfl rfl (runSweepResume_suspended hsus) rfl rfl rfl
      (goOn_reply_none (s := s.sweepClaimed { s.adm.sweep with state := .running }) (sendStride_held (b := i.bucket) ?_ ?_ ?_) hi ho)
    · exact holdsBucket_of_item hin (hi i hin)
    · exact hlo
    · exact hhi
  · exact exec_kept (d := .sweepSuspend) hs rfl rfl (runSweepSuspend_reading hrun hst) rfl rfl
  · obtain ⟨t, ht, hfind⟩ := clearAll_eq (s := s.queued ⟨src, tag, .clearRedemptions⟩) hsub hsta
    refine ⟨s.redemptionsCleared t, ?_, fun p => Table.get_mapVals hmap rfl p, hfind, rfl⟩
    refine exec_concluded (d := .clearRedemptions) (k := 24) hs rfl rfl rfl ?_ rfl rfl
    exact (runClearRedemptions_accepted (s := s.queued ⟨src, tag, .clearRedemptions⟩) hidle hfro).trans (by rw [ht]; rfl)
end

section
/-! Data frames from the uplink (R22): sorting by destination, the hold queue (R26), and the offer of a frame to its radio (R46,
R47). -/

-- One proof at a time: the threads of the default would not fit the memory the check allows.
set_option Elab.async false

open Sys2Proof

namespace Sys2Proof.Machine

variable {s t : State}

/-! ### The hold queue -/

section
variable {h : Nat} {st : Station} {f : Frame}

theorem hold_room (hs : s.station h = some st) (hp : s.holdUsed < 2048) (hl : st.hold.length < 64) :
    hold h f s = s.setStation h { st with hold := st.hold ++ [f] } := by
  unfold hold
  simp only [hs]
  exact if_pos ⟨hp, hl⟩

theorem hold_oldest {oldest : Frame} {rest : List Frame} (hs : s.station h = some st) (hq : st.hold = oldest :: rest)
    (hfull : 2048 ≤ s.holdUsed ∨ 64 ≤ st.hold.length) :
    hold h f s = holdOverflow h st.current oldest (s.setStation h { st with hold := rest ++ [f] }) := by
  unfold hold
  simp only [hs, hq]
  rw [hq] at hfull
  exact if_neg (fun hc => hfull.elim (Nat.not_le.2 hc.1) (Nat.not_le.2 hc.2))

theorem hold_empty (hs : s.station h = some st) (hq : st.hold = []) (hfull : 2048 ≤ s.holdUsed) :
    hold h f s = holdOverflow h st.current f s := by
  unfold hold
  simp only [hs, hq]
  exact if_neg (fun hc => Nat.not_le.2 hc.1 hfull)

theorem holdOverflow_now (hd : s.ev.deferring = false) (radio : Option Nat) : holdOverflow h radio f s
    = takeOccurrence { cls := .holdOverflow, radio := radio, handle := some h, frame := some (f.offered 0) }
      (s.modRoamCtrs (fun k => { k with holdOverflow := bump k.holdOverflow })) :=
  occur_now (s := s.modRoamCtrs _) hd _
end

/-! ### Where an offered frame goes -/

section
variable {r : Nat} {c : Cls} {f : Frame}

theorem bufferFree_iff {n : Nat} : bufferFree c n = true ↔ n < if c = .admission then 4096 else 3840 := decide_eq_true_iff

theorem burstFree_iff {n : Nat} : burstFree c n = true ↔ n < if c = .admission then 1024 else 960 := decide_eq_true_iff

theorem fits_iff {b : Burst} : b.fits f = true
    ↔ b.state = .opened ∧ b.frames.length < 8 ∧ (b.frames.map (fun f => f.payload.length)).sum + f.payload.length ≤ 12000 := by
  unfold Burst.fits
  rw [Bool.and_eq_true, Bool.and_eq_true, decide_eq_true_iff, decide_eq_true_iff, decide_eq_true_iff, and_assoc]
  exact Iff.rfl

/-- A frame joins no list whose last burst it does not fit. -/
theorem mergeTail_none {l : List Burst} (h : ∀ bs b, l = bs ++ [b] → b.fits f = false) : mergeTail f l = none := by
  rcases l.eq_nil_or_concat with rfl | ⟨bs, b, rfl⟩
  · rfl
  · rw [List.concat_eq_append] at h ⊢
    rw [mergeTail_append, h bs b rfl]
    rfl

theorem place_merge {bs : List Burst} {b : Burst} (hbuf : bufferFree c s.egress.buffers = true) (hl : s.list r c = bs ++ [b])
    (hfit : b.fits f = true) :
    place s r c f = some (bs ++ [{ b with frames := b.frames ++ [f] }.closeIfFull], false) := by
  unfold place
  simp only [hbuf, hl, mergeTail_append, hfit, if_true]

theorem place_open (hbuf : bufferFree c s.egress.buffers = true) (hm : mergeTail f (s.list r c) = none)
    (hb : burstFree c s.egress.bursts = true) (hr : c = .replay → (s.list r c).length < 4) : place s r c f
      = some (openTail c (s.venueTime + usec s.gov.activeCtx.sealAge.toNat) f (s.list r c), true) := by
  unfold place
  simp only [hbuf, if_true, hm]
  exact if_pos ⟨hb, fun hc => Nat.not_le.2 (hr hc.1) hc.2⟩

theorem place_noBuffer (hbuf : bufferFree c s.egress.buffers = false) : place s r c f = none := by
  unfold place
  simp only [hbuf, Bool.false_eq_true, if_false]

theorem place_noBurst (hm : mergeTail f (s.list r c) = none) (hb : burstFree c s.egress.bursts = false) :
    place s r c f = none := by
  unfold place
  simp only [hm, hb, Bool.false_eq_true, false_and, if_false, ite_self]
end

/-! ### What an offer does -/

section
variable {r : Nat} {c : Cls} {f : Frame}

theorem offer_placed {sort : OfferSort} {l : List Burst} {opened : Bool} (hr : s.inService r = true)
    (hp : place s r c f = some (l, opened)) : (offer sort r c f s).2 = acceptFrame r c f l opened s := by
  unfold offer
  simp only [hr, hp, Bool.not_true, Bool.false_eq_true, if_false]

theorem offer_dropped (hd : s.ev.deferring = false) (hr : s.inService r = true) (hp : place s r c f = none) :
    (offer .droppable r c f s).2 = takeOccurrence (anError .egressOverflow (some r) (f.offered r))
      (s.modRadio r (fun x => { x with drops := { x.drops with overflow := bump x.drops.overflow } })) := by
  unfold offer
  simp only [hr, hp, Bool.not_true, Bool.false_eq_true, if_false]
  exact occur_now (s := s.modRadio r _) hd _

/-- What stands once the frame of a station has joined its class list, but for the arbiters asked (R47). -/
def State.joined (s : State) (r : Nat) (c : Cls) (l : List Burst) (opened : Bool) (h : Nat) (st : Station) : State :=
  let s1 := (s.setList r c l).setStation h { st with egress := st.egress + 1 }
  { s1 with egress := { s1.egress with
      buffers := s.egress.buffers + 1, bursts := s.egress.bursts + (if opened then 1 else 0), accepted := bump s.egress.accepted } }

theorem acceptFrame_eq {l : List Burst} {opened : Bool} {h : Nat} {st : Station} (hf : f.handle = some h)
    (hs : s.station h = some st) :
    acceptFrame r c f l opened s = askIfEligible r c (s.list r c) l false (s.joined r c l opened h st) := by
  unfold acceptFrame
  rw [hf]
  simp only [raiseEgress, State.modStation]
  have hs' : State.station { s.setList r c l with egress := { (s.setList r c l).egress with
      buffers := (s.setList r c l).egress.buffers + 1
      bursts := (s.setList r c l).egress.bursts + (if opened then 1 else 0)
      accepted := bump (s.setList r c l).egress.accepted } } h = some st := hs
  rw [hs']
  rfl

theorem closeIfFull_single (hf : f.payload.length ≤ 1500) (b : Option Time) :
    ({ state := .opened, frames := [f], sealAt := b } : Burst).closeIfFull = { state := .opened, frames := [f], sealAt := b } := by
  refine if_neg (fun h => ?_)
  rcases h with h | h
  · exact absurd (show (1 : Nat) = 8 from h) (by decide)
  · have : f.payload.length + 0 = 12000 := h
    omega

theorem openTail_single (hf : f.payload.length ≤ 1500) (b : Time) (l : List Burst) : openTail c b f l
    = l.map (fun b => if b.state = .opened then { b with state := .closed, sealAt := none } else b)
      ++ [{ state := .opened, frames := [f], sealAt := if c = .admission then none else some b }] := by
  unfold openTail
  rw [closeIfFull_single hf]
  rfl

theorem closeIfFull_joined {b : Burst} (hb : b.state = .opened) (f : Frame)
    [Decidable (b.frames.length = 7 ∨ (b.frames.map (fun f => f.payload.length)).sum + f.payload.length = 12000)] :
    ({ b with frames := b.frames ++ [f] } : Burst).closeIfFull = { b with
      frames := b.frames ++ [f]
      state := if b.frames.length = 7 ∨ (b.frames.map (fun f => f.payload.length)).sum + f.payload.length = 12000 then .closed
        else .opened
      sealAt := if b.frames.length = 7 ∨ (b.frames.map (fun f => f.payload.length)).sum + f.payload.length = 12000 then none
        else b.sealAt } := by
  have hlen : (b.frames ++ [f]).length = Config.burstFrames ↔ b.frames.length = 7 := by
    rw [List.length_append]
    exact ⟨Nat.succ.inj, congrArg _⟩
  have htotal : ({ b with frames := b.frames ++ [f] } : Burst).total
      = (b.frames.map (fun f => f.payload.length)).sum + f.payload.length := by
    simp [Burst.total]
  unfold Burst.closeIfFull
  rw [htotal]
  simp only [hlen]
  split
  · rfl
  · rw [← hb]

theorem dropped_calm : Calm s (s.modRadio r (fun x => { x with drops := { x.drops with overflow := bump x.drops.overflow } })) := by
  refine modRadio_calm (fun h => ?_) rfl
  exact bump_ne_zero _ (congrArg (fun x : Radio => x.drops.overflow) h)
end

/-! ### A frame for a station -/

section
variable {dst src : Addr} {etype : Half} {payload : List Byte} {h r : Nat} {st : Station}

theorem takeUplinkFrame_downstream (hi : dst ≠ s.ingestAddr) (hm : dst ≠ s.mgmt.address) :
    takeUplinkFrame dst src etype payload s = takeDownstream dst src etype payload s := by
  unfold takeUplinkFrame
  rw [if_neg hi, if_neg hm]

theorem not_broadcast (hg : isGroup dst = false) : dst ≠ BitVec.allOnes 48 := by
  rintro rfl
  exact absurd hg (by decide)

theorem takeDownstream_unknown (hn : payload.length ≤ 1500) (hg : isGroup dst = false) (hl : s.lookup dst = none) :
    takeDownstream dst src etype payload s = s.modUplinkCtrs (fun k => { k with unknown := bump k.unknown }) := by
  simp only [takeDownstream, Nat.not_lt.2 hn, not_broadcast hg, hg, hl, if_false, Bool.false_eq_true]

/-- A frame from the uplink for the station at `h`. -/
def frameFor (h : Nat) (dst src : Addr) (etype : Half) (payload : List Byte) : Frame :=
  { kind := .data, dst := dst, src := src, etype := etype, payload := payload, handle := some h }

theorem takeDownstream_held (hn : payload.length ≤ 1500) (hg : isGroup dst = false) (hl : s.lookup dst = some h)
    (hs : s.station h = some st) (hst : st.state ≠ .attached ∨ st.hold ≠ []) :
    takeDownstream dst src etype payload s = hold h (frameFor h dst src etype payload) s := by
  simp only [takeDownstream, Nat.not_lt.2 hn, not_broadcast hg, hg, hl, hs, if_false, Bool.false_eq_true]
  split
  · next ha _ hh => exact absurd hst (by simp [ha, hh])
  · rfl

theorem takeDownstream_offered (hn : payload.length ≤ 1500) (hg : isGroup dst = false) (hl : s.lookup dst = some h)
    (hs : s.station h = some st) (ha : st.state = .attached) (hc : st.current = some r) (hh : st.hold = []) :
    takeDownstream dst src etype payload s = (offer .droppable r st.cls (frameFor h dst src etype payload) s).2 := by
  simp only [takeDownstream, Nat.not_lt.2 hn, not_broadcast hg, hg, hl, hs, ha, hc, hh, if_false, Bool.false_eq_true]
  rfl
end

/-- A frame whose list's head is not made eligible asks no arbiter. -/
theorem joined_calm {r : Nat} {c : Cls} {l : List Burst} {opened : Bool} {h : Nat} {st : Station} :
    Calm s (s.joined r c l opened h st) := calm_of_fields rfl rfl rfl rfl

end Sys2Proof.Machine

open Sys2Proof.Machine

/-- Settles O38: the frame is sorted by its destination, and where it is offered, `place` tells where it goes. -/
theorem downstreamFramesAreSorted : Obligations.DownstreamFramesAreSorted := by
  intro s dst src etype payload hb hi hm heard run
  have hd : s.ev.deferring = false := quiet_deferring hb.1
  have hrun {u t : State} (hu : takeDownstream dst src etype payload heard = u) (hc : Calm heard u) (ht : u.ended = t) :
      run = .next t := by
    have htake : takeUplinkFrame dst src etype payload (fromUplink s) = u :=
      (takeUplinkFrame_downstream (s := heard) hi hm).trans hu
    have hcalm : Calm s u := (calm_of_fields rfl rfl rfl rfl : Calm s heard).trans hc
    unfold run
    rw [exec_downstreamDataFrame, event_calm hb (by rw [htake]; exact hcalm), htake, ht]
  have hctrs (f : UplinkCtrs → UplinkCtrs) : Calm heard (heard.modUplinkCtrs f) := calm_of_fields rfl rfl rfl rfl
  refine ⟨fun hn => hrun (if_pos hn) (hctrs _) rfl, fun hn hall => hrun ?_ (hctrs _) rfl, fun hn hall hg => hrun ?_ (hctrs _) rfl,
    fun hn hg hl => hrun (takeDownstream_unknown hn hg hl) (hctrs _) rfl, fun h st hn hg hl hs => ?_⟩
  · exact (if_neg (Nat.not_lt.2 hn)).trans (if_pos hall)
  · exact (if_neg (Nat.not_lt.2 hn)).trans ((if_neg hall).trans (if_pos hg))
  intro f overflow
  have hs' : heard.station h = some st := hs
  have hheld (hst : st.state ≠ .attached ∨ st.hold ≠ []) : takeDownstream dst src etype payload heard = hold h f heard :=
    takeDownstream_held (s := heard) hn hg hl hs' hst
  have hover (radio : Option Nat) (x : Frame) (u : State) (hu : Calm heard u) : Calm heard (takeOccurrence
      { cls := .holdOverflow, radio := radio, handle := some h, frame := some (x.offered 0) }
      (u.modRoamCtrs (fun k => { k with holdOverflow := bump k.holdOverflow }))) :=
    hu.trans ((calm_of_fields rfl rfl rfl rfl : Calm u (u.modRoamCtrs _)).trans (takeOccurrence_calm _ _))
  have hplaced (r : Nat) (ha : st.state = .attached) (hc : st.current = some r) (hq : st.hold = []) (hin : s.inService r = true)
      {l : List Burst} {opened : Bool} (hp : place heard r st.cls f = some (l, opened))
      (hcalm : Calm heard (acceptFrame r st.cls f l opened heard)) {t : State}
      (ht : (heard.joined r st.cls l opened h st).ended = t) : run = .next t := by
    refine hrun ((takeDownstream_offered (s := heard) hn hg hl hs' ha hc hq).trans (offer_placed hin hp)) hcalm ?_
    rw [acceptFrame_eq rfl hs', askIfEligible_ended, ht]
  have hbusyCalm (r : Nat) (hbusy : s.portBusy r = true) (l : List Burst) (opened : Bool) :
      Calm heard (acceptFrame r st.cls f l opened heard) := by
    rw [acceptFrame_eq rfl hs']
    unfold askIfEligible
    split
    · exact joined_calm.trans (askRadio_calm hbusy)
    · exact joined_calm
  have hdrop (r : Nat) (ha : st.state = .attached) (hc : st.current = some r) (hq : st.hold = []) (hin : s.inService r = true)
      (hp : place heard r st.cls f = none) : run = .next (takeOccurrence (anError .egressOverflow (some r) (f.offered r))
        (heard.modRadio r (fun x => { x with drops := { x.drops with overflow := bump x.drops.overflow } }))).ended :=
    hrun ((takeDownstream_offered (s := heard) hn hg hl hs' ha hc hq).trans (offer_dropped (by exact hd) hin hp))
      (dropped_calm.trans (takeOccurrence_calm _ _)) rfl
  refine ⟨fun hst hp hl => ?_, fun oldest rest hq hfull => ?_, fun hst hq hfull => ?_, fun r ha hc hq hin hcls => ⟨?_, ?_⟩, ?_⟩
  · exact hrun ((hheld hst).trans (hold_room hs' hp hl)) (setStation_calm _ _ _) rfl
  · exact hrun ((hheld (.inr (by rw [hq]; simp))).trans ((hold_oldest hs' hq hfull).trans (holdOverflow_now (by exact hd) _)))
      (hover _ _ _ (setStation_calm _ _ _)) rfl
  · exact hrun ((hheld (.inl hst)).trans ((hold_empty hs' hq hfull).trans (holdOverflow_now (by exact hd) _)))
      (hover _ _ _ (Calm.refl _)) rfl
  · intro hbuf hbur hlist
    have hplace : place heard r st.cls f = some (openTail st.cls (s.venueTime + usec s.gov.activeCtx.sealAge.toNat) f [], true) := by
      refine (place_open (s := heard) (bufferFree_iff.2 ?_) ?_ (burstFree_iff.2 ?_) ?_).trans ?_
      · rwa [if_neg hcls]
      · rw [show heard.list r st.cls = [] from hlist]; rfl
      · rwa [if_neg hcls]
      · rw [show heard.list r st.cls = [] from hlist]; exact fun _ => Nat.zero_lt_succ _
      · rw [show heard.list r st.cls = [] from hlist]; rfl
    have hcalm : Calm heard (acceptFrame r st.cls f (openTail st.cls (s.venueTime + usec s.gov.activeCtx.sealAge.toNat) f []) true
        heard) := by
      rw [acceptFrame_eq rfl hs', openTail_single hn]
      have hhead (b : Option Time) : headEligible st.cls [{ state := .opened, frames := [f], sealAt := b }] = false :=
        decide_eq_false hcls
      unfold askIfEligible
      rw [List.map_nil, List.nil_append, hhead]
      exact joined_calm
    refine hplaced r ha hc hq hin hplace hcalm ?_
    rw [openTail_single hn, List.map_nil, List.nil_append, if_neg hcls]
    rfl
  · intro hbuf
    refine hdrop r ha hc hq hin (place_noBuffer ?_)
    rw [Bool.eq_false_iff, ne_eq, bufferFree_iff, if_neg hcls]
    exact Nat.not_lt.2 hbuf
  · intro r ha hc hq hin hcls size takes buffer record placed
    have hfits (b : Burst) : b.fits f = true ↔ takes b := fits_iff
    have hbuffer : bufferFree st.cls s.egress.buffers = true ↔ buffer := bufferFree_iff
    have hrecord : burstFree st.cls s.egress.bursts = true ↔ record := burstFree_iff
    have hnofit (h : ∀ bs b, s.list r st.cls = bs ++ [b] → ¬ takes b) : mergeTail f (s.list r st.cls) = none :=
      mergeTail_none (fun bs b hl => Bool.eq_false_iff.2 (fun hf => h bs b hl ((hfits b).1 hf)))
    refine ⟨fun hbusy hbuf => ⟨fun bs b hlist htakes => ?_, fun hrec hno => ?_⟩, fun hno => hdrop r ha hc hq hin ?_⟩
    · have hplace := place_merge (s := heard) (hbuffer.2 hbuf) hlist ((hfits b).2 htakes)
      refine hplaced r ha hc hq hin hplace (hbusyCalm r hbusy _ _) ?_
      rw [closeIfFull_joined htakes.1]
      rfl
    · have hplace := place_open (s := heard) (hbuffer.2 hbuf) (hnofit hno) (hrecord.2 hrec) (fun h => absurd h hcls)
      refine hplaced r ha hc hq hin hplace (hbusyCalm r hbusy _ _) ?_
      rw [openTail_single hn]
      rfl
    · rcases hno with hnb | ⟨hnr, hno⟩
      · exact place_noBuffer (Bool.eq_false_iff.2 (fun h => hnb (hbuffer.1 h)))
      · exact place_noBurst (hnofit hno) (Bool.eq_false_iff.2 (fun h => hnr (hrecord.1 h)))
end

section
/-! What the roam engine's steps do where nothing is held and no subscription can be lost: offers of service messages, handoffs that
begin, are cancelled, move or end (R30 to R40). -/

-- One proof at a time: the threads of the default would not fit the memory the check allows.
set_option Elab.async false

open Sys2Proof

namespace Sys2Proof.Machine

variable {s t u : State}

/-! ### Offers of frames that belong to no station -/

theorem askRadio_only (s : State) (r : Nat) : ∃ ev, s.askRadio r = { s with ev := ev } := by
  unfold State.askRadio State.askPort
  split
  · split
    · exact ⟨_, rfl⟩
    · exact ⟨_, rfl⟩
  · exact ⟨_, rfl⟩

theorem askIfEligible_only (r : Nat) (c : Cls) (was new : List Burst) (b : Bool) (s : State) :
    ∃ ev, askIfEligible r c was new b s = { s with ev := ev } := by
  unfold askIfEligible
  split
  · exact askRadio_only s r
  · exact ⟨_, rfl⟩

theorem askIfEligible_egress (r : Nat) (c : Cls) (was new : List Burst) (b : Bool) (s : State) :
    (askIfEligible r c was new b s).egress = s.egress := by
  obtain ⟨ev, h⟩ := askIfEligible_only r c was new b s
  rw [h]

theorem occur_only (o : Occurrence) (s : State) : ∃ up e ev, occur o s = { s with uplink := up, err := e, ev := ev } := by
  unfold occur
  split
  · exact ⟨_, _, _, rfl⟩
  · obtain ⟨tx, e, h⟩ := takeOccurrence_only o s
    exact ⟨_, _, _, h⟩

section
variable {sort : OfferSort} {r : Nat} {c : Cls} {f : Frame}

/-- An offer of a frame without a handle changes no station and no roam state. -/
theorem offer_unowned (hf : f.handle = none) (sort : OfferSort) (r : Nat) (c : Cls) (s : State) : ∃ up e rs eg ev,
    (offer sort r c f s).2 = { s with uplink := up, err := e, radios := rs, egress := eg, ev := ev } := by
  unfold offer
  split
  · exact ⟨_, _, _, _, _, rfl⟩
  · split
    · unfold acceptFrame
      rw [hf]
      obtain ⟨ev, h⟩ := askIfEligible_only r c (s.list r c) _ false _
      exact ⟨_, _, _, _, _, h⟩
    · cases sort with
      | declinable => exact ⟨_, _, _, _, _, rfl⟩
      | droppable =>
        obtain ⟨up, e, ev, h⟩ := occur_only { cls := .egressOverflow, radio := some r, frame := some (f.offered r) }
          (s.modRadio r (fun x => { x with drops := { x.drops with overflow := bump x.drops.overflow } }))
        exact ⟨_, _, _, _, _, h⟩

/-- An offer leaves the class lists, or places the frame in one (R47). -/
theorem offer_lists (hf : f.handle = none) (sort : OfferSort) (r : Nat) (c : Cls) (s : State) :
    (offer sort r c f s).2.egress.lists = s.egress.lists
      ∨ ∃ l opened, place s r c f = some (l, opened) ∧ (offer sort r c f s).2.egress.lists = (s.setList r c l).egress.lists := by
  unfold offer
  split
  · exact .inl rfl
  · split
    · next l opened hp =>
      refine .inr ⟨l, opened, hp, ?_⟩
      unfold acceptFrame
      simp only [hf, raiseEgress, askIfEligible_egress]
    · cases sort with
      | declinable => exact .inl rfl
      | droppable =>
        obtain ⟨up, e, ev, h⟩ := occur_only { cls := .egressOverflow, radio := some r, frame := some (f.offered r) }
          (s.modRadio r (fun x => { x with drops := { x.drops with overflow := bump x.drops.overflow } }))
        refine .inl ?_
        simp only [h]
        rfl
end

/-! ### The class lists, where no frame of a station lies in them -/

theorem RadioLists.of_with (l : RadioLists) (c c' : Cls) (b : List Burst) :
    (l.with c b).of c' = if c' = c then b else l.of c' := by
  cases c <;> cases c' <;> rfl

theorem list_setList {r r' : Nat} {c c' : Cls} {l : List Burst} (hl : l ≠ []) :
    (s.setList r c l).list r' c' = if r' = r ∧ c' = c then l else s.list r' c' := by
  have hne : (s.lists r).with c l ≠ {} := fun h => hl (by
    have := RadioLists.of_with (s.lists r) c c l
    rw [h, if_pos rfl] at this
    exact this.symm.trans (by cases c <;> rfl))
  unfold State.list State.setList State.setLists State.lists
  by_cases hr : r' = r
  · subst hr
    have hget : (Table.set {} s.egress.lists r' ((s.lists r').with c l)).get {} r' = (s.lists r').with c l :=
      Table.get_set_of_ne hne
    unfold State.lists at hget
    simp only [hget, RadioLists.of_with, true_and]
  · simp [Table.get_set_ne hr, hr]

/-- No frame of the station at `h` lies in an OPEN or CLOSED burst of the list. -/
def unqueued (h : Nat) (l : List Burst) : Bool :=
  l.all (fun b => b.isTransmitting || b.frames.all (fun f => f.handle ≠ some h))

theorem noneQueued_iff {h r : Nat} : s.noneQueued h r = true ↔ ∀ c, unqueued h (s.list r c) = true := by
  unfold State.noneQueued
  rw [List.all_eq_true]
  exact ⟨fun hn c => hn c (by cases c <;> decide), fun hn c _ => hn c⟩

theorem unqueued_append {h : Nat} {l m : List Burst} : unqueued h (l ++ m) = (unqueued h l && unqueued h m) := List.all_append

theorem unqueued_opened {h : Nat} {b : Burst} (hb : b.state = .opened) : unqueued h [b] = b.frames.all (fun f => f.handle ≠ some h) := by
  simp [unqueued, Burst.isTransmitting, hb]

theorem unqueued_of_frames {h : Nat} {b : Burst} (hb : b.frames.all (fun f => f.handle ≠ some h) = true) : unqueued h [b] = true := by
  unfold unqueued
  rw [List.all_cons, hb, Bool.or_true]
  rfl

theorem closeIfFull_frames (b : Burst) : b.closeIfFull.frames = b.frames := by
  unfold Burst.closeIfFull; split <;> rfl

theorem unqueued_mergeTail {h : Nat} {f : Frame} {l l' : List Burst} (hf : f.handle ≠ some h) (hl : unqueued h l = true)
    (hm : mergeTail f l = some l') : unqueued h l' = true := by
  rcases l.eq_nil_or_concat with rfl | ⟨bs, b, rfl⟩
  · cases hm
  · rw [List.concat_eq_append] at hl hm
    rw [mergeTail_append] at hm
    split at hm
    · next hfit =>
      obtain ⟨hopen, -, -⟩ := fits_iff.1 hfit
      cases hm
      rw [unqueued_append, Bool.and_eq_true, unqueued_opened hopen] at hl
      rw [unqueued_append, Bool.and_eq_true]
      refine ⟨hl.1, unqueued_of_frames ?_⟩
      rw [closeIfFull_frames]
      simp only [List.all_append, Bool.and_eq_true, hl.2, true_and]
      simpa using hf
    · cases hm

theorem unqueued_openTail {h : Nat} {f : Frame} {c : Cls} {d : Time} {l : List Burst} (hf : f.handle ≠ some h)
    (hl : unqueued h l = true) : unqueued h (openTail c d f l) = true := by
  unfold openTail
  rw [unqueued_append, Bool.and_eq_true]
  refine ⟨?_, unqueued_of_frames (by rw [closeIfFull_frames]; simpa using hf)⟩
  unfold unqueued at hl ⊢
  rw [List.all_map]
  refine List.all_eq_true.2 (fun b hb => ?_)
  have := List.all_eq_true.1 hl b hb
  simp only [Function.comp_apply, Burst.succeeded]
  split
  · next hopen => simp only [Burst.isTransmitting, hopen, Bool.false_or] at this ⊢; exact this
  · exact this

theorem place_unqueued {h r : Nat} {c : Cls} {f : Frame} {l : List Burst} {opened : Bool} (hf : f.handle ≠ some h)
    (hl : unqueued h (s.list r c) = true) (hp : place s r c f = some (l, opened)) : unqueued h l = true := by
  unfold place at hp
  simp only at hp
  split at hp
  · split at hp
    · next hm => cases hp; exact unqueued_mergeTail hf hl hm
    · split at hp
      · cases hp; exact unqueued_openTail hf hl
      · cases hp
  · cases hp

theorem place_ne_nil {r : Nat} {c : Cls} {f : Frame} {l : List Burst} {opened : Bool} (hp : place s r c f = some (l, opened)) :
    l ≠ [] := by
  unfold place at hp
  simp only at hp
  split at hp
  · split at hp
    · next hm =>
      cases hp
      rintro rfl
      rcases (s.list r c).eq_nil_or_concat with hn | ⟨bs, b, hc⟩
      · rw [hn] at hm; cases hm
      · rw [hc, List.concat_eq_append, mergeTail_append] at hm
        split at hm <;> simp at hm
    · split at hp
      · cases hp; simp [openTail]
      · cases hp
  · cases hp

/-- A frame without a handle queues none of a station's. -/
theorem noneQueued_offer {h x r : Nat} {c : Cls} {f : Frame} (hf : f.handle = none) (hn : s.noneQueued h x = true)
    (sort : OfferSort) : (offer sort r c f s).2.noneQueued h x = true := by
  rw [noneQueued_iff] at hn ⊢
  intro c'
  rcases offer_lists hf sort r c s with hl | ⟨l, opened, hp, hl⟩
  · unfold State.list State.lists
    rw [hl]
    exact hn c'
  · have hlist : (offer sort r c f s).2.list x c' = (s.setList r c l).list x c' := by
      unfold State.list State.lists
      rw [hl]
    rw [hlist, list_setList (place_ne_nil hp)]
    split
    · next he =>
      obtain ⟨rfl, rfl⟩ := he
      exact place_unqueued (by rw [hf]; simp) (hn c') hp
    · exact hn c'

/-! ### DETACH and KEEP -/

/-- What a DETACH or KEEP to radio `q` leaves: the offer, and where it is not accepted the lost message counted (R30). -/
def State.told (s : State) (q : Nat) (a : Addr) (code : Byte) : State :=
  if (offer .droppable q .admission (serviceFrame a code []) s).1 = .accepted then
    (offer .droppable q .admission (serviceFrame a code []) s).2
  else (offer .droppable q .admission (serviceFrame a code []) s).2.modRoamCtrs
    (fun k => { k with lostMessages := bump k.lostMessages })

theorem sendRoam_eq (code : Byte) (a : Addr) (q : Nat) (s : State) : sendRoam code a q s
    = (decide ((offer .droppable q .admission (serviceFrame a code []) s).1 = .accepted), s.told q a code) := by
  unfold sendRoam State.told offerService
  rcases offer .droppable q .admission (serviceFrame a code []) s with ⟨o, v⟩
  cases o <;> rfl

theorem told_only (s : State) (q : Nat) (a : Addr) (code : Byte) : ∃ up e rs eg ev m, s.told q a code
    = { s with uplink := up, err := e, radios := rs, egress := eg, ev := ev, roam := { s.roam with ctrs := m } } := by
  obtain ⟨up, e, rs, eg, ev, h⟩ := offer_unowned (f := serviceFrame a code []) rfl .droppable q .admission s
  unfold State.told
  split
  · exact ⟨_, _, _, _, _, _, h⟩
  · rw [h]
    exact ⟨_, _, _, _, _, _, rfl⟩

theorem told_calm {q : Nat} (hd : s.ev.deferring = false) (hb : s.portBusy q = true) (a : Addr) (code : Byte) :
    Calm s (s.told q a code) := by
  unfold State.told
  split
  · exact offer_calm hd hb
  · exact (offer_calm hd hb).trans (calm_of_fields rfl rfl rfl rfl)

theorem told_station (s : State) (q : Nat) (a : Addr) (code : Byte) (h : Nat) : (s.told q a code).station h = s.station h := by
  obtain ⟨up, e, rs, eg, ev, m, ht⟩ := told_only s q a code
  rw [ht]
  rfl

theorem told_noneQueued {h x : Nat} (hn : s.noneQueued h x = true) (q : Nat) (a : Addr) (code : Byte) :
    (s.told q a code).noneQueued h x = true := by
  unfold State.told
  split
  · exact noneQueued_offer rfl hn _
  · exact noneQueued_offer (f := serviceFrame a code []) rfl hn _

/-! ### Handoffs that begin, are declined, cancelled, moved or ended -/

section
variable {h x y r : Nat} {st : Station} {ctx : RoamCtx}

/-- A handoff of a station from `x` to `y` has begun, in what DETACH leaves (R31). -/
def State.handoffBegun (u s : State) (h x y : Nat) (sent : Bool) : State :=
  { u with roam := { u.roam with
      ctxs := u.roam.ctxs.put h ⟨x, y, s.venueTime, s.venueTime + usec (s.roam.settings.detachMs * 1000), sent⟩
      marks := u.roam.marks.del h, drain := u.roam.drain.filter (fun k => decide (k ≠ h))
      ctrs := { u.roam.ctrs with started := bump u.roam.ctrs.started } } }

theorem beginHandoff_eq (hs : s.station h = some st) (hsub : st.sub = none) (hn : s.noneQueued h x = true)
    {on : State} (hon : on = s.setStation h { st with state := .handoff, target := some y }) :
    beginHandoff h x y s = (on.told x st.addr codeDetach).handoffBegun s h x y
      (decide ((offer .droppable x .admission (serviceFrame st.addr codeDetach []) on).1 = .accepted)) := by
  have hset : (on.told x st.addr codeDetach).roam.settings = s.roam.settings := by
    obtain ⟨_, _, _, _, _, _, ht⟩ := told_only on x st.addr codeDetach
    rw [ht, hon]
    rfl
  have hst : (on.told x st.addr codeDetach).station h = some { st with state := .handoff, target := some y } := by
    rw [told_station, hon, station_setStation_self]
  have hnone : (on.told x st.addr codeDetach).noneQueued h x = true :=
    told_noneQueued (by rw [hon]; exact hn) x st.addr codeDetach
  unfold beginHandoff
  simp only [hs, sendRoam_eq, ← hon]
  generalize decide ((offer .droppable x .admission (serviceFrame st.addr codeDetach []) on).1 = .accepted) = sent
  generalize on.told x st.addr codeDetach = u at hset hst hnone
  rw [recallFrames_none (by exact hnone), pauseSub_none (by exact hst) (by exact hsub)]
  unfold State.handoffBegun
  rw [← hset]
  rfl

theorem declineRoam_eq (hs : s.station h = some st) : declineRoam h y s
    = { s.told y st.addr codeDetach with roam := { (s.told y st.addr codeDetach).roam with
        marks := (s.told y st.addr codeDetach).roam.marks.put h y
        ctrs := { (s.told y st.addr codeDetach).roam.ctrs with
          declined := bump (s.told y st.addr codeDetach).roam.ctrs.declined } } } := by
  unfold declineRoam
  simp only [hs, sendRoam_eq]
  rfl

/-- Deriving the class anew changes no field but the class and the pending class. -/
theorem rederive_only (st : Station) : ∃ c p, st.rederive = { st with cls := c, pendingCls := p } := by
  unfold Station.rederive
  split
  · exact ⟨_, _, rfl⟩
  · split
    · exact ⟨_, _, rfl⟩
    · exact ⟨_, _, rfl⟩

/-- The standing depends on the binding and the current radio's configuration only (R13). -/
theorem standingOf_congr {st' : Station} (hc : ∀ q, st.current = some q → (t.radio q).cfg = (s.radio q).cfg)
    (hb : st'.binding = st.binding) (hr : st'.current = st.current) : t.standingOf st' = s.standingOf st := by
  have hcfg : st'.current.bind (fun q => (t.radio q).cfg) = st.current.bind (fun q => (s.radio q).cfg) := by
    rw [hr]
    cases hcur : st.current with
    | none => rfl
    | some q => exact hc q hcur
  unfold State.standingOf
  rw [hb, hcfg]

/-- A radio that gains a station is listed. -/
theorem moreStations_calm (s : State) (r : Nat) : Calm s (moreStations r s) :=
  modRadio_calm (fun h => Nat.succ_ne_zero _ (congrArg Radio.stations h)) rfl

theorem attach_eq (hs : s.station h = some st) (hh : st.hold = []) (hsub : st.sub = none) : attach h r s
      = { ((s.setStation h ({ st with
            state := .attached, current := some r, linger := none
            standing := s.standingOf { st with current := some r } } : Station).rederive).modRadio r
            (fun x => { x with stations := x.stations + 1 })) with
          roam := { s.roam with marks := s.roam.marks.del h } } := by
  have hstanding : (moreStations r (clearMark h (s.setStation h { st with
      state := .attached, current := some r, linger := none }))).standingOf { st with
        state := .attached, current := some r, linger := none } = s.standingOf { st with current := some r } :=
    standingOf_congr (fun q _ => (moreStations_calm _ r).cfgs q) rfl rfl
  unfold attach
  rw [modStation_some hs]
  simp only
  rw [recompute_eq (by exact station_setStation_self s h _) (by exact hsub), hstanding]
  obtain ⟨cl, p, hder⟩ := rederive_only { st with
      state := .attached, current := some r, linger := none, standing := s.standingOf { st with current := some r } }
  rw [hder]
  rw [drain_none (by exact station_setStation_self _ h _) (by exact hh),
    resumeSub_none (by exact station_setStation_self _ h _) (by exact hsub)]
  unfold State.setStation
  simp only [moreStations, clearMark, State.modRadio, State.setRadio, State.modRoam, Table.put_put]
  rfl

/-! ### Ping-pong (R40) -/

theorem pingPongAtCompletion_other (hs : s.station h = some st) (hback : ¬ ∃ t, st.previous = some y ∧ st.lastRoam = some t
      ∧ elapsed s.venueTime t ≤ s.roam.settings.windowS * 1000000) :
    pingPongAtCompletion h y s = s.setStation h { st with pingPong := 0 } := by
  unfold pingPongAtCompletion
  simp only [hs]
  split
  · next p t hp ht =>
    refine if_neg (fun hc => hback ⟨t, by rw [hp, hc.1], ht, ?_⟩)
    exact of_decide_eq_true hc.2
  · rfl

theorem pingPongAtCompletion_back {t : Time} (hs : s.station h = some st) (hp : st.previous = some y) (ht : st.lastRoam = some t)
    (hw : elapsed s.venueTime t ≤ s.roam.settings.windowS * 1000000) : pingPongAtCompletion h y s = countPingPong h s := by
  unfold pingPongAtCompletion
  simp only [hs, hp, ht]
  exact if_pos ⟨trivial, decide_eq_true hw⟩

theorem countPingPong_below (hs : s.station h = some st) (ht : st.pingPong + 1 < s.roam.settings.threshold) :
    countPingPong h s = s.setStation h { st with pingPong := st.pingPong + 1 } := by
  unfold countPingPong
  simp only [hs]
  exact if_neg (Nat.not_le.2 ht)

theorem countPingPong_damps (hs : s.station h = some st) (ht : s.roam.settings.threshold ≤ st.pingPong + 1) :
    countPingPong h s = (s.setStation h { st with
        pingPong := 0, damped := some (s.venueTime + usec (s.roam.settings.dampingS * 1000000)) }).modRoamCtrs
      (fun k => { k with damped := bump k.damped }) := by
  unfold countPingPong
  simp only [hs]
  exact if_pos ht

/-- The ping-pong rule at a cancellation, and the end of the handoff on its old radio (R37, R40). -/
theorem pingPongAtCancel_modStation {start : Time} (hs : s.station h = some st) {pp dm : Bool}
    (hpp : pp = decide (elapsed s.venueTime start ≤ s.roam.settings.windowS * 1000000))
    (hdm : dm = (pp && decide (s.roam.settings.threshold ≤ st.pingPong + 1))) (f : Station → Station) :
    (pingPongAtCancel h start s).modStation h f = { s with
      stations := s.stations.put h (f { st with
        pingPong := if dm then 0 else if pp then st.pingPong + 1 else st.pingPong
        damped := if dm then some (s.venueTime + usec (s.roam.settings.dampingS * 1000000)) else st.damped })
      roam := { s.roam with ctrs := { s.roam.ctrs with
        damped := if dm then bump s.roam.ctrs.damped else s.roam.ctrs.damped } } } := by
  have hwithin : s.withinWindow start = pp := by rw [hpp]; rfl
  unfold pingPongAtCancel
  rw [hwithin]
  cases pp with
  | false =>
    rw [hdm, if_neg Bool.false_ne_true, modStation_some hs]
    rfl
  | true =>
    rw [if_pos rfl]
    by_cases ht : s.roam.settings.threshold ≤ st.pingPong + 1
    · rw [hdm, countPingPong_damps hs ht]
      have hstation : ((s.setStation h { st with
          pingPong := 0, damped := some (s.venueTime + usec (s.roam.settings.dampingS * 1000000)) }).modRoamCtrs
          (fun k => { k with damped := bump k.damped })).station h = _ := station_setStation_self s h _
      rw [modStation_some hstation]
      simp only [ht, State.setStation, State.modRoamCtrs, Table.put_put, Bool.true_and, decide_true, if_true]
    · rw [hdm, countPingPong_below hs (Nat.not_le.1 ht), modStation_setStation]
      simp only [ht, decide_false, Bool.and_false, Bool.false_eq_true, if_false, if_true]
      rfl

theorem cancelHandoff_eq (hs : s.station h = some st) (hctx : s.roam.ctxs.find h = some ctx) (hh : st.hold = [])
    (hsub : st.sub = none) {pp dm : Bool}
    (hpp : pp = decide (elapsed s.venueTime ctx.start ≤ s.roam.settings.windowS * 1000000))
    (hdm : dm = (pp && decide (s.roam.settings.threshold ≤ st.pingPong + 1))) {u : State}
    (hu : u = (dropContext h s).told x st.addr codeKeep) :
    cancelHandoff h x y s = { u with
      stations := u.stations.put h { st with
        previous := some y, lastRoam := some s.venueTime, target := none, state := .attached
        pingPong := if dm then 0 else if pp then st.pingPong + 1 else st.pingPong
        damped := if dm then some (s.venueTime + usec (s.roam.settings.dampingS * 1000000)) else st.damped }
      roam := { u.roam with
        marks := u.roam.marks.put h x
        ctrs := { u.roam.ctrs with
          cancelled := bump u.roam.ctrs.cancelled
          damped := if dm then bump u.roam.ctrs.damped else u.roam.ctrs.damped } } } := by
  have hstation : u.station h = some st := by rw [hu, told_station]; exact hs
  have hsame : u.venueTime = s.venueTime ∧ u.roam.settings = s.roam.settings := by
    obtain ⟨_, _, _, _, _, _, ht⟩ := told_only (dropContext h s) x st.addr codeKeep
    rw [hu, ht]
    exact ⟨rfl, rfl⟩
  obtain ⟨htime, hset⟩ := hsame
  unfold cancelHandoff
  simp only [hs, hctx, sendRoam_eq, ← hu]
  rw [pingPongAtCancel_modStation hstation (pp := pp) (dm := dm) (by rw [htime, hset]; exact hpp) (by rw [hset]; exact hdm)]
  rw [resumeSub_none (by exact Table.find_put_self h _ _) (by exact hsub),
    drain_none (by exact Table.find_put_self h _ _) (by exact hh), ← hset, ← htime]
  rfl

/-! ### Other ends -/

theorem retarget_eq (hs : s.station h = some st) (hctx : s.roam.ctxs.find h = some ctx) : retarget h r s
    = { s.setStation h { st with target := some r } with roam := { s.roam with
        ctxs := s.roam.ctxs.put h { ctx with target := r }
        ctrs := { s.roam.ctrs with retargeted := bump s.roam.ctrs.retargeted } } } := by
  unfold retarget
  rw [modStation_some hs]
  unfold State.modRoam
  simp only [State.setStation, hctx]

theorem endByTargetPart_eq (hs : s.station h = some st) : endByTargetPart h x s
    = { ((s.setStation h { st with
            state := .unattached, current := none, target := none, linger := s.lingerFrom st }).modRadio x
            (fun q => { q with stations := q.stations - 1 })) with
        roam := { s.roam with
          ctxs := s.roam.ctxs.del h, marks := s.roam.marks.put h x
          ctrs := { s.roam.ctrs with endedByTargetPart := bump s.roam.ctrs.endedByTargetPart } } } := by
  have hs' : (dropContext h s).station h = some st := hs
  unfold endByTargetPart endUnattached
  rw [modStation_some hs']
  rfl

/-! ### The messages, by the state of the record -/

theorem joinRecord_attach (hs : s.station h = some st) (ha : st.state = .unattached) : joinRecord h r s = attach h r s := by
  simp only [joinRecord, hs, ha]

theorem joinRecord_other (hs : s.station h = some st) (ha : st.state = .attached) (hc : st.current = some x) (hne : x ≠ r) :
    joinRecord h r s = if st.damped.isSome then declineRoam h r s else beginHandoff h x r s := by
  simp only [joinRecord, hs, ha, hc, if_neg hne]

theorem joinRecord_handoff (hs : s.station h = some st) (ha : st.state = .handoff) (hc : st.current = some x)
    (ht : st.target = some y) : joinRecord h r s
      = if y = r then s else if x = r then cancelHandoff h x y s else retarget h r s := by
  simp only [joinRecord, hs, ha, hc, ht, Option.some.injEq, Option.getD_some]

theorem partRecord_handoff (hs : s.station h = some st) (ha : st.state = .handoff) (hc : st.current = some x)
    (ht : st.target = some y) (frame : List Byte) : partRecord h r frame s
      = if x = r then (completeHandoff h x y s).modRoamCtrs (fun k => { k with byPart := bump k.byPart })
        else if y = r then endByTargetPart h x s else serviceUnexpected r frame s := by
  simp only [partRecord, hs, ha, hc, ht]

theorem releaseRecord_handoff (hs : s.station h = some st) (ha : st.state = .handoff) (hc : st.current = some x)
    (ht : st.target = some y) (n : Nat) (frame : List Byte) : releaseRecord h r n frame s
      = if x = r then (completeHandoff h x y s).modRoamCtrs (fun k => { k with
          radioDiscarded := bumpBy k.radioDiscarded n, byRelease := bump k.byRelease })
        else serviceUnexpected r frame s := by
  simp only [releaseRecord, hs, ha, hc, ht]

theorem releaseRecord_late (hs : s.station h = some st) (ha : st.state ≠ .handoff) (n : Nat) (frame : List Byte) :
    releaseRecord h r n frame s
      = if s.roam.marks.find h = some r then (clearMark h s).modRoamCtrs (fun k => { k with strayReleases := bump k.strayReleases })
        else raiseError { cls := .lateRelease, radio := some r, handle := some h, frame := some frame } s := by
  unfold releaseRecord
  simp only [hs]
  split
  · next h _ _ => exact absurd h ha
  · rfl

theorem takeRelease_record {a : Addr} (ha : noStation a = false) (hl : s.lookup a = some h) (n : Nat) (frame : List Byte) :
    takeRelease r a n frame s = releaseRecord h r n frame s := by
  simp only [takeRelease, ha, Bool.false_eq_true, if_false, hl]
end

/-- A frame that passes the carrier checks, and what it does leaves the bookkeeping and the management unit (R23). -/
theorem exec_message_quiet {i : Instr} {p : Fin 4} {radio : Byte} {a : Addr} {m : CarrierMsg}
    (hc : i.carrier = some (p, ⟨radio, a, m⟩)) (hw : i.wf = true) (hb : s.Between) (hp : s.Passes p.val radio.toNat)
    (hrun : takeCarrierMsg p.val radio.toNat a m (CarrierFrame.bytes ⟨radio, a, m⟩) (s.portHeard p.val) = t)
    (hev : t.ev = s.ev) (hm : t.mgmt = s.mgmt) : exec i s = .next t.ended := by
  have harr : takeCarrierFrame p.val ⟨radio, a, m⟩ (CarrierFrame.bytes ⟨radio, a, m⟩) s = t := (arrive_passes a m hp).trans hrun
  have hquiet : t.Quiet := by have := hb.1; unfold State.Quiet at *; rw [hev]; exact this
  have hsettled : t.Settled := by have := hb.2; unfold State.Settled at *; rw [hm]; exact this
  rw [exec_carrier_checks hc hw, event_quiet (by rw [harr]; exact hquiet) (by rw [harr]; exact hsettled), harr]

end Sys2Proof.Machine

open Sys2Proof.Machine

/-- Settles O46: the message comes to its record, and the step its state calls for is what the roam engine's lemma says. -/
theorem joinsRoamAndReturn : Obligations.JoinsRoamAndReturn := by
  refine ⟨?_, fun s h y st hs => ⟨fun hback => pingPongAtCompletion_other hs hback, fun ⟨t, hp, ht, hw⟩ hlow => ?_,
    fun ⟨t, hp, ht, hw⟩ hdamp => ?_⟩⟩
  rotate_left
  · rw [pingPongAtCompletion_back hs hp ht hw, countPingPong_below hs hlow]
  · rw [pingPongAtCompletion_back hs hp ht hw, countPingPong_damps hs hdamp]
  intro s p radio a h st hb hp hns hl hs hh hsub r heard now sent tell linger join part
  have hd : heard.ev.deferring = false := heard_deferring hb p.val
  have hs' : heard.station h = some st := hs
  have hbusy (q : Nat) (hq : s.portBusy q = true) : heard.portBusy q = true := ((heard_calm s p.val).portBusy q).trans hq
  have hjoin {t u : State} (ht : joinRecord h r heard = t) (hc : Calm heard t) (hu : t.ended = u) : join = .next u :=
    exec_message (i := .join p radio a) (a := a) (m := .join) rfl rfl hb hp ((takeJoin_record (s := heard) hns hl).trans ht) hc hu
  have hrelease {t u : State} (n : Half) (ht : releaseRecord h r n.toNat (serviceBytes r a 0x03 (be 2 n.toNat)) heard = t)
      (hc : Calm heard t) (hu : t.ended = u) : exec (.release p radio a n) s = .next u :=
    exec_message (i := .release p radio a n) (a := a) (m := .release n) rfl rfl hb hp
      ((takeRelease_record (s := heard) hns hl _ _).trans ht) hc hu
  refine ⟨fun x ha hc hne hdm hn hq => ?_, fun x d ha hc hne hdm hq => ?_, fun ha => ?_,
    fun x y ctx ha hc ht hctx hxy => ⟨fun hr => ?_, fun hrx hry => ?_, fun hrx hq => ?_, fun hr => ?_, fun hrx hq => ?_⟩,
    fun ha n => ⟨fun hm => ?_, fun hm hq => ?_⟩⟩
  · intro on u
    refine hjoin ((joinRecord_other hs' ha hc hne).trans ?_) ?_ rfl
    · rw [hdm]
      exact beginHandoff_eq hs' hsub hn rfl
    · exact ((setStation_calm _ _ _).trans (told_calm (s := on) hd (hbusy x hq) _ _)).trans (calm_of_fields rfl rfl rfl rfl)
  · intro u
    refine hjoin ((joinRecord_other hs' ha hc hne).trans ?_) ?_ rfl
    · rw [hdm]
      exact declineRoam_eq hs'
    · exact (told_calm (s := heard) hd (hbusy r hq) _ _).trans (calm_of_fields rfl rfl rfl rfl)
  · refine hjoin ((joinRecord_attach hs' ha).trans (attach_eq hs' hh hsub)) ?_ rfl
    exact ((setStation_calm heard h _).trans (moreStations_calm _ r)).trans (calm_of_fields rfl rfl rfl rfl)
  · exact hjoin ((joinRecord_handoff hs' ha hc ht).trans (if_pos hr.symm)) (Calm.refl _) rfl
  · refine hjoin ((joinRecord_handoff hs' ha hc ht).trans ((if_neg (Ne.symm hry)).trans ((if_neg (Ne.symm hrx)).trans
      (retarget_eq hs' hctx)))) (calm_of_fields rfl rfl rfl rfl) rfl
  · intro u pingPong damps
    refine hjoin ((joinRecord_handoff hs' ha hc ht).trans ((if_neg (fun h => hxy (hrx.symm.trans h.symm))).trans
      ((if_pos hrx.symm).trans (cancelHandoff_eq hs' hctx hh hsub (pp := pingPong) (dm := damps) rfl rfl rfl)))) ?_ rfl
    exact ((calm_of_fields rfl rfl rfl rfl : Calm heard (dropContext h heard)).trans
      (told_calm (s := dropContext h heard) hd (hbusy x hq) _ _)).trans (calm_of_fields rfl rfl rfl rfl)
  · refine exec_message_quiet (i := .part p radio a) (a := a) (m := .part) rfl rfl hb hp ((takePart_record (s := heard) hl).trans
      ((partRecord_handoff hs' ha hc ht _).trans ((if_neg (fun h => hxy (h.trans hr))).trans ((if_pos hr.symm).trans
      (endByTargetPart_eq hs'))))) rfl rfl
  · intro error
    have herr (bytes : List Byte) := serviceUnexpected_faulted (s := heard) hd hq bytes
    refine ⟨fun hry => ?_, fun n => ?_⟩
    · exact exec_message (i := .part p radio a) (a := a) (m := .part) rfl rfl hb hp ((takePart_record (s := heard) hl).trans
        ((partRecord_handoff hs' ha hc ht _).trans ((if_neg (Ne.symm hrx)).trans ((if_neg (Ne.symm hry)).trans (herr _)))))
        (charged_calm _ _ _) rfl
    · exact hrelease n ((releaseRecord_handoff hs' ha hc ht _ _).trans ((if_neg (Ne.symm hrx)).trans (herr _)))
        (charged_calm _ _ _) rfl
  · exact hrelease n ((releaseRecord_late hs' ha _ _).trans (if_pos hm)) (calm_of_fields rfl rfl rfl rfl) rfl
  · exact hrelease n ((releaseRecord_late hs' ha _ _).trans ((if_neg hm).trans (raiseError_faulted hd rfl hq)))
      (charged_calm _ _ _) rfl
end

section
/-! The detach timer (R35), in a state whose radio table is not in canonical form. -/

-- One proof at a time: the threads of the default would not fit the memory the check allows.
set_option Elab.async false

open Sys2Proof

namespace Sys2Proof.Machine

/-- A record in HANDOFF from radio 5, whose detach timer is due after DETACH was sent. Radio 5 is listed twice, first with the
default value, so that it reads as ABSENT; the completion, which writes that value again, removes the entry, and uncovers radio 5
IN_SERVICE. The first HANDOFF_TIMEOUT quarantines it. -/
def uncoveredRadio : State where
  stations := [(8, { addr := 2, state := .handoff, current := some 5, target := some 6 })]
  radios := [(5, {}), (5, { state := .inService, cfg := some ⟨.seat, 0, 0, 1⟩ })]
  roam := { ctxs := [(8, ⟨5, 6, 0, 0, true⟩)] }
  err := { threshold := 1, classes := [(4, { quarantine := true })] }

theorem uncoveredRadio_due : uncoveredRadio.Between ∧ uncoveredRadio.lookup 2 = some 8
    ∧ uncoveredRadio.station 8 = some { addr := 2, state := .handoff, current := some 5, target := some 6 }
    ∧ uncoveredRadio.roam.ctxs.find 8 = some ⟨5, 6, 0, 0, true⟩ ∧ reached uncoveredRadio.venueTime 0 = true
    ∧ uncoveredRadio.noQuarantine .handoffTimeout 5 = true := by
  decide

/-- A radio's state in what an outcome answers. -/
def radioStateAfter (o : Outcome) (r : Nat) : Option RadioState :=
  match o with
  | .next t => some (t.radio r).state
  | _ => none

theorem uncoveredRadio_quarantined : radioStateAfter (exec (.detachTimerExpiry 8) uncoveredRadio) 5 = some .quarantined := by
  decide

/-- An occurrence and its strike leave every radio's state. -/
theorem faulted_state (s : State) (o : Occurrence) (r q : Nat) : ((s.faulted o r).radio q).state = (s.radio q).state := by
  obtain ⟨tx, e, hocc⟩ := takeOccurrence_only o s
  unfold State.faulted
  rw [hocc]
  split
  · rw [modRadio_radio (fun h => by
      have := congrArg Radio.strikes h
      simp at this)]
    split
    · next hq => rw [hq]; rfl
    · rfl
  · rfl

end Sys2Proof.Machine

open Sys2Proof.Machine

/-- Refutes O47: the clause of the detach timer fails where the radio table lists the old radio twice, since the strike is charged
once the entry is uncovered; the statement does not ask for the canonical form of the table. -/
theorem not_handoffsComplete : ¬ Obligations.HandoffsComplete := by
  intro h
  obtain ⟨hb, hl, hs, hctx, hr, hq⟩ := uncoveredRadio_due
  obtain ⟨-, hexpiry⟩ := (h.1 uncoveredRadio 8 2 5 6 _ _ hb hl hs (by decide) rfl rfl rfl rfl hctx rfl rfl).1 rfl
  obtain ⟨v, hrun, st', hv, -⟩ := hexpiry hr hq
  have hstate := uncoveredRadio_quarantined
  rw [hrun] at hstate
  have hradios : v.radios = [(5, { state := .inService, cfg := some ⟨.seat, 0, 0, 1⟩ }), (6, { stations := 1 })] :=
    (congrArg State.radios hv).trans rfl
  have hradio : (v.radio 5).state = .inService := by
    unfold State.radio
    rw [hradios]
    rfl
  have hkept : radioStateAfter (.next (v.faulted { cls := .handoffTimeout, radio := some 5, handle := some 8 } 5).ended) 5
      = some .inService := congrArg some ((faulted_state v _ 5 5).trans hradio)
  exact absurd (hstate.symm.trans hkept) (by decide)
end

section
/-! The transmit completion and the arbiters (R50 to R56), grant decisions and wake times (R69, R70). -/

-- One proof at a time: the threads of the default would not fit the memory the check allows.
set_option Elab.async false

open Sys2Proof

namespace Sys2Proof.Machine

variable {s t u : State}

/-! ### Asking arbiters -/

theorem askPort_eq (s : State) (p : Nat) : s.askPort p = { s with ev := { s.ev with ask := (s.askPort p).ev.ask } } := by
  unfold State.askPort; split <;> rfl

theorem mem_askPort {p q : Nat} : q ∈ (s.askPort p).ev.ask ↔ q = p ∨ q ∈ s.ev.ask := by
  unfold State.askPort
  split
  · next hc =>
    rw [List.contains_iff_mem] at hc
    exact ⟨.inr, fun h => h.elim (fun he => he ▸ hc) id⟩
  · simp [or_comm]

theorem askRadio_eq (s : State) (r : Nat) : s.askRadio r = { s with ev := { s.ev with ask := (s.askRadio r).ev.ask } } := by
  unfold State.askRadio
  split
  · exact askPort_eq s _
  · rfl

theorem mem_askRadio {r q : Nat} : q ∈ (s.askRadio r).ev.ask ↔ (s.radio r).cfg.map RadioCfg.port = some q ∨ q ∈ s.ev.ask := by
  unfold State.askRadio
  cases (s.radio r).cfg with
  | none => simp
  | some c => simp [mem_askPort, eq_comm]

/-- A head uncovered asks the arbiter of the radio's port where it is eligible (R50, R58). -/
theorem askIfEligible_uncovered (r : Nat) (c : Cls) (was new : List Burst) (s : State) :
    askIfEligible r c was new true s = if headEligible c new = true then s.askRadio r else s := by
  simp only [askIfEligible, Bool.true_or, Bool.and_true]

/-! ### The transmit completion -/

theorem lowerEgress_only (h : Option Nat) (s : State) : ∃ t, lowerEgress h s = { s with stations := t } := by
  unfold lowerEgress State.modStation
  cases h with
  | none => exact ⟨_, rfl⟩
  | some k =>
    simp only
    cases s.station k with
    | none => exact ⟨_, rfl⟩
    | some st => exact ⟨_, rfl⟩

theorem foldl_lowerEgress_only (fs : List Frame) (s : State) :
    ∃ t, fs.foldl (fun s f => lowerEgress f.handle s) s = { s with stations := t } := by
  induction fs generalizing s with
  | nil => exact ⟨_, rfl⟩
  | cons f fs ih =>
    obtain ⟨t, ht⟩ := lowerEgress_only f.handle s
    rw [List.foldl_cons, ht]
    exact ih _

/-- What the completion of burst `b`, with `bs` behind it, leaves but for the arbiters asked (R56). -/
def State.completed (s : State) (p r : Nat) (c : Cls) (b : Burst) (bs : List Burst) : State :=
  let s1 := b.frames.foldl (fun s f => lowerEgress f.handle s) (s.setList r c bs)
  let s2 := { s1 with egress := { s1.egress with
    buffers := s.egress.buffers - b.frames.length, bursts := s.egress.bursts - 1 } }
  s2.setPort p { s.port p with
    sending := none
    wire := []
    ctrs := { (s.port p).ctrs with
      sent := bumpBy (s.port p).ctrs.sent b.frames.length
      burstsSent := bump (s.port p).ctrs.burstsSent
      framesSent := bumpBy (s.port p).ctrs.framesSent b.frames.length
      bytesSent := bumpBy (s.port p).ctrs.bytesSent b.total } }

section
variable {p r : Nat} {c : Cls} {b : Burst} {bs : List Burst}

theorem completed_only : ∃ st l g e ps, s.completed p r c b bs
    = { s with stations := st, egress := { s.egress with lists := l, buffers := g, bursts := e }, ports := ps } := by
  obtain ⟨t, ht⟩ := foldl_lowerEgress_only b.frames (s.setList r c bs)
  unfold State.completed
  rw [ht]
  exact ⟨_, _, _, _, _, rfl⟩

theorem completeTransmit_eq (hs : (s.port p).sending = some (r, c)) (hl : s.list r c = b :: bs) (ha : s.ev.ask = []) :
    ∃ a, completeTransmit p s = { s.completed p r c b bs with ev := { s.ev with roomFreed := true, ask := a } }
      ∧ ∀ q, q ∈ a ↔ q = p ∨ (headEligible c bs = true ∧ (s.radio r).cfg.map RadioCfg.port = some q) := by
  obtain ⟨t, ht⟩ := foldl_lowerEgress_only b.frames (s.setList r c bs)
  unfold completeTransmit finishBurst State.completed
  simp only [hs, hl, ht, askIfEligible_uncovered, Option.map_some, Option.getD_some]
  by_cases he : headEligible c bs = true
  · rw [if_pos he, askRadio_eq, askPort_eq]
    refine ⟨_, rfl, fun q => ?_⟩
    rw [mem_askPort]
    refine or_congr_right ((mem_askRadio (s := _)).trans ?_)
    rw [he]
    refine ⟨fun h => ⟨rfl, h.resolve_right ?_⟩, fun h => .inl h.2⟩
    show q ∉ s.ev.ask
    rw [ha]
    exact List.not_mem_nil
  · rw [if_neg he, askPort_eq]
    refine ⟨_, rfl, fun q => ?_⟩
    rw [mem_askPort]
    refine or_congr_right ⟨fun h => ?_, fun h => absurd h.1 he⟩
    have : q ∈ s.ev.ask := h
    rw [ha] at this
    exact absurd this List.not_mem_nil
end

/-! ### The end of the event -/

/-- Freed room for which nothing waits is announced to nobody (R57). -/
theorem announce_idle (hd : s.roam.drain = []) (hq : s.replay.stalled = []) :
    announce s = { s with ev := { s.ev with roomFreed := false } } := by
  unfold announce
  split
  · unfold serveDrainList serveStalled
    simp only [hd, hq, List.foldl_nil]
  · next h =>
    have : ({ s.ev with roomFreed := false } : Scratch) = s.ev := by rw [← Bool.eq_false_iff.2 h]
    rw [this]

/-- Where nothing waits for room and nothing is looked for, the arbiters asked run, and the event ends. -/
theorem finish_asked {n : Nat} {room : Bool} {a : List Nat} (hd : s.roam.drain = []) (hq : s.replay.stalled = []) (hm : s.Settled) :
    finish { s with ev := { number := n, roomFreed := room, ask := a } }
      = (([0, 1, 2, 3].filter (fun p => a.contains p)).foldl (fun s p => runArbiter p s) { s with ev := { number := n } }).ended := by
  have hflush : flush { s with ev := { number := n, roomFreed := room, ask := a } }
      = ([0, 1, 2, 3].filter (fun p => a.contains p)).foldl (fun s p => runArbiter p s) { s with ev := { number := n } } := by
    unfold flush
    rw [announce_idle (by exact hd) (by exact hq), settle_none rfl]
    rfl
  have hset : (flush { s with ev := { number := n, roomFreed := room, ask := a } }).Settled := by
    rw [hflush, foldl_runArbiter_same]
    exact hm
  unfold finish
  rw [runQueue_settled hset, hflush]
  rfl

/-! ### The order in which an arbiter asks -/

theorem RadioLists.transmitting_iff {l : RadioLists} : l.transmitting = false ↔ ∀ c, ∀ b ∈ l.of c, b.isTransmitting = false := by
  unfold RadioLists.transmitting
  rw [Bool.eq_false_iff, ne_eq, List.any_eq_true]
  refine ⟨fun h c b hb => ?_, fun h ⟨c, _, hc⟩ => ?_⟩
  · refine Bool.eq_false_iff.2 (fun ht => h ⟨c, by cases c <;> decide, List.any_eq_true.2 ⟨b, hb, ht⟩⟩)
  · obtain ⟨b, hb, ht⟩ := List.any_eq_true.1 hc
    exact Bool.noConfusion (ht.symm.trans (h c b hb))

theorem headEligible_iff {c : Cls} {l : List Burst} : headEligible c l = true
    ↔ ∃ b bs, l = b :: bs ∧ (b.state = .closed ∨ (b.state = .opened ∧ c = .admission)) := by
  cases l with
  | nil => simp [headEligible]
  | cons b bs => cases hb : b.state <;> simp [headEligible, hb]

theorem mem_eligible {l : RadioLists} {c : Cls} : c ∈ eligible l ↔ headEligible c (l.of c) = true := by
  unfold eligible
  rw [List.mem_filter]
  exact ⟨And.right, fun h => ⟨by cases c <;> decide, h⟩⟩

theorem canDispatch_iff {r : Nat} : s.canDispatch r = true
    ↔ (s.radio r).state = .inService ∧ (∀ c, ∀ b ∈ s.list r c, b.isTransmitting = false)
      ∧ ∃ c b bs, s.list r c = b :: bs ∧ (b.state = .closed ∨ (b.state = .opened ∧ c = .admission)) := by
  have helig : (!(eligible (s.lists r)).isEmpty) = true
      ↔ ∃ c b bs, s.list r c = b :: bs ∧ (b.state = .closed ∨ (b.state = .opened ∧ c = .admission)) := by
    rw [Bool.not_eq_true', List.isEmpty_eq_false_iff_exists_mem]
    exact exists_congr (fun c => mem_eligible.trans headEligible_iff)
  unfold State.canDispatch
  rw [Bool.and_eq_true, Bool.and_eq_true, helig, Bool.not_eq_true', RadioLists.transmitting_iff, and_assoc]
  exact and_congr_left' decide_eq_true_iff

/-- The radios that the arbiter of a port may ask, in increasing order. -/
def State.askable (s : State) (p : Nat) : List Nat :=
  (s.radios.filter (fun e => decide (e.2.cfg.map RadioCfg.port = some p) && s.canDispatch e.1)).map Prod.fst

theorem mem_askable {p r : Nat} (hs : s.radios.sorted = true) : r ∈ s.askable p
    ↔ (s.radio r).cfg.map RadioCfg.port = some p ∧ s.canDispatch r = true := by
  have hget (e : Nat × Radio) (he : e ∈ s.radios) : s.radio e.1 = e.2 := by
    unfold State.radio Table.get
    rw [Table.find_of_mem hs he]
    rfl
  unfold State.askable
  rw [List.mem_map]
  refine ⟨fun ⟨e, he, her⟩ => ?_, fun ⟨hc, hd⟩ => ?_⟩
  · obtain ⟨hin, hp⟩ := List.mem_filter.1 he
    rw [Bool.and_eq_true, decide_eq_true_iff] at hp
    rw [← her, hget e hin]
    exact hp
  · cases hf : s.radios.find r with
    | none =>
      have : s.radio r = {} := by unfold State.radio Table.get; rw [hf]; rfl
      rw [this] at hc
      cases hc
    | some x =>
      have hx : s.radio r = x := by unfold State.radio Table.get; rw [hf]; rfl
      refine ⟨(r, x), List.mem_filter.2 ⟨Table.mem_of_find hf, ?_⟩, rfl⟩
      rw [Bool.and_eq_true, decide_eq_true_iff]
      exact ⟨hx ▸ hc, hd⟩

theorem sorted_keys {α : Type} {t : Table α} (hs : t.sorted = true) : (t.map Prod.fst).Pairwise (fun a b => a < b) := by
  induction t with
  | nil => exact List.Pairwise.nil
  | cons e t ih =>
    obtain ⟨hs, habove⟩ := (Table.sorted_cons e.1 e.2 t).1 hs
    refine List.Pairwise.cons (fun b hb => ?_) (ih hs)
    obtain ⟨x, hx, rfl⟩ := List.mem_map.1 hb
    exact habove x hx

theorem askable_sorted {p : Nat} (hs : s.radios.sorted = true) : (s.askable p).Pairwise (fun a b => a < b) :=
  (sorted_keys hs).sublist (List.filter_sublist.map _)

theorem arbiterOrder_first {p : Nat} (hp : (s.port p).pointer = none) : arbiterOrder p s = s.askable p := by
  unfold arbiterOrder
  rw [hp]
  rfl

theorem arbiterOrder_above {p k : Nat} (hp : (s.port p).pointer = some k) : arbiterOrder p s
    = (s.askable p).filter (fun r => decide (k < r)) ++ (s.askable p).filter (fun r => decide (r ≤ k)) := by
  unfold arbiterOrder
  rw [hp]
  rfl

theorem mem_arbiterOrder {p r : Nat} : r ∈ arbiterOrder p s ↔ r ∈ s.askable p := by
  cases hp : (s.port p).pointer with
  | none => rw [arbiterOrder_first hp]
  | some k =>
    rw [arbiterOrder_above hp, List.mem_append, List.mem_filter, List.mem_filter, decide_eq_true_iff, decide_eq_true_iff,
      ← and_or_left]
    exact and_iff_left (Nat.lt_or_ge k r)

theorem arbiterOrder_wraps {p k : Nat} (hs : s.radios.sorted = true) (hp : (s.port p).pointer = some k) :
    (arbiterOrder p s).Pairwise (fun a b => (k < a ∧ ¬ k < b) ∨ ((k < a ↔ k < b) ∧ a < b)) := by
  rw [arbiterOrder_above hp, List.pairwise_append]
  have hsort := askable_sorted (p := p) hs
  refine ⟨?_, ?_, fun a ha b hb => ?_⟩
  · refine (hsort.sublist List.filter_sublist).imp_of_mem (fun {a b} ha hb hab => .inr ⟨?_, hab⟩)
    exact iff_of_true (of_decide_eq_true (List.mem_filter.1 ha).2) (of_decide_eq_true (List.mem_filter.1 hb).2)
  · refine (hsort.sublist List.filter_sublist).imp_of_mem (fun {a b} ha hb hab => .inr ⟨?_, hab⟩)
    exact iff_of_false (Nat.not_lt.2 (of_decide_eq_true (List.mem_filter.1 ha).2))
      (Nat.not_lt.2 (of_decide_eq_true (List.mem_filter.1 hb).2))
  · exact .inl ⟨of_decide_eq_true (List.mem_filter.1 ha).2, Nat.not_lt.2 (of_decide_eq_true (List.mem_filter.1 hb).2)⟩

/-! ### One radio asked -/

section
variable {p r : Nat} {rs : List Nat}

theorem refill_state (g : Governor) (now : Time) (x : Radio) : (g.refill now x).state = x.state := by
  unfold Governor.refill
  simp only
  split <;> rfl

theorem radio_setRadio {x : Radio} (hx : x ≠ {}) : (s.setRadio r x).radio r = x := Table.get_set_of_ne hx

theorem setRadio_setRadio {x y : Radio} (hx : x ≠ {}) (hy : y ≠ {}) : (s.setRadio r x).setRadio r y = s.setRadio r y := by
  unfold State.setRadio
  rw [set_set_of_ne _ _ hx hy]

theorem radio_ne_default {x : Radio} (hx : x.state = .inService) : x ≠ {} := by
  rintro rfl
  cases hx

theorem arbiterOver_granted {c : Cls} {b : Burst} {bs : List Burst} (hr : s.inService r = true)
    (hc : (eligible (s.lists r)).find? (s.gov.allows (s.gov.refill s.venueTime (s.radio r))) = some c) (hl : s.list r c = b :: bs) :
    arbiterOver p (r :: rs) s = ((s.setList r c ({ b with state := .transmitting p, sealAt := none } :: bs)).setRadio r
      (s.gov.setWaiting s.venueTime ((eligible (s.lists r)).filter (fun d => decide (d ≠ c))) (s.gov.charge c b.total
        (s.gov.refill s.venueTime (s.radio r))))).setPort p
      { s.port p with pointer := some r, sending := some (r, c), wire := b.frames.map (Frame.wire r) } := by
  have hin : (s.gov.refill s.venueTime (s.radio r)).state = .inService := (refill_state _ _ _).trans (of_decide_eq_true hr)
  have hradio : (((s.setRadio r (s.gov.refill s.venueTime (s.radio r))).setList r c
      ({ b with state := .transmitting p, sealAt := none } :: bs)).radio r) = s.gov.refill s.venueTime (s.radio r) :=
    radio_setRadio (radio_ne_default hin)
  have hlist : (s.setRadio r (s.gov.refill s.venueTime (s.radio r))).list r c = b :: bs := hl
  unfold arbiterOver grantRequest
  simp only [hc]
  unfold dispatch
  simp only [hlist, transmitHead, chargeDispatch, hradio]
  have hset := setRadio_setRadio (s := s.setList r c ({ b with state := .transmitting p, sealAt := none } :: bs)) (r := r)
    (x := s.gov.refill s.venueTime (s.radio r))
    (y := s.gov.setWaiting s.venueTime ((eligible (s.lists r)).filter (fun d => decide (d ≠ c))) (s.gov.charge c b.total
        (s.gov.refill s.venueTime (s.radio r)))) (radio_ne_default hin) (radio_ne_default hin)
  exact congrArg (fun t : State => t.setPort p
    { s.port p with pointer := some r, sending := some (r, c), wire := b.frames.map (Frame.wire r) }) hset

theorem arbiterOver_withheld (hc : (eligible (s.lists r)).find? (s.gov.allows (s.gov.refill s.venueTime (s.radio r))) = none) :
    arbiterOver p (r :: rs) s = arbiterOver p rs (s.setRadio r (s.gov.setWaiting s.venueTime (eligible (s.lists r))
      { s.gov.refill s.venueTime (s.radio r) with gov := { (s.gov.refill s.venueTime (s.radio r)).gov with
        withheld := bump (s.gov.refill s.venueTime (s.radio r)).gov.withheld } })) := by
  conv_lhs => unfold arbiterOver grantRequest
  simp only [hc]
end

/-! ### Waiting classes and wake times (R70) -/

theorem lowest_attained (g : GroupRec) {l : List Cls} (hl : l ≠ []) :
    ∃ c ∈ l, g.lowest l = g.threshold c ∧ ∀ d ∈ l, g.threshold c ≤ g.threshold d := by
  induction l with
  | nil => exact absurd rfl hl
  | cons a l ih =>
    cases l with
    | nil => exact ⟨a, List.mem_cons_self, rfl, fun d hd => by rw [List.mem_singleton.1 hd]⟩
    | cons a' l =>
      obtain ⟨c, hc, hlow, hmin⟩ := ih (by simp)
      have hstep : g.lowest (a :: a' :: l) = min (g.threshold a) (g.threshold c) := by rw [← hlow]; rfl
      rcases Int.le_total (g.threshold a) (g.threshold c) with hle | hle
      · refine ⟨a, List.mem_cons_self, by rw [hstep, min_eq_left hle], fun d hd => ?_⟩
        rcases List.mem_cons.1 hd with rfl | hd
        · exact Int.le_refl _
        · exact Int.le_trans hle (hmin d hd)
      · refine ⟨c, List.mem_cons_of_mem _ hc, by rw [hstep, min_eq_right hle], fun d hd => ?_⟩
        rcases List.mem_cons.1 hd with rfl | hd
        · exact hle
        · exact hmin d hd

/-- The wait for `need` at `eff` a microsecond, with `rem` in hand, rounded up, and at most a second. -/
theorem wait_bounds {need rem eff : Nat} (he : 0 < eff) :
    (min ((need - rem + eff - 1) / eff) 1000000 < 1000000 → need ≤ min ((need - rem + eff - 1) / eff) 1000000 * eff + rem)
      ∧ ∀ v, v < min ((need - rem + eff - 1) / eff) 1000000 → v * eff + rem < need := by
  have hdiv := Nat.div_add_mod (need - rem + eff - 1) eff
  have hmod := Nat.mod_lt (need - rem + eff - 1) he
  rw [Nat.mul_comm] at hdiv
  refine ⟨fun hw => ?_, fun v hv => ?_⟩
  · rw [Nat.min_eq_left (by omega)]
    omega
  · have hv' : (v + 1) * eff ≤ (need - rem + eff - 1) / eff * eff := Nat.mul_le_mul_right _ (by omega)
    rw [Nat.add_mul, Nat.one_mul] at hv'
    omega

theorem setWaiting_wake {g : Governor} {now : Time} {classes : List Cls} {r : Radio} {set : List Cls}
    (hset : set = classes.filter (fun c => decide (¬ (g.groupOf r).threshold c < r.credit))) :
    g.setWaiting now classes r = { r with waiting := set, wake := g.wakeFor now r set } := by
  have : classes.filter (fun c => !g.allows r c) = set := by
    rw [hset]
    refine List.filter_congr (fun c _ => ?_)
    unfold Governor.allows
    rw [decide_not]
  unfold Governor.setWaiting
  simp only [this]

theorem wakeFor_none {g : Governor} {now : Time} {r : Radio} {set : List Cls} (h : set = [] ∨ g.eff r = 0) :
    g.wakeFor now r set = none := by
  unfold Governor.wakeFor
  exact if_pos h

theorem wakeFor_some {g : Governor} {now : Time} {r : Radio} {set : List Cls} (hs : set ≠ []) (he : 0 < g.eff r) :
    g.wakeFor now r set = some (now + usec (min
      ((((g.groupOf r).lowest set + 1 - r.credit).toNat * 1000 - r.remainder + g.eff r - 1) / g.eff r) 1000000)) := by
  unfold Governor.wakeFor
  exact if_neg (fun h => h.elim hs (by omega))

end Sys2Proof.Machine

open Sys2Proof.Machine

/-- Settles O53: a completion in the bookkeeping it leaves, and the arbiter's order and decisions one radio at a time. -/
theorem portsCompleteAndDispatch : Obligations.PortsCompleteAndDispatch := by
  refine ⟨fun s p r c b bs hb hs hl hd hq => ?_, fun s p hb hs => ?_,
    fun s p => ⟨fun hs => ?_, fun hs => ?_, fun hsort => ⟨fun r => mem_arbiterOrder.trans (mem_askable hsort), fun hp => ?_,
      fun k hp => arbiterOrder_wraps hsort hp⟩, fun r => canDispatch_iff, fun r rs hr => ⟨fun c b bs hc hl => ?_, fun hc => ?_⟩⟩,
    fun g now classes r => ?_⟩
  · intro n s1 s2 k s3 runs
    obtain ⟨a, ha, hmem⟩ := completeTransmit_eq hs hl (quiet_ask hb.1)
    obtain ⟨st, l, g, e, ps, hcomp⟩ := completed_only (s := s) (p := p.val) (r := r) (c := c) (b := b) (bs := bs)
    have hev : ({ s.ev with roomFreed := true, ask := a } : Scratch) = { number := s.ev.number, roomFreed := true, ask := a } := by
      rw [hb.1]
    have hasked : [0, 1, 2, 3].filter (fun q => a.contains q) = [0, 1, 2, 3].filter (fun q => decide (runs q)) :=
      List.filter_congr (fun q _ => by rw [← decide_eq_decide.2 (hmem q), List.contains_eq_mem])
    have hbase : { s.completed p.val r c b bs with ev := { number := s.ev.number } } = s.completed p.val r c b bs := by
      rw [hcomp, ← show s.ev = { number := s.ev.number } from hb.1]
    have hroam : (s.completed p.val r c b bs).roam.drain = [] := by rw [hcomp]; exact hd
    have hstall : (s.completed p.val r c b bs).replay.stalled = [] := by rw [hcomp]; exact hq
    have hsettled : (s.completed p.val r c b bs).Settled := by rw [hcomp]; exact hb.2
    show event (completeTransmit p.val) s = _
    unfold event
    rw [ha, hev, finish_asked hroam hstall hsettled, hasked, hbase]
    rfl
  · have hnone : completeTransmit p.val s = s := by
      unfold completeTransmit
      rw [hs]
    show event (completeTransmit p.val) s = _
    rw [event_calm hb (by rw [hnone]; exact Calm.refl s), hnone]
  · obtain ⟨x, hx⟩ := Option.isSome_iff_exists.1 hs
    unfold runArbiter
    rw [hx]
  · unfold runArbiter
    rw [hs]
  · rw [arbiterOrder_first hp]
    exact askable_sorted hsort
  · exact arbiterOver_granted hr hc hl
  · exact arbiterOver_withheld hc
  · intro set t
    have ht : t = { r with waiting := set, wake := g.wakeFor now r set } := setWaiting_wake rfl
    have hwake : t.wake = g.wakeFor now r set := by rw [ht]
    refine ⟨by rw [hwake]; exact ht, fun hnone => hwake.trans (wakeFor_none hnone), fun hs he => ?_⟩
    obtain ⟨c, hc, hlow, hmin⟩ := lowest_attained (g.groupOf r) hs
    refine ⟨_, c, hwake.trans (wakeFor_some hs he), Nat.min_le_right _ _, hc, hmin, ?_⟩
    rw [hlow]
    exact wait_bounds he
end

section
/-! A radio that leaves service or is reset (R20, R21, R59), or is quarantined (R179), where nothing waits or is delivered. -/

-- One proof at a time: the threads of the default would not fit the memory the check allows.
set_option Elab.async false

open Sys2Proof

namespace Sys2Proof.Machine

variable {s t u v : State}

/-! ### Changes of listed stations -/

/-- Changes the value at a key, if there is one. -/
def Table.modify {α : Type} (t : Table α) (k : Nat) (f : α → α) : Table α :=
  match t.find k with
  | some v => t.put k (f v)
  | none => t

theorem modStation_eq (s : State) (h : Nat) (f : Station → Station) :
    s.modStation h f = { s with stations := Table.modify s.stations h f } := by
  unfold State.modStation Table.modify State.station
  cases s.stations.find h <;> rfl

theorem Table.put_append {α : Type} {t u : Table α} {k : Nat} {v w : α} (hs : Table.sorted (t ++ (k, v) :: u) = true) :
    Table.put (t ++ (k, v) :: u) k w = t ++ (k, w) :: u := by
  induction t with
  | nil => simp [Table.put]
  | cons e t ih =>
    obtain ⟨hs, habove⟩ := (Table.sorted_cons e.1 e.2 _).1 hs
    have hk : e.1 < k := habove (k, v) (by simp)
    have hput := ih hs
    obtain ⟨k', v'⟩ := e
    simp only [List.cons_append, Table.put]
    rw [if_neg (by omega), if_neg (by omega), hput]

/-- Changing in turn the values that a condition selects changes just those. -/
theorem Table.foldl_modify {α : Type} (p : Nat × α → Bool) (f : α → α) (pre post : Table α)
    (hs : Table.sorted (pre ++ post) = true) :
    ((post.filter p).map Prod.fst).foldl (fun t k => Table.modify t k f) (pre ++ post)
      = pre ++ post.map (fun e => (e.1, if p e then f e.2 else e.2)) := by
  induction post generalizing pre with
  | nil => rfl
  | cons e post ih =>
    obtain ⟨k, v⟩ := e
    have hshift (w : α) : pre ++ (k, w) :: post = (pre ++ [(k, w)]) ++ post := by simp
    cases hp : p (k, v) with
    | false =>
      rw [List.filter_cons_of_neg (by simp [hp]), hshift, ih _ (by rw [← hshift]; exact hs)]
      simp [hp]
    | true =>
      have hfind : Table.find (pre ++ (k, v) :: post) k = some v := Table.find_of_mem hs (by simp)
      have hmod : Table.modify (pre ++ (k, v) :: post) k f = pre ++ (k, f v) :: post := by
        unfold Table.modify
        rw [hfind]
        exact Table.put_append hs
      have hsort : Table.sorted (pre ++ (k, f v) :: post) = true := by
        rw [← Table.put_append hs]
        exact Table.sorted_put hs
      rw [List.filter_cons_of_pos hp, List.map_cons, List.foldl_cons, hmod, hshift, ih _ (by rw [← hshift]; exact hsort)]
      simp [hp]

/-- The stations once the egress counts of some frames have fallen (R15). -/
def Table.lowered (t : Table Station) (fs : List Frame) : Table Station :=
  fs.foldl (fun t f => match f.handle with
    | some h => Table.modify t h (fun st => { st with egress := st.egress - 1 }.applyPending)
    | none => t) t

theorem foldl_lowerEgress (fs : List Frame) (s : State) :
    fs.foldl (fun s f => lowerEgress f.handle s) s = { s with stations := s.stations.lowered fs } := by
  induction fs generalizing s with
  | nil => rfl
  | cons f fs ih =>
    rw [List.foldl_cons, ih]
    unfold lowerEgress
    cases hf : f.handle with
    | none => simp [Table.lowered, hf]
    | some h => simp [Table.lowered, hf, modStation_eq]

/-! ### Stations detached -/

/-- A radio's stations once it has detached them (R20). -/
def State.detached (s : State) (r : Nat) : Table Station :=
  s.stations.map (fun e => (e.1, if decide (e.2.state = .attached ∧ e.2.current = some r) then
    e.2.loseRadio (s.lingerFrom e.2) else e.2))

theorem leaveDrainList_empty (hd : s.roam.drain = []) (h : Nat) : leaveDrainList h s = s := by
  have : ({ s.roam with drain := s.roam.drain.filter (· ≠ h) } : Roam) = s.roam := by
    rw [hd, List.filter_nil, ← hd]
  unfold leaveDrainList State.modRoam
  simp only [this]

theorem detachAll_eq {r : Nat} (hd : s.roam.drain = []) (hs : s.stations.sorted = true) :
    detachAll r s = { s with stations := s.detached r } := by
  have hfold (hs : List Nat) (t : Table Station) : hs.foldl (fun s h =>
      (leaveDrainList h s).modStation h (fun st => st.loseRadio (s.lingerFrom st))) { s with stations := t }
      = { s with stations := hs.foldl (fun t k => Table.modify t k (fun st => st.loseRadio (s.lingerFrom st))) t } := by
    induction hs generalizing t with
    | nil => rfl
    | cons h hs ih =>
      rw [List.foldl_cons, leaveDrainList_empty (by exact hd), modStation_eq]
      exact ih _
  unfold detachAll
  rw [hfold _ s.stations]
  exact congrArg (fun t => ({ s with stations := t } : State)) (Table.foldl_modify _ _ [] s.stations hs)

/-! ### Lists purged (R59) -/

/-- What a purge leaves of a radio's lists. -/
def State.keptLists (s : State) (r : Nat) : RadioLists :=
  ⟨(s.list r .admission).filter Burst.isTransmitting, (s.list r .fan).filter Burst.isTransmitting,
    (s.list r .visitor).filter Burst.isTransmitting, (s.list r .replay).filter Burst.isTransmitting⟩

/-- The state but for the radios, once a radio has detached its stations and its lists are purged (R20, R59). -/
def State.vacated (s : State) (r : Nat) : State :=
  { s with
    stations := (s.detached r).lowered (s.unsent r)
    roam := { s.roam with marks := s.roam.marks.filter (fun e => decide (e.2 ≠ r)) }
    egress := { s.egress with
      lists := s.egress.lists.set {} r (s.keptLists r)
      buffers := s.egress.buffers - (s.unsent r).length, bursts := s.egress.bursts - s.unsentBursts r } }

theorem withoutRadio_eq (s : State) (r : Nat) (g : Radio → Radio) : s.withoutRadio r g = (s.vacated r).modRadio r g := by
  have hstations : s.detached r = s.stations.map (fun (e : Nat × Station) => (e.1,
      if e.2.state = .attached ∧ e.2.current = some r then
        { e.2 with
          state := .unattached, current := none
          linger := if e.2.pinned then none else some (s.venueTime + usec (s.roam.settings.lingerS * 1000000))
          sub := e.2.sub.map (fun b => { b with rider := none }) }
      else e.2)) := List.map_congr_left (fun e _ => by simp only [decide_eq_true_eq]; rfl)
  unfold State.withoutRadio
  simp only [foldl_lowerEgress, ← hstations]
  rfl

theorem unsent_eq (s : State) (r : Nat) : s.unsent r
    = (Cls.all.flatMap (fun c => (s.list r c).filter (fun b => !b.isTransmitting))).flatMap Burst.frames := by
  unfold State.unsent
  rw [List.flatMap_assoc]

theorem unsentBursts_eq (s : State) (r : Nat) : s.unsentBursts r
    = (Cls.all.flatMap (fun c => (s.list r c).filter (fun b => !b.isTransmitting))).length := by
  unfold State.unsentBursts
  rw [List.length_flatMap]

theorem Table.set_get {α : Type} [DecidableEq α] {d : α} {t : Table α} (hw : t.wf d = true) (k : Nat) :
    t.set d k (t.get d k) = t :=
  Table.ext_of_get (Table.wf_set hw) hw (fun q => by
    by_cases hq : q = k
    · rw [hq, Table.get_set_self (Table.wf_sorted hw)]
    · rw [Table.get_set_ne hq])

/-- A purge, behind the counts of the radio that are 0 (R20, R59); `b` tells whether room was freed. -/
theorem purge_eq {r : Nat} (hw : s.egress.lists.wf {} = true) (hne : (s.radio r).state ≠ .absent) :
    ∃ b, purge r (zeroCounts r s) = { s.modRadio r (fun x => { x with
        stations := 0, subscribers := 0
        drops := { x.drops with purge := bumpBy x.drops.purge (s.unsent r).length } }) with
      stations := s.stations.lowered (s.unsent r)
      egress := { s.egress with
        lists := s.egress.lists.set {} r (s.keptLists r)
        buffers := s.egress.buffers - (s.unsent r).length, bursts := s.egress.bursts - s.unsentBursts r }
      ev := { s.ev with roomFreed := b } } := by
  have hstate {x : Radio} (h : x.state ≠ .absent) : x ≠ {} := by rintro rfl; exact h rfl
  by_cases hbs : Cls.all.flatMap (fun c => (s.list r c).filter (fun b => !b.isTransmitting)) = []
  · have hunsent : s.unsent r = [] := by rw [unsent_eq, hbs]; rfl
    have hbursts : s.unsentBursts r = 0 := by rw [unsentBursts_eq, hbs]; rfl
    have hall (c : Cls) : (s.list r c).filter Burst.isTransmitting = s.list r c := by
      refine List.filter_eq_self.2 (fun b hb => ?_)
      have := List.filter_eq_nil_iff.1 (List.flatMap_eq_nil_iff.1 hbs c (by cases c <;> decide)) b hb
      simpa using this
    have hkept : s.keptLists r = s.lists r := by
      unfold State.keptLists
      rw [hall, hall, hall, hall]
      rfl
    have hlists : s.egress.lists.set {} r (s.keptLists r) = s.egress.lists := by
      rw [hkept]
      exact Table.set_get hw r
    refine ⟨s.ev.roomFreed, ?_⟩
    unfold purge
    rw [if_pos (by exact hbs), hunsent, hbursts, hlists]
    simp only [List.length_nil, bumpBy_zero, Nat.sub_zero]
    rfl
  · refine ⟨true, ?_⟩
    unfold purge
    rw [if_neg (by exact hbs)]
    have hframes : (Cls.all.flatMap (fun c => ((zeroCounts r s).list r c).filter (fun b => !b.isTransmitting))).flatMap Burst.frames
        = s.unsent r := (unsent_eq s r).symm
    have hcount : (Cls.all.flatMap (fun c => ((zeroCounts r s).list r c).filter (fun b => !b.isTransmitting))).length
        = s.unsentBursts r := (unsentBursts_eq s r).symm
    have hmod := modRadio_modRadio (s := s) (r := r) (f := fun x => { x with stations := 0, subscribers := 0 })
      (g := fun x => { x with drops := { x.drops with purge := bumpBy x.drops.purge (s.unsent r).length } })
      (hstate hne) (hstate hne)
    simp only [foldl_lowerEgress, hframes, hcount]
    rw [← hmod]
    rfl

/-! ### A radio that leaves service or is reset -/

theorem modRadio_ev (s : State) (x : Scratch) (r : Nat) (f : Radio → Radio) :
    State.modRadio { s with ev := x } r f = { s.modRadio r f with ev := x } := rfl

theorem loseDeliveries_empty {r : Nat} (hd : s.replay.deliveries = []) (hw : s.replay.waiting = []) : loseDeliveries r s = s := by
  rw [loseDeliveries_none (by rw [hd]; exact fun e he => absurd he List.not_mem_nil)]
  have : ({ s.replay with waiting := s.replay.waiting.set [] r [] } : Replay) = s.replay := by
    rw [hw, show Table.set [] ([] : Table (List Nat)) r [] = [] from rfl, ← hw]
  unfold State.setWaitList
  rw [this]

/-- What a radio's record is once it has detached its stations and purged its lists (R20, R59). -/
def Radio.emptied (n : Nat) (x : Radio) : Radio :=
  { x with stations := 0, subscribers := 0, drops := { x.drops with purge := bumpBy x.drops.purge n } }

theorem present_ne {x : Radio} (h : x.state ≠ .absent) : x ≠ {} := by
  rintro rfl
  exact h rfl

section
variable {r : Nat}

theorem detachRadio_eq (hu : s.Undisturbed) (hne : (s.radio r).state ≠ .absent) : ∃ b, detachRadio r s
    = { s.withoutRadio r (Radio.emptied (s.unsent r).length) with ev := { s.ev with roomFreed := b } } := by
  obtain ⟨hctx, hdrain, hdel, hwait, -, hsort, hwf⟩ := hu
  have hres : resolveHandoffs r (detachAll r s) = clearMarksOf r { s with stations := s.detached r } := by
    rw [detachAll_eq hdrain hsort]
    unfold resolveHandoffs
    rw [show State.roam { s with stations := s.detached r } = s.roam from rfl, hctx]
    rfl
  obtain ⟨b, hb⟩ := purge_eq (s := clearMarksOf r { s with stations := s.detached r }) (r := r) hwf hne
  refine ⟨b, ?_⟩
  unfold detachRadio
  rw [hres, hb, loseDeliveries_empty (by exact hdel) (by exact hwait), withoutRadio_eq]
  rfl

/-- Changing a radio's record before it is left and after it makes one change (R20). -/
theorem withoutRadio_modRadio {f g : Radio → Radio} (hf : f (s.radio r) ≠ {}) (hg : g (f (s.radio r)) ≠ {}) :
    (s.modRadio r f).withoutRadio r g = s.withoutRadio r (fun x => g (f x)) := by
  rw [withoutRadio_eq, withoutRadio_eq]
  have hcomm : (s.modRadio r f).vacated r = (s.vacated r).modRadio r f := rfl
  rw [hcomm]
  exact modRadio_modRadio hf hg

theorem modRadio_withoutRadio {f g : Radio → Radio} (hf : f (s.radio r) ≠ {}) (hg : g (f (s.radio r)) ≠ {}) :
    (s.withoutRadio r f).modRadio r g = s.withoutRadio r (fun x => g (f x)) := by
  rw [withoutRadio_eq, withoutRadio_eq]
  exact modRadio_modRadio hf hg

theorem withoutRadio_congr {f g : Radio → Radio} (h : f (s.radio r) = g (s.radio r)) : s.withoutRadio r f = s.withoutRadio r g := by
  rw [withoutRadio_eq, withoutRadio_eq]
  exact modRadio_congr h

theorem radio_withoutRadio {f : Radio → Radio} (hf : f (s.radio r) ≠ {}) : (s.withoutRadio r f).radio r = f (s.radio r) := by
  rw [withoutRadio_eq]
  exact (modRadio_radio hf r).trans (if_pos rfl)

/-- A radio's record as it leaves service (R20, R61). -/
def Radio.outOfService (state : RadioState) (n : Nat) (x : Radio) : Radio :=
  { x with
    state := state, noted := false, stations := 0, subscribers := 0, waiting := [], wake := none
    drops := { x.drops with purge := bumpBy x.drops.purge n } }

theorem leaveService_eq {state : RadioState} (hu : s.Undisturbed) (hnew : state ≠ .absent) : ∃ b, leaveService r state s
    = { s.withoutRadio r (Radio.outOfService state (s.unsent r).length) with ev := { s.ev with roomFreed := b } } := by
  have hne : ((s.modRadio r (fun x => { x with state := state, noted := false })).radio r).state ≠ .absent := by
    rw [modRadio_radio (present_ne hnew), if_pos rfl]
    exact hnew
  obtain ⟨b, hb⟩ := detachRadio_eq (s := s.modRadio r (fun x => { x with state := state, noted := false })) (r := r) hu hne
  refine ⟨b, ?_⟩
  unfold leaveService
  rw [hb, withoutRadio_modRadio (present_ne hnew) (present_ne hnew)]
  have hlast : (s.withoutRadio r (fun x => Radio.emptied (s.unsent r).length { x with state := state, noted := false })).modRadio r
      (fun x => { x with waiting := [], wake := none }) = s.withoutRadio r (Radio.outOfService state (s.unsent r).length) :=
    modRadio_withoutRadio (present_ne hnew) (present_ne hnew)
  have hunsent : (s.modRadio r (fun x => { x with state := state, noted := false })).unsent r = s.unsent r := rfl
  rw [modRadio_ev, hunsent, hlast]
  rfl

/-- A radio's record as RADIO_RESET leaves it (R21, R61). -/
def Radio.afterReset (credit : Int) (now : Time) (x : Radio) : Radio :=
  { x with
    state := if x.state = .disabled then .disabled else .inService
    stations := 0, subscribers := 0, strikes := 0, drops := {}, gov := {}, noted := false
    credit := credit, remainder := 0, lastRefill := now, waiting := [], wake := none }

theorem afterReset_present (credit : Int) (now : Time) (x : Radio) : (x.afterReset credit now).state ≠ .absent := by
  unfold Radio.afterReset
  simp only
  split <;> simp

theorem resetRadio_eq {c : RadioCfg} (hu : s.Undisturbed) (hne : (s.radio r).state ≠ .absent) (hc : (s.radio r).cfg = some c) :
    ∃ x : Scratch, resetRadio r s = { s.withoutRadio r (Radio.afterReset (s.gov.activeCtx.group c.group).ceiling.toNat s.venueTime)
        with ev := x }
      ∧ x.look = s.ev.look ∧ x.number = s.ev.number
      ∧ ∀ p ∈ x.ask, p ∈ s.ev.ask ∨ ((s.radio r).state = .quarantined ∧ c.port = p) := by
  obtain ⟨b, hb⟩ := detachRadio_eq hu hne
  have hgroup : s.gov.groupOf ((s.radio r).emptied (s.unsent r).length) = s.gov.activeCtx.group c.group := groupOf_cfg hc
  have hlast : (s.withoutRadio r (Radio.emptied (s.unsent r).length)).modRadio r (fun x => { s.gov.initCredit s.venueTime x with
      strikes := 0, drops := {}, gov := {}, noted := false
      state := if (s.radio r).state = .disabled then .disabled else .inService })
      = s.withoutRadio r (Radio.afterReset (s.gov.activeCtx.group c.group).ceiling.toNat s.venueTime) := by
    refine (modRadio_withoutRadio (present_ne hne) (present_ne ?_)).trans (withoutRadio_congr ?_)
    · simp only
      split <;> simp
    · simp only [Governor.initCredit, hgroup]
      rfl
  have hgov : (detachRadio r s).gov = s.gov := by rw [hb, withoutRadio_eq]; rfl
  have htime : (detachRadio r s).venueTime = s.venueTime := by rw [hb, withoutRadio_eq]; rfl
  unfold resetRadio
  simp only [hgov, htime]
  rw [hb, modRadio_ev, hlast]
  have hcfg : ((s.withoutRadio r (Radio.afterReset (s.gov.activeCtx.group c.group).ceiling.toNat s.venueTime)).radio r).cfg
      = some c := by
    rw [radio_withoutRadio (present_ne (afterReset_present _ _ _)), ← hc]
    rfl
  generalize s.withoutRadio r (Radio.afterReset (s.gov.activeCtx.group c.group).ceiling.toNat s.venueTime) = w at hcfg ⊢
  split
  · next hq =>
    rw [askRadio_eq]
    refine ⟨_, rfl, rfl, rfl, fun p hp => (mem_askRadio.1 hp).symm.imp id (fun h => ⟨hq, ?_⟩)⟩
    have hport : (w.radio r).cfg.map RadioCfg.port = some p := h
    rw [hcfg] at hport
    exact Option.some.inj hport
  · exact ⟨_, rfl, rfl, rfl, fun p hp => .inl hp⟩
end

/-! ### Directives that free room for which nothing waits -/

section
variable {i : Instr} {src : Addr} {tag k : Half} {d : Directive} {st : Status} {body : List Byte}

/-- Freed room is announced to nobody, and the arbiters of ports that are sending do not run. -/
theorem flush_room (hd : s.roam.drain = []) (hq : s.replay.stalled = []) (hl : s.ev.look = false)
    (ha : ∀ p ∈ s.ev.ask, (s.port p).sending.isSome = true) :
    flush s = { s with ev := { s.ev with roomFreed := false, ask := [] } } := by
  unfold flush
  rw [announce_idle hd hq, settle_none (by exact hl), runArbiters_busy (by exact ha)]

/-- A directive whose change of the part frees room, and asks only the arbiters of ports that are sending. -/
theorem exec_concluded_room {x : Scratch} (hs : s.Ready src) (hd : i.directive = some ⟨src, tag, d⟩) (hk : d.kind = k)
    (hw : i.wf = true)
    (hrun : runDirective d (s.queued ⟨src, tag, d⟩) = (some ⟨st, body⟩, { v.queued ⟨src, tag, d⟩ with ev := x }))
    (hl : x.look = false) (hn : x.number = s.ev.number) (ha : ∀ p ∈ x.ask, (v.port p).sending.isSome = true)
    (hdr : v.roam.drain = []) (hst : v.replay.stalled = []) (hm : v.mgmt = s.mgmt) (hv : v.ev = s.ev) :
    exec i s = .next (v.concluded src k tag st body) := by
  have hhead : startHead (s.queued ⟨src, tag, d⟩) = reply ⟨st, body⟩ { v.queued ⟨src, tag, d⟩ with ev := x } := by
    unfold startHead
    simp only [State.queued]
    simp only [State.queued] at hrun
    rw [hrun]
  have hgo : ¬ ((s.queued ⟨src, tag, d⟩).mgmt.queue = [] ∨ (s.queued ⟨src, tag, d⟩).mgmt.started = true) := by
    have hs' : (s.queued ⟨src, tag, d⟩).mgmt.started = s.mgmt.started := rfl
    rw [hs', hs.2.2.2]
    simp [State.queued]
  rw [← hk, exec_directive hd hw]
  unfold event finish
  rw [directiveArrives_queued tag d hs.2, flush_quiet (show (s.queued ⟨src, tag, d⟩).Quiet from hs.1)]
  unfold runQueue
  rw [if_neg hgo, hhead, flush_room (by exact hdr) (by exact hst) (by exact hl) (by exact ha), runQueue_settled (Or.inl rfl)]
  unfold closeEvent State.concluded State.ended State.replied reply State.sendUplink State.modMgmt
  simp only [State.queued, State.arrived, hn, hm, hv, hs.2.2.1, hs.2.2.2]
end

/-! ### A radio quarantined (R179) -/

/-- A notice reads and changes neither the bookkeeping nor the roam engine. -/
theorem notice_with (k : NoticeKind) (b : List Byte) (s : State) (x : Scratch) (m : Roam) :
    notice k b { s with ev := x, roam := m } = { notice k b s with ev := x, roam := m } := by
  unfold notice
  by_cases he : (s.noticeEntry (s.noticeEntryOf k)).enable = false
  · rw [if_pos he, if_pos (by exact he)]
    rfl
  · by_cases hm : (s.noticeEntry (s.noticeEntryOf k)).mask = true
    · rw [if_neg he, if_neg (by exact he), if_pos hm, if_pos (by exact hm)]
      rfl
    · rw [if_neg he, if_neg (by exact he), if_neg hm, if_neg (by exact hm)]
      rfl

theorem notice_ev (k : NoticeKind) (b : List Byte) (s : State) (x : Scratch) :
    notice k b { s with ev := x } = { notice k b s with ev := x } := by
  refine (notice_with k b s x s.roam).trans ?_
  obtain ⟨tx, es, h⟩ := notice_only k b s
  rw [h]

theorem notice_roam (k : NoticeKind) (b : List Byte) (s : State) (m : Roam) :
    notice k b { s with roam := m } = { notice k b s with roam := m } := by
  refine (notice_with k b s s.ev m).trans ?_
  obtain ⟨tx, es, h⟩ := notice_only k b s
  rw [h]

/-- The QUARANTINE notice is sent and counted (R179). -/
def State.quarantineTold (s : State) (r strikes : Nat) (c : ErrClass) : State :=
  let told := notice .quarantine (be 1 r ++ be 1 c.code ++ be 2 strikes ++ be 6 s.venueTime.toNat) s
  { told with err := { told.err with quarantines := bump told.err.quarantines } }

theorem takeOccurrence_threshold (o : Occurrence) (s : State) : (takeOccurrence o s).err.threshold = s.err.threshold := by
  unfold takeOccurrence
  simp only
  split
  · rfl
  · obtain ⟨tx, es, h⟩ := notice_only .error (errorBody o (s.setErrState o.cls { s.errState o.cls with
        status := true, count := bump (s.errState o.cls).count }).venueTime (bump (s.errState o.cls).count))
      (recordFirst o (s.setErrState o.cls { s.errState o.cls with status := true, count := bump (s.errState o.cls).count }))
    rw [h]
    unfold recordFirst
    split <;> rfl

theorem quarantineTold_only (s : State) (r n : Nat) (c : ErrClass) : ∃ tx e,
    s.quarantineTold r n c = { s with uplink := { s.uplink with tx := tx }, err := e } := by
  obtain ⟨tx, es, h⟩ := notice_only .quarantine (be 1 r ++ be 1 c.code ++ be 2 n ++ be 6 s.venueTime.toNat) s
  unfold State.quarantineTold
  rw [h]
  exact ⟨_, _, rfl⟩

section
variable {r : Nat} {c : ErrClass}

theorem quarantine_eq (hu : s.Undisturbed) (hd : s.ev.deferring = false) (hl : s.ev.deferred = []) : ∃ b, quarantine r c s
    = { (s.withoutRadio r (Radio.outOfService .quarantined (s.unsent r).length)).quarantineTold r (s.radio r).strikes c with
        ev := { s.ev with roomFreed := b } } := by
  obtain ⟨b, hb⟩ := leaveService_eq (s := { s with ev := { s.ev with deferring := true } }) (r := r) (state := .quarantined) hu
    (by simp)
  refine ⟨b, ?_⟩
  have hstrikes : ((s.withoutRadio r (Radio.outOfService .quarantined (s.unsent r).length)).radio r).strikes
      = (s.radio r).strikes := by
    rw [radio_withoutRadio (present_ne (by simp [Radio.outOfService]))]
    rfl
  have hsame (x : Scratch) : State.withoutRadio { s with ev := x } r (Radio.outOfService .quarantined (s.unsent r).length)
      = { s.withoutRadio r (Radio.outOfService .quarantined (s.unsent r).length) with ev := x } := by
    rw [withoutRadio_eq, withoutRadio_eq]
    rfl
  have hunsent (x : Scratch) : State.unsent { s with ev := x } r = s.unsent r := rfl
  rw [hunsent, hsame] at hb
  unfold quarantine
  rw [hb]
  generalize s.withoutRadio r (Radio.outOfService .quarantined (s.unsent r).length) = w at hstrikes ⊢
  unfold quarantineNotice State.quarantineTold
  have hr (x : Scratch) : (State.radio { w with ev := x } r).strikes = (s.radio r).strikes := hstrikes
  simp only [notice_ev, hr, hd, hl, List.foldl_nil]

/-- An error that charges the last strike is its occurrence, and the radio's quarantine (R178, R179). -/
theorem raiseError_quarantines {o : Occurrence} (hd : s.ev.deferring = false) (ho : o.radio = some r)
    (hc : s.charges o.cls r = true) (ht : s.err.threshold ≤ min ((s.radio r).strikes + 1) 255) :
    raiseError o s = quarantine r o.cls ((takeOccurrence o s).modRadio r
      (fun x => { x with strikes := min ((s.radio r).strikes + 1) 255 })) := by
  unfold State.charges at hc
  simp only [Bool.and_eq_true, Bool.not_eq_true'] at hc
  obtain ⟨⟨⟨hq, hm⟩, hv⟩, hin⟩ := hc
  have hrad : (takeOccurrence o s).radio r = s.radio r := by
    obtain ⟨tx, e, h⟩ := takeOccurrence_only o s
    rw [h]
    rfl
  have hin' : (takeOccurrence o s).inService r = true := by
    unfold State.inService at hin ⊢
    rw [hrad]
    exact hin
  have hthr : (takeOccurrence o s).err.threshold = s.err.threshold := takeOccurrence_threshold o s
  unfold raiseError
  simp only [ho, occur_now hd, hq, hm, hv, Bool.not_false, Bool.and_self, if_true]
  unfold strike
  rw [if_pos hin', hrad, hthr]
  exact if_pos ht
end

/-! ### What a radio's leaving keeps -/

section
variable {r : Nat} {g : Radio → Radio}

theorem withoutRadio_queued (s : State) (e : MgmtEntry) (r : Nat) (g : Radio → Radio) :
    (s.queued e).withoutRadio r g = (s.withoutRadio r g).queued e := by
  rw [withoutRadio_eq, withoutRadio_eq]
  rfl

theorem withoutRadio_only (s : State) (r : Nat) (g : Radio → Radio) : ∃ st rs eg marks, s.withoutRadio r g
    = { s with stations := st, radios := rs, egress := eg, roam := { s.roam with marks := marks } } := by
  rw [withoutRadio_eq]
  exact ⟨_, _, _, _, rfl⟩
end

/-- A directive by which a radio leaves service or is reset (R20, R21). -/
theorem exec_withoutRadio {i : Instr} {src : Addr} {tag k : Half} {d : Directive} {r : Nat} {g : Radio → Radio} {x : Scratch}
    (hu : s.Undisturbed) (hs : s.Ready src) (hd : i.directive = some ⟨src, tag, d⟩) (hk : d.kind = k) (hw : i.wf = true)
    (hrun : runDirective d (s.queued ⟨src, tag, d⟩)
      = answered .done { (s.queued ⟨src, tag, d⟩).withoutRadio r g with ev := x })
    (hl : x.look = s.ev.look) (hn : x.number = s.ev.number) (ha : ∀ p ∈ x.ask, p ∈ s.ev.ask ∨ (s.port p).sending.isSome = true) :
    exec i s = .next ((s.withoutRadio r g).concluded src k tag .done []) := by
  obtain ⟨-, hdrain, -, -, hstall, -, -⟩ := hu
  obtain ⟨st, rs, eg, marks, honly⟩ := withoutRadio_only s r g
  rw [withoutRadio_queued] at hrun
  refine exec_concluded_room hs hd hk hw hrun (hl.trans (quiet_look hs.1)) hn (fun p hp => ?_) ?_ ?_ ?_ ?_
  · rw [honly]
    refine (ha p hp).resolve_left ?_
    rw [quiet_ask hs.1]
    exact List.not_mem_nil
  · rw [honly]; exact hdrain
  · rw [honly]; exact hstall
  · rw [honly]
  · rw [honly]

theorem takeMalformed_present {b : Byte} {rest : List Byte} (h : (s.radio b.toNat).state ≠ .absent) :
    takeMalformed (b :: rest) s = raiseError (anError .carrierMalformed (some b.toNat) (b :: rest)) s := by
  unfold takeMalformed
  simp only [h, if_false]
  rfl

/-- The malformed frame that charges the last strike (R179). -/
theorem exec_malformed_quarantines {p : Fin 4} {radio : Byte} {rest : List Byte} {k : Nat} {hit : State} (hu : s.Undisturbed)
    (hb : s.Between) (hparse : parseCarrier (radio :: rest) = none) (hch : s.charges .carrierMalformed radio.toNat = true)
    (hk : k = min ((s.radio radio.toNat).strikes + 1) 255)
    (hhit : hit = takeOccurrence (anError .carrierMalformed (some radio.toNat) (radio :: rest)) (s.portHeard p.val))
    (ht : s.err.threshold ≤ k) : exec (.malformedCarrierFrame p (radio :: rest)) s
      = .next ((hit.withoutRadio radio.toNat (fun x => Radio.outOfService .quarantined (s.unsent radio.toNat).length
          { x with strikes := k })).quarantineTold radio.toNat k .carrierMalformed).ended := by
  have hd := heard_deferring hb p.val
  have hne : (s.radio radio.toNat).state ≠ .absent := by
    unfold State.charges State.inService at hch
    rw [Bool.and_eq_true, decide_eq_true_iff] at hch
    rw [hch.2]
    simp
  obtain ⟨tx, e, honly⟩ := takeOccurrence_only (anError .carrierMalformed (some radio.toNat) (radio :: rest)) (s.portHeard p.val)
  rw [← hhit] at honly
  have hpresent (w : Radio → Radio) : (Radio.outOfService .quarantined (s.unsent radio.toNat).length (w (hit.radio radio.toNat)))
      ≠ {} := present_ne (by simp [Radio.outOfService])
  have hstruck : { hit.radio radio.toNat with strikes := k } ≠ ({} : Radio) := fun h => by
    have := congrArg Radio.strikes h
    simp only at this
    omega
  have hstrikes : ((hit.modRadio radio.toNat (fun x => { x with strikes := k })).radio radio.toNat).strikes = k := by
    rw [modRadio_radio hstruck, if_pos rfl]
  have hevent : (hit.modRadio radio.toNat (fun x => { x with strikes := k })).ev = { number := s.ev.number } := by
    rw [honly]
    exact hb.1
  obtain ⟨b, hq⟩ := quarantine_eq (s := hit.modRadio radio.toNat (fun x => { x with strikes := k })) (r := radio.toNat)
    (c := .carrierMalformed) (by rw [honly]; exact hu) (by rw [hevent]) (by rw [hevent])
  have hunsent : (hit.modRadio radio.toNat (fun x => { x with strikes := k })).unsent radio.toNat = s.unsent radio.toNat := by
    rw [honly]
    rfl
  rw [hstrikes, hunsent, hevent, withoutRadio_modRadio hstruck (hpresent _)] at hq
  have hrun : takeCarrierBytes p.val (radio :: rest) s = { (hit.withoutRadio radio.toNat (fun x =>
      Radio.outOfService .quarantined (s.unsent radio.toNat).length { x with strikes := k })).quarantineTold radio.toNat k
        .carrierMalformed with ev := { number := s.ev.number, roomFreed := b } } := by
    have hr : ((s.portHeard p.val).radio radio.toNat).state ≠ .absent := hne
    have herr := raiseError_quarantines (s := s.portHeard p.val) (o := anError .carrierMalformed (some radio.toNat) (radio :: rest))
      hd rfl hch (by rw [hk] at ht; exact ht)
    rw [← hq, hk, hhit]
    refine Eq.trans ?_ herr
    unfold takeCarrierBytes
    rw [hparse]
    exact takeMalformed_present hr
  obtain ⟨st, rs, eg, marks, hout⟩ := withoutRadio_only hit radio.toNat (fun x =>
      Radio.outOfService .quarantined (s.unsent radio.toNat).length { x with strikes := k })
  rw [show exec (.malformedCarrierFrame p (radio :: rest)) s = event (takeCarrierBytes p.val (radio :: rest)) s from rfl]
  unfold event
  rw [hrun, hout]
  obtain ⟨tx', es, htold⟩ := quarantineTold_only ({ hit with
    stations := st, radios := rs, egress := eg, roam := { hit.roam with marks := marks } } : State) radio.toNat k .carrierMalformed
  have hevh : hit.ev = { number := s.ev.number } := hevent
  rw [htold, finish_asked (by rw [honly]; exact hu.2.1) (by rw [honly]; exact hu.2.2.2.2.1) (by rw [honly]; exact hb.2)]
  simp only [State.ended, hevh]
  rfl

end Sys2Proof.Machine
end

section
/-! A radio lost to a handoff (R42) and to its deliveries (R157); and the settlement of what becomes of a radio that leaves service. -/

-- One proof at a time: the threads of the default would not fit the memory the check allows.
set_option Elab.async false

open Sys2Proof

namespace Sys2Proof.Machine

variable {s t u v : State}

/-! ### Offers and the roam engine -/

theorem recordFirst_roam (o : Occurrence) (s : State) (m : Roam) :
    recordFirst o { s with roam := m } = { recordFirst o s with roam := m } := by
  unfold recordFirst
  cases hf : s.err.first <;> simp only [hf]

theorem takeOccurrence_roam (o : Occurrence) (s : State) (m : Roam) :
    takeOccurrence o { s with roam := m } = { takeOccurrence o s with roam := m } := by
  unfold takeOccurrence
  by_cases hm : (s.errState o.cls).masked = true
  · simp only [show (State.errState { s with roam := m } o.cls) = s.errState o.cls from rfl, hm, if_true]
    rfl
  · simp only [show (State.errState { s with roam := m } o.cls) = s.errState o.cls from rfl, hm, if_false, Bool.false_eq_true]
    have hset (v : ErrState) : State.setErrState { s with roam := m } o.cls v = { s.setErrState o.cls v with roam := m } := rfl
    rw [hset, recordFirst_roam]
    exact notice_roam _ _ _ m

theorem occur_roam (o : Occurrence) (s : State) (m : Roam) : occur o { s with roam := m } = { occur o s with roam := m } := by
  unfold occur
  by_cases hd : s.ev.deferring = true
  · rw [if_pos hd, if_pos (by exact hd)]
  · rw [if_neg hd, if_neg (by exact hd), takeOccurrence_roam]

theorem askIfEligible_roam (r : Nat) (c : Cls) (was new : List Burst) (b : Bool) (s : State) (m : Roam) :
    askIfEligible r c was new b { s with roam := m } = { askIfEligible r c was new b s with roam := m } := by
  have hcfg : (State.radio { s with roam := m } r).cfg = (s.radio r).cfg := rfl
  unfold askIfEligible State.askRadio
  rw [hcfg]
  cases (s.radio r).cfg with
  | none => simp only [ite_self]
  | some c =>
    simp only [State.askPort]
    by_cases hc : s.ev.ask.contains c.port = true
    · simp only [hc, if_true, ite_self]
    · simp only [hc, if_false, Bool.false_eq_true]
      split <;> rfl

section
variable {sort : OfferSort} {r : Nat} {c : Cls} {f : Frame}

theorem acceptFrame_roam (hf : f.handle = none) (r : Nat) (c : Cls) (l : List Burst) (opened : Bool) (s : State) (m : Roam) :
    acceptFrame r c f l opened { s with roam := m } = { acceptFrame r c f l opened s with roam := m } := by
  unfold acceptFrame
  simp only [hf, raiseEgress]
  exact askIfEligible_roam r c (s.list r c) l false { s.setList r c l with egress := { (s.setList r c l).egress with
    buffers := (s.setList r c l).egress.buffers + 1
    bursts := (s.setList r c l).egress.bursts + (if opened then 1 else 0)
    accepted := bump (s.setList r c l).egress.accepted } } m

/-- An offer of a frame without a handle neither reads nor changes the roam engine. -/
theorem offer_roam (hf : f.handle = none) (sort : OfferSort) (r : Nat) (c : Cls) (s : State) (m : Roam) :
    offer sort r c f { s with roam := m } = ((offer sort r c f s).1, { (offer sort r c f s).2 with roam := m }) := by
  have hplace : place { s with roam := m } r c f = place s r c f := rfl
  have hin : State.inService { s with roam := m } r = s.inService r := rfl
  unfold offer
  rw [hplace, hin]
  split
  · rfl
  · split
    · exact congrArg (Prod.mk _) (acceptFrame_roam hf _ _ _ _ s m)
    · cases sort with
      | declinable => rfl
      | droppable => exact congrArg (Prod.mk _) (occur_roam _
          (s.modRadio r (fun x => { x with drops := { x.drops with overflow := bump x.drops.overflow } })) m)

/-- An offer keeps the configuration of every radio. -/
theorem offer_cfg (hf : f.handle = none) (sort : OfferSort) (r : Nat) (c : Cls) (s : State) (q : Nat) :
    ((offer sort r c f s).2.radio q).cfg = (s.radio q).cfg := by
  unfold offer
  split
  · refine (modRadio_calm (fun h => ?_) rfl).cfgs q
    exact bump_ne_zero _ (congrArg (fun x : Radio => x.drops.notInService) h)
  · split
    · unfold acceptFrame
      rw [hf]
      obtain ⟨ev, h⟩ := askIfEligible_only r c (s.list r c) _ false _
      rw [h]
      rfl
    · cases sort with
      | declinable => rfl
      | droppable =>
        obtain ⟨up, e, ev, h⟩ := occur_only { cls := .egressOverflow, radio := some r, frame := some (f.offered r) }
          (s.modRadio r (fun x => { x with drops := { x.drops with overflow := bump x.drops.overflow } }))
        simp only [h]
        exact dropped_calm.cfgs q
end

theorem told_roam (s : State) (m : Roam) (q : Nat) (a : Addr) (code : Byte) :
    ∃ k, State.told { s with roam := m } q a code
      = { (offer .droppable q .admission (serviceFrame a code []) s).2 with roam := { m with ctrs := k } }
      ∧ k = if (offer .droppable q .admission (serviceFrame a code []) s).1 = .accepted then m.ctrs
        else { m.ctrs with lostMessages := bump m.ctrs.lostMessages } := by
  unfold State.told
  rw [offer_roam rfl]
  simp only
  split
  · exact ⟨_, rfl, rfl⟩
  · exact ⟨_, rfl, rfl⟩

/-! ### A handoff resolved -/

section
variable {h x y lost : Nat} {st : Station} {ctx : RoamCtx}

theorem endUnattached_eq (hs : s.station h = some st) : endUnattached h x s
    = { s.setStation h { st with
        state := .unattached, current := none, target := none, linger := s.lingerFrom st } with
      roam := { s.roam with ctxs := s.roam.ctxs.del h } }.modRadio x (fun q => { q with stations := q.stations - 1 }) := by
  have hs' : (dropContext h s).station h = some st := hs
  unfold endUnattached
  rw [modStation_some hs']
  rfl

theorem countPingPong_only (hs : s.station h = some st) : ∃ n d m, countPingPong h s
    = (s.setStation h { st with pingPong := n, damped := d }).modRoamCtrs (fun k => { k with damped := m }) := by
  by_cases ht : s.roam.settings.threshold ≤ st.pingPong + 1
  · exact ⟨_, _, _, countPingPong_damps hs ht⟩
  · exact ⟨_, st.damped, s.roam.ctrs.damped, countPingPong_below hs (Nat.not_le.1 ht)⟩

/-- The ping-pong rule changes its own fields and counts a damping. -/
theorem pingPongAtCompletion_only (hs : s.station h = some st) : ∃ n d m, pingPongAtCompletion h y s
    = (s.setStation h { st with pingPong := n, damped := d }).modRoamCtrs (fun k => { k with damped := m }) := by
  by_cases hb : ∃ t, st.previous = some y ∧ st.lastRoam = some t ∧ elapsed s.venueTime t ≤ s.roam.settings.windowS * 1000000
  · obtain ⟨t, hp, ht, hw⟩ := hb
    rw [pingPongAtCompletion_back hs hp ht hw]
    exact countPingPong_only hs
  · exact ⟨0, st.damped, s.roam.ctrs.damped, pingPongAtCompletion_other hs hb⟩

/-- A completion with nothing held and no subscription (R33). -/
theorem completeHandoff_eq (hs : s.station h = some st) (hh : st.hold = []) (hsub : st.sub = none) (hxy : x ≠ y) :
    ∃ st' rs m, completeHandoff h x y s = { s with
        stations := s.stations.put h st', radios := rs
        roam := { s.roam with ctxs := s.roam.ctxs.del h, ctrs := { s.roam.ctrs with damped := m } } }
      ∧ st'.state = .attached ∧ st'.current = some y ∧ st'.target = none ∧ st'.previous = some x
      ∧ st'.lastRoam = some s.venueTime ∧ st'.standing = s.standingOf { st with current := some y } := by
  have hs' : (dropContext h s).station h = some st := hs
  obtain ⟨n, d, m, hpp⟩ := pingPongAtCompletion_only (y := y) hs'
  unfold completeHandoff
  simp only [hpp]
  rw [modStation_some (by exact station_setStation_self (dropContext h s) h _)]
  generalize hst2 : ({ st with
    previous := some x, lastRoam := some s.venueTime, current := some y, target := none, state := .attached
    pingPong := n, damped := d } : Station) = st2
  have hbase : (((dropContext h s).setStation h { st with pingPong := n, damped := d }).modRoamCtrs
      (fun k => { k with damped := m })).setStation h st2 = { s with
        stations := s.stations.put h st2
        roam := { s.roam with ctxs := s.roam.ctxs.del h, ctrs := { s.roam.ctrs with damped := m } } } := by
    unfold State.setStation
    simp only [State.modRoamCtrs, Table.put_put]
    rfl
  rw [hbase]
  generalize hw : moreStations y (lessStations x { s with
    stations := s.stations.put h st2
    roam := { s.roam with ctxs := s.roam.ctxs.del h, ctrs := { s.roam.ctrs with damped := m } } }) = w
  have hwst : w.station h = some st2 := by rw [← hw]; exact Table.find_put_self h st2 s.stations
  have hwsub : st2.sub = none := by rw [← hst2]; exact hsub
  have hwhold : st2.hold = [] := by rw [← hst2]; exact hh
  have hstanding : w.standingOf st2 = s.standingOf { st with current := some y } := by
    refine standingOf_congr (fun q hq => ?_) (by rw [← hst2]) (by rw [← hst2])
    obtain rfl : y = q := Option.some.inj hq
    rw [← hw, (moreStations_calm _ y).cfgs y]
    unfold lessStations State.modRadio State.setRadio State.radio
    rw [Table.get_set_ne (Ne.symm hxy)]
  obtain ⟨cl, p, hder⟩ := rederive_only { st2 with standing := w.standingOf st2 }
  rw [recompute_eq hwst hwsub, hder, resumeSub_none (by exact station_setStation_self w h _) (by exact hwsub),
    drain_none (by exact station_setStation_self w h _) (by exact hwhold)]
  refine ⟨{ st2 with standing := w.standingOf st2, cls := cl, pendingCls := p }, w.radios, m, ?_, ?_⟩
  · rw [← Table.put_put s.stations h st2, ← hw]
    rfl
  · rw [← hst2]
    exact ⟨rfl, rfl, rfl, rfl, rfl, by rw [hst2]; exact hstanding⟩

/-- A handoff ended on its old radio, with nothing held and no subscription (R42). -/
theorem endOnOld_eq {o : Offered × State} (hs : s.station h = some st) (hh : st.hold = []) (hsub : st.sub = none)
    (ho : o = offer .droppable x .admission (serviceFrame st.addr codeKeep []) s) :
    endOnOld h x s = { o.2 with
      stations := s.stations.put h ({ st with
        state := .attached, target := none, standing := s.standingOf st } : Station).rederive
      roam := { s.roam with
        ctxs := s.roam.ctxs.del h, marks := s.roam.marks.put h x
        ctrs := { s.roam.ctrs with lostMessages :=
          if o.1 = .accepted then s.roam.ctrs.lostMessages else bump s.roam.ctrs.lostMessages } } } := by
  obtain ⟨k, htold, hk⟩ := told_roam s { s.roam with ctxs := s.roam.ctxs.del h } x st.addr codeKeep
  rw [← ho] at htold hk
  have hk' : k = { s.roam.ctrs with lostMessages :=
      if o.1 = .accepted then s.roam.ctrs.lostMessages else bump s.roam.ctrs.lostMessages } := by
    rw [hk]
    split <;> rfl
  have hcfg (q : Nat) : (o.2.radio q).cfg = (s.radio q).cfg := by
    rw [ho]
    exact offer_cfg rfl _ _ _ s q
  have hstations : o.2.stations = s.stations := by
    obtain ⟨_, _, _, _, _, h⟩ := offer_unowned (f := serviceFrame st.addr codeKeep []) rfl .droppable x .admission s
    rw [ho, h]
  have hdrop : dropContext h s = { s with roam := { s.roam with ctxs := s.roam.ctxs.del h } } := rfl
  unfold endOnOld
  simp only [hs, sendRoam_eq]
  rw [hdrop, htold]
  generalize hw : setMark h x { o.2 with roam := { s.roam with ctxs := s.roam.ctxs.del h, ctrs := k } } = w
  have hwst : w.station h = some st := by
    rw [← hw]
    show o.2.stations.find h = some st
    rw [hstations]
    exact hs
  rw [modStation_some hwst]
  have hstanding : (w.setStation h { st with target := none, state := .attached }).standingOf
      { st with target := none, state := .attached } = s.standingOf st := by
    refine standingOf_congr (fun q _ => ?_) rfl rfl
    rw [← hw]
    exact hcfg q
  obtain ⟨cl, p, hder⟩ := rederive_only { st with state := .attached, target := none, standing := s.standingOf st }
  rw [recompute_eq (by exact station_setStation_self w h _) (by exact hsub), hstanding, setStation_setStation, hder,
    resumeSub_none (by exact station_setStation_self w h _) (by exact hsub),
    drain_none (by exact station_setStation_self w h _) (by exact hh), ← hstations, ← hk', ← hw]
  rfl

/-! ### The one handoff resolved -/

theorem resolveHandoffs_one (hctx : s.roam.ctxs = [(h, ctx)]) :
    resolveHandoffs lost s = clearMarksOf lost (resolveOne lost h s) := by
  unfold resolveHandoffs
  rw [hctx]
  rfl

/-- The loss of a radio to a handoff is counted (R42). -/
def State.lossCounted (s : State) : State := s.modRoamCtrs (fun k => { k with resolvedByLoss := bump k.resolvedByLoss })

theorem resolveOne_old (hs : s.station h = some st) (ha : st.state = .handoff) (hc : st.current = some x)
    (ht : st.target = some y) : resolveOne x h s
      = if s.inService y then completeHandoff h x y s.lossCounted else endUnattached h x s.lossCounted := by
  unfold resolveOne
  simp only [hs, ha, hc, ht, if_true]
  rfl

theorem resolveOne_target (hs : s.station h = some st) (ha : st.state = .handoff) (hc : st.current = some x)
    (ht : st.target = some y) (hxy : x ≠ y) : resolveOne y h s
      = if s.inService x then endOnOld h x s.lossCounted else endUnattached h x s.lossCounted := by
  unfold resolveOne
  simp only [hs, ha, hc, ht, if_true, if_neg (Ne.symm hxy)]
  rfl

theorem find_filter {α : Type} {t : Table α} {k : Nat} {v : α} {p : Nat × α → Bool} (hf : t.find k = some v) (hp : p (k, v) = true) :
    Table.find (t.filter p) k = some v := by
  induction t with
  | nil => cases hf
  | cons e t ih =>
    obtain ⟨k', v'⟩ := e
    by_cases hk : k = k'
    · subst hk
      have hv : v' = v := by simpa [Table.find] using hf
      subst hv
      rw [List.filter_cons_of_pos hp]
      simp [Table.find]
    · have hf' : Table.find t k = some v := by simpa [Table.find, hk] using hf
      cases hp' : p (k', v') with
      | true => rw [List.filter_cons_of_pos hp']; simp [Table.find, hk, ih hf']
      | false => rw [List.filter_cons_of_neg (by simp [hp'])]; exact ih hf'

theorem marks_clearMarksOf (r : Nat) (s : State) : ∀ e ∈ (clearMarksOf r s).roam.marks, e.2 ≠ r :=
  fun _ he => of_decide_eq_true (List.mem_filter.1 he).2
end

/-! ### Deliveries lost -/

section
variable {r : Nat}

theorem serveOthers_none (hw : ∀ e ∈ s.replay.waiting, e.1 = r) : serveOthers r s = s := by
  have : s.replay.waiting.filter (fun e => decide (e.1 ≠ r) && !e.2.isEmpty) = [] :=
    List.filter_eq_nil_iff.2 (fun e he => by simp [hw e he])
  unfold serveOthers otherLists
  rw [this]
  rfl

/-- What the loss of some deliveries leaves (R157). -/
def State.deliveriesLost (s : State) (r : Nat) (l : Table Delivery) : State :=
  { s.modRadio r (fun x => { x with rep := { x.rep with abandoned := bumpBy x.rep.abandoned l.length } }) with
    replay := { s.replay with
      deliveries := [], stalled := s.replay.stalled.filter (fun d => decide (∀ e ∈ l, e.1 ≠ d)) } }

theorem dropDelivery_head {k : Nat} {v : Delivery} {l : Table Delivery} (hd : s.replay.deliveries = (k, v) :: l) (hv : v.radio = r) :
    dropDelivery k s = { s.modRadio r (fun x => { x with rep := { x.rep with abandoned := bump x.rep.abandoned } }) with
      replay := { s.replay with deliveries := l, stalled := s.replay.stalled.filter (fun d => decide (d ≠ k)) } } := by
  have hfind : s.delivery k = some v := by
    unfold State.delivery
    rw [hd]
    simp [Table.find]
  have hdel : s.replay.deliveries.del k = l := by
    rw [hd]
    simp [Table.del]
  unfold dropDelivery
  simp only [hfind, freeDelivery, State.modReplay, hdel, hv]
  rfl

theorem abandoned_ne {x : Radio} {c : Ctr} (h : x.rep.abandoned = bump c) : x ≠ {} := by
  rintro rfl
  exact bump_ne_zero c h.symm

theorem foldl_dropDelivery (l : Table Delivery) (hl : l ≠ []) (hd : s.replay.deliveries = l) (hr : ∀ e ∈ l, e.2.radio = r)
    (hw : ∀ e ∈ s.replay.waiting, e.1 = r) :
    (l.map Prod.fst).foldl (fun s d => serveOthers r (dropDelivery d s)) s = s.deliveriesLost r l := by
  induction l generalizing s with
  | nil => exact absurd rfl hl
  | cons e l ih =>
    obtain ⟨k, v⟩ := e
    rw [List.map_cons, List.foldl_cons, dropDelivery_head hd (hr _ List.mem_cons_self), serveOthers_none (by exact hw)]
    have hbump (c : Ctr) (n : Nat) : bumpBy c (n + 1) = bump (bumpBy c n) := (bumpBy_bumpBy c n 1).symm
    by_cases hnil : l = []
    · subst hnil
      unfold State.deliveriesLost
      simp [bump, eq_comm]
    · rw [ih hnil (by rfl) (fun e he => hr e (List.mem_cons_of_mem _ he)) (by exact hw)]
      have hmod := modRadio_modRadio (s := s) (r := r)
        (f := fun x => { x with rep := { x.rep with abandoned := bump x.rep.abandoned } })
        (g := fun x => { x with rep := { x.rep with abandoned := bumpBy x.rep.abandoned l.length } })
        (abandoned_ne (c := (s.radio r).rep.abandoned) rfl)
        (abandoned_ne (c := bumpBy (bump (s.radio r).rep.abandoned) (l.length - 1)) (by
          rw [← hbump, Nat.sub_add_cancel (List.length_pos_iff.2 hnil)]))
      have hstalled : (s.replay.stalled.filter (fun d => decide (d ≠ k))).filter (fun d => decide (∀ e ∈ l, e.1 ≠ d))
          = s.replay.stalled.filter (fun d => decide (∀ e ∈ (k, v) :: l, e.1 ≠ d)) := by
        rw [List.filter_filter]
        refine List.filter_congr (fun d _ => ?_)
        rw [← Bool.decide_and, decide_eq_decide, List.forall_mem_cons, and_comm]
        exact and_congr_left' ne_comm
      have hlen : (fun x : Radio => { x with rep := { x.rep with abandoned := bumpBy (bump x.rep.abandoned) l.length } })
          = fun x => { x with rep := { x.rep with abandoned := bumpBy x.rep.abandoned ((k, v) :: l).length } } := by
        funext x
        rw [bump, bumpBy_bumpBy, Nat.add_comm, List.length_cons]
      unfold State.deliveriesLost
      rw [← hstalled, ← hlen, ← hmod]
      rfl
end

end Sys2Proof.Machine

open Sys2Proof.Machine

/-- Settles O54: what leaves the radio is `withoutRadio`, by each of the three ways; the one handoff by the radio lost and the other's
state; the deliveries one by one. -/
theorem radiosLeaveService : Obligations.RadiosLeaveService := by
  refine ⟨fun s radio hu => ⟨fun src tag hs hin => ?_, fun src tag c hs hne hc hbusy => ?_,
    fun p rest hb hparse hch => ?_⟩, ?_, ?_⟩
  · obtain ⟨b, hleave⟩ := leaveService_eq (s := s.queued ⟨src, tag, .radioState radio 2⟩) (r := radio.toNat) (state := .disabled) hu
      (by simp)
    refine exec_withoutRadio (d := .radioState radio 2) (k := 7) (x := { s.ev with roomFreed := b }) hu hs rfl rfl rfl ?_ rfl rfl
      (fun p hp => .inl hp)
    refine runRadioState_disable.trans ?_
    rw [show ((s.queued _).radio radio.toNat).state = .inService from hin]
    exact congrArg (answered .done) hleave
  · obtain ⟨x, hreset, hlook, hnum, hask⟩ := resetRadio_eq (s := s.queued ⟨src, tag, .radioReset radio⟩) (r := radio.toNat) hu hne hc
    refine exec_withoutRadio (d := .radioReset radio) (k := 8) hu hs rfl rfl rfl
      ((if_neg (by exact hne)).trans (congrArg (answered .done) hreset)) hlook hnum (fun p hp => (hask p hp).imp id ?_)
    rintro ⟨hq, rfl⟩
    have := hbusy hq
    unfold State.portBusy at this
    rw [hc] at this
    exact this
  · intro k hit told hthr
    refine (exec_malformed_quarantines hu hb hparse hch rfl rfl hthr).trans ?_
    have htime : (hit.withoutRadio radio.toNat (fun x => Radio.outOfService .quarantined (s.unsent radio.toNat).length
        { x with strikes := k })).venueTime = s.venueTime := by
      obtain ⟨st, rs, eg, marks, hout⟩ := withoutRadio_only hit radio.toNat (fun x =>
        Radio.outOfService .quarantined (s.unsent radio.toNat).length { x with strikes := k })
      obtain ⟨tx, e, honly⟩ := takeOccurrence_only (anError .carrierMalformed (some radio.toNat) (radio :: rest))
        (s.portHeard p.val)
      rw [hout]
      unfold hit
      rw [honly]
      rfl
    unfold State.quarantineTold
    rw [htime]
    rfl
  · intro s lost h x y st ctx _ hctx hs ha hc ht hxy hh hsub hlost other t
    have hdel : s.roam.ctxs.del h = [] := by
      rw [hctx]
      simp [Table.del]
    have hs' : s.lossCounted.station h = some st := hs
    have hmarks : ∀ e ∈ t.roam.marks, e.2 ≠ lost := marks_clearMarksOf lost _
    have hclear : t = clearMarksOf lost (resolveOne lost h s) := resolveHandoffs_one hctx
    by_cases hin : s.inService other = true
    · have hnot : ¬ s.inService other = false := by rw [hin]; simp
      rcases hlost with rfl | rfl
      · have hother : other = y := if_pos rfl
        obtain ⟨st', rs, m, heq, h1, h2, h3, h4, h5, h6⟩ := completeHandoff_eq hs' hh hsub hxy
        rw [hother] at hin
        rw [resolveOne_old hs ha hc ht, if_pos hin, heq] at hclear
        refine ⟨by rw [hclear]; exact hdel, by rw [hclear]; rfl, hmarks, fun h => absurd h hnot, fun _ _ => ?_,
          fun _ hl => absurd hl hxy⟩
        rw [hclear]
        exact ⟨st', Table.find_put_self h st' _, h1, h2, h3, h4, h5, h6, rfl, rfl, rfl⟩
      · have hother : other = x := if_neg (Ne.symm hxy)
        have hoff := offer_roam (f := serviceFrame st.addr codeKeep []) rfl .droppable x .admission s s.lossCounted.roam
        rw [hother] at hin
        rw [resolveOne_target hs ha hc ht hxy, if_pos hin, endOnOld_eq hs' hh hsub hoff.symm] at hclear
        refine ⟨by rw [hclear]; exact hdel, by rw [hclear]; rfl, hmarks, fun h => absurd h hnot, fun _ hl => absurd hl.symm hxy,
          fun _ _ => ?_⟩
        rw [hclear]
        refine ⟨Table.find_put_self h _ _, ?_, rfl, rfl, rfl⟩
        exact find_filter (Table.find_put_self h x _) (decide_eq_true hxy)
    · have hlone : t = clearMarksOf lost (endUnattached h x s.lossCounted) := by
        rw [hclear]
        rcases hlost with rfl | rfl
        · have hother : other = y := if_pos rfl
          rw [hother] at hin
          rw [resolveOne_old hs ha hc ht, if_neg hin]
        · have hother : other = x := if_neg (Ne.symm hxy)
          rw [hother] at hin
          rw [resolveOne_target hs ha hc ht hxy, if_neg hin]
      rw [endUnattached_eq hs'] at hlone
      refine ⟨by rw [hlone]; exact hdel, by rw [hlone]; rfl, hmarks, fun _ => ?_, fun h => absurd h hin, fun h => absurd h hin⟩
      rw [hlone, ← hdel]
      rfl
  · intro s r hne _ hr hw
    have hkeys : s.replay.deliveries.filter (fun e => decide (e.2.radio = r)) = s.replay.deliveries :=
      List.filter_eq_self.2 (fun e he => decide_eq_true (hr e he))
    have hdel : s.replay.waiting.set [] r [] = s.replay.waiting.del r := if_pos rfl
    have hlost := foldl_dropDelivery (s := s.setWaitList r []) (r := r) s.replay.deliveries hne rfl hr (fun e he => by
      refine hw e (Table.mem_del (k := r) ?_)
      rw [← hdel]
      exact he)
    unfold loseDeliveries
    rw [hkeys]
    refine hlost.trans ?_
    unfold State.deliveriesLost State.setWaitList
    rw [hdel]
    rfl
end

section
/-! STATION_PIN and STATION_UNPIN (R11), CLEAR_FANS (R9, R10) and ZONE_RESTART (R175). -/

-- One proof at a time: the threads of the default would not fit the memory the check allows.
set_option Elab.async false

open Sys2Proof

namespace Sys2Proof.Machine

variable {s : State}

/-! ### STATION_PIN and STATION_UNPIN -/

section
variable {a : Addr} {h : Nat} {st : Station}

theorem runStationPin_pinned (hl : s.lookup a = some h) (hs : s.station h = some st) (hp : st.pinned = true) :
    runStationPin a s = answered .done s := by
  unfold runStationPin
  simp only [hl, hs, hp, if_true]

theorem runStationPin_record (hl : s.lookup a = some h) (hs : s.station h = some st) (hp : st.pinned = false) :
    runStationPin a s = if s.pinnedCount < 512 then answered .done (s.setStation h { st with pinned := true, linger := none }.rederive)
      else answered .range s := by
  unfold runStationPin
  simp only [hl, hs, hp, Bool.false_eq_true, if_false]

theorem runStationPin_create (hl : s.lookup a = none) (hn : s.pinnedCount < 512) (hf : s.freeHandle a = some h) :
    runStationPin a s = answered .done ((s.setStation h { addr := a, state := .unattached, pinned := true, cls := .admission }).modStationCtrs
      (fun k => { k with created := bump k.created })) := by
  unfold runStationPin
  simp only [hl, hf]
  exact if_pos hn

theorem runStationPin_full (hl : s.lookup a = none) (hn : s.pinnedCount < 512) (hf : s.freeHandle a = none) :
    runStationPin a s = answered .range (occur { cls := .stationTableFull } s) := by
  unfold runStationPin
  simp only [hl, hf]
  exact if_pos hn

theorem runStationPin_limit (hl : s.lookup a = none) (hn : 512 ≤ s.pinnedCount) : runStationPin a s = answered .range s := by
  unfold runStationPin
  simp only [hl]
  exact if_neg (Nat.not_lt.2 hn)

theorem runStationUnpin_record (hl : s.lookup a = some h) (hs : s.station h = some st) :
    runStationUnpin a s = if st.pinned then answered .done (s.setStation h { st with
        pinned := false, linger := if st.state = StState.unattached then some (s.venueTime + s.lingerUs) else st.linger }.rederive)
      else answered .done s := by
  unfold runStationUnpin
  simp only [hl, hs]

theorem runStationUnpin_unknown (hl : s.lookup a = none) : runStationUnpin a s = answered .state s := by
  unfold runStationUnpin
  simp only [hl]
end

/-- The management queue and the counters of arrivals, as `State.queued` makes them, are read by no error. -/
theorem notice_queued (k : NoticeKind) (b : List Byte) (s : State) (e : MgmtEntry) :
    notice k b (s.queued e) = (notice k b s).queued e := by
  unfold notice
  by_cases he : (s.noticeEntry (s.noticeEntryOf k)).enable = false
  · rw [if_pos he, if_pos (by exact he)]
    rfl
  · by_cases hm : (s.noticeEntry (s.noticeEntryOf k)).mask = true
    · rw [if_neg he, if_neg (by exact he), if_pos hm, if_pos (by exact hm)]
      rfl
    · rw [if_neg he, if_neg (by exact he), if_neg hm, if_neg (by exact hm)]
      rfl

theorem recordFirst_queued (o : Occurrence) (s : State) (e : MgmtEntry) : recordFirst o (s.queued e) = (recordFirst o s).queued e := by
  unfold recordFirst
  simp only [show (s.queued e).err.first = s.err.first from rfl]
  cases hf : s.err.first <;> rfl

theorem takeOccurrence_queued (o : Occurrence) (s : State) (e : MgmtEntry) :
    takeOccurrence o (s.queued e) = (takeOccurrence o s).queued e := by
  unfold takeOccurrence
  simp only [show (s.queued e).errState o.cls = s.errState o.cls from rfl]
  by_cases hm : (s.errState o.cls).masked = true
  · simp only [hm, if_true]
    rfl
  · simp only [hm, if_false, Bool.false_eq_true]
    have hset (v : ErrState) : (s.queued e).setErrState o.cls v = (s.setErrState o.cls v).queued e := rfl
    rw [hset, recordFirst_queued]
    exact notice_queued _ _ _ e

/-! ### CLEAR_FANS -/

/-- No record of `l` stands at this handle. -/
def outside (l : Table Station) (h : Nat) : Bool := decide (∀ g ∈ l, g.1 ≠ h)

theorem outside_cons (e : Nat × Station) (l : Table Station) (h : Nat) : outside (e :: l) h = (outside l h && decide (h ≠ e.1)) := by
  simp only [outside, List.forall_mem_cons, Bool.decide_and, ne_comm (a := h), Bool.and_comm]

theorem outside_nil (h : Nat) : outside [] h = true := rfl

theorem del_eq_filter {α : Type} {t : Table α} (hs : t.sorted = true) (k : Nat) : t.del k = t.filter (fun e => decide (e.1 ≠ k)) := by
  induction t with
  | nil => rfl
  | cons e t ih =>
    obtain ⟨k', v⟩ := e
    obtain ⟨hst, habove⟩ := (Table.sorted_cons k' v t).1 hs
    by_cases hk : k = k'
    · subst hk
      have hall : t.filter (fun e => decide (e.1 ≠ k)) = t :=
        List.filter_eq_self.2 (fun x hx => decide_eq_true (Nat.ne_of_gt (habove x hx)))
      rw [List.filter_cons_of_neg (by simp), hall]
      exact if_pos rfl
    · simp [Table.del, hk, Ne.symm hk, ih hst]

theorem sorted_set {α : Type} [DecidableEq α] {d : α} {t : Table α} (hs : t.sorted = true) (k : Nat) (v : α) :
    (t.set d k v).sorted = true := by
  unfold Table.set
  split
  · exact Table.sorted_del hs
  · exact Table.sorted_put hs

/-- The records of `l` are removed, with their marks and their places in the drain list; the radios are left as `rs` (R9). -/
def State.without (s : State) (l : Table Station) (rs : Table Radio) : State :=
  { s with
    stations := s.stations.filter (fun e => outside l e.1), radios := rs
    stationCtrs := { s.stationCtrs with
      heldDiscarded := bumpBy s.stationCtrs.heldDiscarded ((l.map (fun e => e.2.hold.length)).sum) }
    roam := { s.roam with
      marks := s.roam.marks.filter (fun e => outside l e.1)
      drain := s.roam.drain.filter (outside l) } }

/-- How many records of `l` are attached to a radio. -/
def attachedTo (l : Table Station) (r : Nat) : Nat := (l.filter (fun e => decide (e.2.current = some r))).length

theorem attachedTo_cons (e : Nat × Station) (l : Table Station) (r : Nat) :
    attachedTo (e :: l) r = attachedTo [e] r + attachedTo l r := by
  unfold attachedTo
  rw [← List.length_append, ← List.filter_append]
  rfl

theorem discardQueued_none (hl : s.egress.lists = []) (h : Nat) : discardQueued h s = (0, s) := by
  have he : ({ s.egress with lists := [] } : Egress) = s.egress := by rw [← hl]
  unfold discardQueued
  simp only [hl, Table.keys, List.map_nil, List.foldl_nil, Table.mapVals, List.filterMap_nil, he]

section
variable {h : Nat} {st : Station}

/-- What is left to do for a record with nothing queued and no subscription, its radio's count lowered. -/
theorem without_one (hss : s.stations.sorted = true) (hms : s.roam.marks.sorted = true) :
    ((clearMark h (leaveDrainList h s)).delStation h).modStationCtrs (fun k => { k with
      queuedDiscarded := bumpBy k.queuedDiscarded 0
      heldDiscarded := bumpBy k.heldDiscarded st.hold.length }) = s.without [(h, st)] s.radios := by
  have hout (k : Nat) : outside [(h, st)] k = decide (k ≠ h) := by rw [outside_cons, outside_nil, Bool.true_and]
  have hd : s.roam.drain.filter (· ≠ h) = s.roam.drain.filter (outside [(h, st)]) := List.filter_congr (fun k _ => (hout k).symm)
  unfold clearMark leaveDrainList State.delStation State.modStationCtrs State.modRoam State.without
  simp only [hout, ← hd, del_eq_filter hss, del_eq_filter hms, bumpBy_zero, List.map_cons, List.map_nil, List.sum_singleton]

/-- A record in no handoff and with no subscription is removed where no class list holds a burst (R9). -/
theorem removeRecord_idle (hs : s.station h = some st) (hst : st.state ≠ .handoff) (hsub : st.sub = none)
    (hl : s.egress.lists = []) (hss : s.stations.sorted = true) (hms : s.roam.marks.sorted = true)
    (hrs : s.radios.sorted = true) : ∃ rs : Table Radio, removeRecord true h s = s.without [(h, st)] rs ∧ rs.sorted = true
      ∧ ∀ r, rs.get {} r = { s.radio r with stations := (s.radio r).stations - attachedTo [(h, st)] r } := by
  have hleft (w : State) (hw : w.station h = some st) (hwl : w.egress.lists = []) :
      discardQueued h (clearMark h (leaveDrainList h (removeSub h w))) = (0, clearMark h (leaveDrainList h w)) := by
    rw [removeSub_none hw hsub]
    exact discardQueued_none (s := clearMark h (leaveDrainList h w)) hwl h
  have hstate : st.state = .unattached ∨ st.state = .attached := by
    cases hx : st.state with
    | unattached => exact .inl rfl
    | attached => exact .inr rfl
    | handoff => exact absurd hx hst
  cases hc : st.current with
  | none =>
    refine ⟨s.radios, .trans ?_ (without_one hss hms), hrs, fun r => ?_⟩
    · unfold removeRecord
      rcases hstate with hx | hx <;> simp only [hs, hc, hx, hleft s hs hl]
    · rw [show attachedTo [(h, st)] r = 0 by simp [attachedTo, hc]]
      rfl
  | some x =>
    refine ⟨(lessStations x s).radios, .trans ?_ (without_one (s := lessStations x s) hss hms), sorted_set hrs _ _, fun r => ?_⟩
    · unfold removeRecord
      rcases hstate with hx | hx <;> simp only [hs, hc, hx, hleft (lessStations x s) hs hl]
    · by_cases hr : r = x
      · subst hr
        rw [show attachedTo [(h, st)] r = 1 by simp [attachedTo, hc]]
        exact Table.get_set_self hrs _
      · rw [show attachedTo [(h, st)] r = 0 by simp [attachedTo, hc, Ne.symm hr]]
        exact Table.get_set_ne hr _ _
end

theorem without_without (s : State) (e : Nat × Station) (l : Table Station) (rs rs' : Table Radio) :
    (s.without [e] rs).without l rs' = s.without (e :: l) rs' := by
  have hout : outside (e :: l) = fun k => outside l k && outside [e] k :=
    funext (fun k => by rw [outside_cons, outside_cons, outside_nil, Bool.true_and])
  unfold State.without
  simp only [List.filter_filter, bumpBy_bumpBy, List.map_cons, List.map_nil, List.sum_cons, List.sum_nil, Nat.add_zero, hout]

/-- The records of `l` removed one after another, each announced before the next (R10). -/
theorem foldl_removeRecord {l : Table Station} (hl : s.egress.lists = []) (hroom : s.ev.roomFreed = false)
    (hnd : (l.map Prod.fst).Nodup) (hst : ∀ e ∈ l, s.station e.1 = some e.2 ∧ e.2.state ≠ .handoff ∧ e.2.sub = none)
    (hss : s.stations.sorted = true) (hms : s.roam.marks.sorted = true) (hrs : s.radios.sorted = true) :
    ∃ rs : Table Radio, (l.map Prod.fst).foldl (fun s h => announce (removeRecord true h s)) s = s.without l rs
      ∧ ∀ r, rs.get {} r = { s.radio r with stations := (s.radio r).stations - attachedTo l r } := by
  induction l generalizing s with
  | nil =>
    refine ⟨s.radios, ?_, fun r => rfl⟩
    have hf {α : Type} (g : α → Nat) (t : List α) : t.filter (fun e => outside [] (g e)) = t :=
      List.filter_eq_self.2 (fun _ _ => outside_nil _)
    unfold State.without
    rw [hf Prod.fst, hf Prod.fst, hf (fun h => h)]
    simp [bumpBy_zero]
  | cons e l ih =>
    obtain ⟨hne, hnd⟩ := List.nodup_cons.1 hnd
    obtain ⟨hs, ha, hsub⟩ := hst e List.mem_cons_self
    obtain ⟨rs, hrem, hrs', hget⟩ := removeRecord_idle hs ha hsub hl hss hms hrs
    have hkeep (x : Nat × Station) (hx : x ∈ l) : (s.without [e] rs).station x.1 = some x.2 := by
      refine find_filter (hst x (List.mem_cons_of_mem _ hx)).1 ?_
      rw [outside_cons, outside_nil, Bool.true_and]
      exact decide_eq_true (fun h => hne (h ▸ List.mem_map_of_mem hx))
    obtain ⟨rs', hfold, hget'⟩ := ih (s := s.without [e] rs) hl hroom hnd
      (fun x hx => ⟨hkeep x hx, (hst x (List.mem_cons_of_mem _ hx)).2⟩) (Table.sorted_filter _ hss) (Table.sorted_filter _ hms) hrs'
    refine ⟨rs', ?_, fun r => ?_⟩
    · rw [List.map_cons, List.foldl_cons, hrem, announce_none (s := s.without [e] rs) hroom, hfold, without_without]
    · rw [hget', show (s.without [e] rs).radio r = _ from hget r, attachedTo_cons e l, ← Nat.sub_sub]

theorem outside_unpinned {t : Table Station} (hs : t.sorted = true) {e : Nat × Station} (he : e ∈ t) :
    outside (t.filter (fun e => !e.2.pinned)) e.1 = e.2.pinned := by
  cases hp : e.2.pinned with
  | false => exact decide_eq_false (fun h => h e (List.mem_filter.2 ⟨he, by rw [hp]; rfl⟩) rfl)
  | true =>
    refine decide_eq_true (fun g hg heq => ?_)
    obtain ⟨hgt, hgp⟩ := List.mem_filter.1 hg
    have hsame : some g.2 = some e.2 :=
      (Table.find_of_mem hs (k := g.1) (v := g.2) hgt).symm.trans (heq ▸ Table.find_of_mem hs (k := e.1) (v := e.2) he)
    rw [Option.some.inj hsame, hp] at hgp
    cases hgp

/-! ### ZONE_RESTART -/

theorem restarted_uplink (u : Uplink) : u.restarted
    = ⟨[], [], { u.ctrs with sent := if u.tx = [] then u.ctrs.sent else bump u.ctrs.sent }⟩ := by
  unfold Uplink.restarted
  cases u.tx <;> rfl

theorem restarted_port (k : Nat) (p : Port) : ∃ n, p.restarted k = ⟨[], none, none, [], if p.sending.isSome then { p.ctrs with
      sent := bumpBy p.ctrs.sent n, burstsCut := bump p.ctrs.burstsCut } else p.ctrs⟩
    ∧ 1 ≤ n ∧ (p.wire ≠ [] → n ≤ p.wire.length) := by
  refine ⟨1 + Config.cutFrames k % p.wire.length, ?_, Nat.le_add_right _ _, fun h => ?_⟩
  · unfold Port.restarted
    cases hs : p.sending with
    | none => simp
    | some x => simp
  · have := Nat.mod_lt (Config.cutFrames k) (List.length_pos_iff.2 h)
    omega

/-- Ports restarted one after another (R60, R175). -/
def restartPorts (l : List Nat) (s : State) : State := l.foldl (fun s p => s.setPort p ((s.port p).restarted (s.draws + p))) s

theorem restartPorts_only (l : List Nat) (s : State) : restartPorts l s = { s with ports := (restartPorts l s).ports } := by
  induction l generalizing s with
  | nil => rfl
  | cons p l ih => exact ih (s.setPort p ((s.port p).restarted (s.draws + p)))

theorem restartEgress_eq (s : State) : restartEgress s = { s with
    ports := (restartPorts [0, 1, 2, 3] s).ports, draws := s.draws + 4
    uplink := ⟨[], [], { s.uplink.ctrs with sent := if s.uplink.tx = [] then s.uplink.ctrs.sent else bump s.uplink.ctrs.sent }⟩
    egress := { s.egress with lists := [], buffers := 0, bursts := 0 } } := by
  unfold restartEgress
  rw [← restartPorts, restartPorts_only]
  simp only [restarted_uplink]

/-- With no ramp in progress the surge state stays (R83). -/
theorem restartGovernor_eq (hramp : ∀ k d, s.gov.surge ≠ .ramping k d) :
    restartGovernor s = s.modPresentRadios (s.gov.initCredit s.venueTime) := by
  unfold restartGovernor
  cases hx : s.gov.surge with
  | ramping k d => exact absurd hx (hramp k d)
  | _ => simp only [State.modGov, hx]; simp only [← hx]

theorem restartPorts_port {l : List Nat} (hnd : l.Nodup) (hs : s.ports.sorted = true) (q : Nat) :
    (restartPorts l s).port q = if q ∈ l then (s.port q).restarted (s.draws + q) else s.port q := by
  induction l generalizing s with
  | nil => rfl
  | cons p l ih =>
    obtain ⟨hp, hnd⟩ := List.nodup_cons.1 hnd
    refine (ih (s := s.setPort p ((s.port p).restarted (s.draws + p))) hnd (sorted_set hs _ _)).trans ?_
    by_cases hq : q = p
    · subst hq
      rw [if_neg hp, if_pos List.mem_cons_self]
      exact Table.get_set_self hs _
    · rw [show (s.setPort p ((s.port p).restarted (s.draws + p))).port q = s.port q from Table.get_set_ne hq _ _]
      simp only [List.mem_cons, hq, false_or]
      rfl

/-- A radio whose counts are 0 (R16). -/
def Radio.uncounted (x : Radio) : Radio := { x with stations := 0, subscribers := 0 }

/-- A radio's credit anew, if it is present (R83). -/
def Governor.renew (g : Governor) (now : Time) (x : Radio) : Radio := if x.state = .absent then x else g.initCredit now x

/-- A reel with no slot FILLING (R142). -/
def Reel.cut (x : Reel) : Reel := { x with cfg := x.cfg.map (fun c => { c with filling := none }) }

/-- The replay engine after a zone restart (R142, R159). -/
def Replay.restarted (p : Replay) : Replay :=
  { p with
    deliveries := [], waiting := [], stalled := []
    slots := p.slots.mapVals {} Slot.restarted, reels := p.reels.mapVals {} Reel.cut
    ctrs := { p.ctrs with
      restartAbandoned := bumpBy p.ctrs.restartAbandoned
        (p.slots.filter (fun e => decide (e.2.state = .filling ∨ e.2.state = .writing))).length } }

theorem restartReplay_eq (s : State) : restartReplay s = s.modReplay Replay.restarted := rfl

/-- The state after a zone restart with no work item and no ramp, without its counts and its reply (R175). -/
def State.restarted (s : State) : State :=
  { s with
    radios := (s.radios.mapVals {} Radio.uncounted).mapVals {} (s.gov.renew s.venueTime)
    ports := (restartPorts [0, 1, 2, 3] s).ports, draws := s.draws + 4
    uplink := ⟨[], [], { s.uplink.ctrs with sent := if s.uplink.tx = [] then s.uplink.ctrs.sent else bump s.uplink.ctrs.sent }⟩
    stations := (s.stations.filter (fun e => e.2.pinned)).map (fun (e : Nat × Station) => (e.1, e.2.restarted))
    roam := { s.roam with ctxs := [], marks := [], drain := [] }
    egress := { s.egress with lists := [], buffers := 0, bursts := 0 }
    replay := s.replay.restarted
    adm := { s.adm with sweep := s.adm.sweep.restarted }
    mem := s.mem.markAll }

theorem restarted_radio (hs : s.radios.sorted = true) (r : Nat) :
    s.restarted.radio r = s.gov.renew s.venueTime (s.radio r).uncounted := by
  refine (Table.get_mapVals (f := s.gov.renew s.venueTime) (Table.sorted_mapVals _ _ hs) rfl r).trans ?_
  rw [Table.get_mapVals (f := Radio.uncounted) hs rfl r]
  rfl

/-- FILLING and WRITING slots are FREE one generation on (R142). -/
theorem Slot.restarted_eq (x : Slot) : x.restarted = if x.state = .filling ∨ x.state = .writing
    then { state := .free, reel := x.reel, generation := x.generation + 1 } else x := by
  unfold Slot.restarted
  cases hx : x.state <;> simp <;> rfl

theorem zoneRestart_eq (hi : s.adm.items = []) (hramp : ∀ k d, s.gov.surge ≠ .ramping k d) (e : MgmtEntry) :
    zoneRestart (s.queued e) = (s.restarted.queued e).lookForSlot := by
  have hstage : s.gov.surge.stage.isSome = false := by
    cases hx : s.gov.surge with
    | ramping k d => exact absurd hx (hramp k d)
    | _ => rfl
  unfold zoneRestart
  rw [show (s.queued e).gov.surge.stage.isSome = false from hstage, show (s.queued e).adm.items = [] from hi]
  simp only [List.foldl_nil, Bool.false_eq_true, if_false]
  rw [restartEgress_eq, restartGovernor_eq (by exact hramp), restartReplay_eq]
  have hitems : ({ s.adm with items := [], sweep := s.adm.sweep.restarted } : Admission)
      = { s.adm with sweep := s.adm.sweep.restarted } := by rw [← hi]
  unfold State.restarted
  rw [← hitems]
  rfl

/-- ZONE_RESTART with no work item and no ramp lets nothing go on (R175). -/
theorem exec_zoneRestart {src : Addr} {tag : Half} (hs : s.Ready src) (hi : s.adm.items = []) (ho : s.adm.op = none)
    (hramp : ∀ k d, s.gov.surge ≠ .ramping k d) :
    exec (.zoneRestart src tag) s = .next (s.restarted.concluded src 4 tag .done []) := by
  refine exec_looked (d := .zoneRestart) (k := 4) (u := s.restarted) hs rfl rfl rfl ?_ rfl rfl rfl
    (goOn_reply_none (s := s.restarted) (sendStride_none (by exact nofun)) ?_ ?_)
  · exact congrArg (answered .done) (zoneRestart_eq hi hramp _)
  · exact fun i h => absurd (hi ▸ h) List.not_mem_nil
  · exact fun o h => absurd (ho ▸ h) nofun

end Sys2Proof.Machine

open Sys2Proof.Machine

/-- Settles O32: each case of the pinned set; the removal of the other records one after another; and the restart of each part,
read table by table. -/
theorem pinnedRecordsAreKept : Obligations.PinnedRecordsAreKept := by
  refine ⟨fun s src tag a hs => ?_, fun s src tag hs hss hrs hms hl hst => ?_, fun s src tag hs hi ho hps hrs hss hls hramp => ?_⟩
  · have hpin (h st) := runStationPin_record (s := s.queued ⟨src, tag, .stationPin a⟩) (a := a) (h := h) (st := st)
    have hunpin (h st) := runStationUnpin_record (s := s.queued ⟨src, tag, .stationUnpin a⟩) (a := a) (h := h) (st := st)
    refine ⟨fun h st hl hst hp => ?_, fun h st hl hst hp => ⟨fun hn => ?_, fun hn => ?_⟩,
      fun hl hn => ⟨fun h hf => ?_, fun hf => ?_⟩, fun hl hn => ?_,
      fun h st hl hst => ⟨fun hp => ?_, fun hp hu => ?_, fun hp hu => ?_⟩, fun hl => ?_⟩
    · exact exec_unchanged hs rfl rfl rfl (runStationPin_pinned (s := s.queued _) hl hst hp)
    · exact exec_concluded hs rfl rfl rfl ((hpin h st hl hst hp).trans (if_pos hn)) rfl rfl
    · exact exec_unchanged hs rfl rfl rfl ((hpin h st hl hst hp).trans (if_neg (Nat.not_lt.2 hn)))
    · exact exec_concluded hs rfl rfl rfl (runStationPin_create (s := s.queued _) hl hn hf) rfl rfl
    · obtain ⟨tx, e, honly⟩ := takeOccurrence_only { cls := .stationTableFull } s
      refine exec_concluded (d := .stationPin a) hs rfl rfl rfl ?_ (by rw [honly]) (by rw [honly])
      refine (runStationPin_full (s := s.queued _) hl hn hf).trans ?_
      rw [occur_now (s := s.queued _) (quiet_deferring hs.1), takeOccurrence_queued]
      rfl
    · exact exec_unchanged hs rfl rfl rfl (runStationPin_limit (s := s.queued _) hl hn)
    · exact exec_unchanged hs rfl rfl rfl ((hunpin h st hl hst).trans (by rw [hp]; rfl))
    · refine exec_concluded (d := .stationUnpin a) hs rfl rfl rfl ((hunpin h st hl hst).trans ?_) rfl rfl
      rw [if_pos hp, if_pos hu]
      rfl
    · refine exec_concluded (d := .stationUnpin a) hs rfl rfl rfl ((hunpin h st hl hst).trans ?_) rfl rfl
      rw [if_pos hp, if_neg hu]
      rfl
    · exact exec_unchanged hs rfl rfl rfl (runStationUnpin_unknown (s := s.queued _) hl)
  · intro gone
    have hmem {e : Nat × Station} (he : e ∈ gone) : e ∈ s.stations := (List.mem_filter.1 he).1
    obtain ⟨rs, hfold, hget⟩ := foldl_removeRecord (s := s.queued ⟨src, tag, .clearFans⟩) (l := gone) hl (quiet_room hs.1)
      (nodup_keys (Table.sorted_filter _ hss)) (fun e he => ⟨Table.find_of_mem hss (hmem he), hst e (hmem he)⟩) hss hms hrs
    refine ⟨s.without gone rs, ?_, hget, ?_⟩
    · refine exec_concluded (d := .clearFans) (k := 12) hs rfl rfl rfl (Prod.ext ?_ hfold) rfl rfl
      exact congrArg (fun n => some (⟨.done, be 2 n⟩ : Answer)) (List.length_map _)
    · have hkept : s.stations.filter (fun e => outside gone e.1) = s.stations.filter (fun e => e.2.pinned) :=
        List.filter_congr (fun e he => outside_unpinned hss he)
      rw [← hkept]
      rfl
  · refine ⟨s.restarted.concluded src 4 tag .done [], exec_zoneRestart hs hi ho hramp, restarted_radio hrs, fun p hp => ?_,
      fun n => ?_, fun r => ?_, rfl⟩
    · obtain ⟨n, hn, hbound⟩ := restarted_port (s.draws + p) (s.port p)
      refine ⟨n, ?_, hbound⟩
      rw [← hn]
      exact (restartPorts_port (l := [0, 1, 2, 3]) (by decide) hps p).trans (if_pos (by simp; omega))
    · exact (Table.get_mapVals hss rfl n).trans (Slot.restarted_eq _)
    · exact Table.get_mapVals (f := Reel.cut) hls rfl r
end

section
/-! STATION_SETTINGS (R25), MGMT_FILTER (R169) and RATE_TABLE (R62). -/

-- One proof at a time: the threads of the default would not fit the memory the check allows.
set_option Elab.async false

open Sys2Proof

namespace Sys2Proof.Machine

variable {s : State} {src : Addr} {tag : Half}

/-! ### Values that replace others -/

theorem settingBad_iff {v : Half} {hi : Nat} : settingBad v 1 hi = true ↔ hi < v.toNat := by
  unfold settingBad
  have hz : v = 0 ↔ v.toNat = 0 := BitVec.toNat_inj.symm
  simp only [Bool.and_eq_true, Bool.or_eq_true, decide_eq_true_iff, ne_eq, hz]
  omega

theorem settingNew_eq (v : Half) (old : Nat) : settingNew v old = if v.toNat = 0 then old else v.toNat :=
  if_congr BitVec.toNat_inj.symm rfl rfl

theorem newRates_eq (old : List Nat) (vals : List Half) :
    newRates old vals = List.zipWith (fun (v : Half) o => if v.toNat = 0 then o else v.toNat) vals old :=
  congrArg (fun f => List.zipWith f vals old) (funext fun v => funext fun o => settingNew_eq v o)

/-! ### The runs of the three directives -/

theorem runStationSettings_range {a b c d e : Half}
    (h : 255 < a.toNat ∨ 600 < b.toNat ∨ 60 < c.toNat ∨ 15 < d.toNat ∨ 120 < e.toNat) :
    runStationSettings a b c d e s = answered .range s := by
  refine if_pos ?_
  simpa only [Bool.or_eq_true, settingBad_iff, or_assoc] using h

/-- The settings with the values carried: a value of 0 keeps what is held (R25). -/
def Settings.taking (x : Settings) (a b c d e : Half) : Settings :=
  ⟨settingNew a x.detachMs, settingNew b x.lingerS, settingNew c x.windowS, settingNew d x.threshold, settingNew e x.dampingS⟩

theorem runStationSettings_done {a b c d e : Half}
    (h : ¬ (255 < a.toNat ∨ 600 < b.toNat ∨ 60 < c.toNat ∨ 15 < d.toNat ∨ 120 < e.toNat)) :
    runStationSettings a b c d e s = (some ⟨.done, (s.roam.settings.taking a b c d e).bytes⟩,
      s.modRoam (fun m => { m with settings := s.roam.settings.taking a b c d e })) := by
  refine if_neg ?_
  simpa only [Bool.or_eq_true, settingBad_iff, or_assoc] using h

theorem Settings.bytes_eq (x : Settings) :
    x.bytes = be 2 x.detachMs ++ be 2 x.lingerS ++ be 2 x.windowS ++ be 2 x.threshold ++ be 2 x.dampingS := by
  simp [Settings.bytes, halves]

/-- STATION_SETTINGS that is taken (R25). -/
theorem exec_stationSettings_done (hs : s.Ready src) {a b c d e : Half}
    (h : ¬ (255 < a.toNat ∨ 600 < b.toNat ∨ 60 < c.toNat ∨ 15 < d.toNat ∨ 120 < e.toNat)) :
    exec (.stationSettings src tag a b c d e) s
      = .next ((s.modRoam (fun m => { m with settings := s.roam.settings.taking a b c d e })).concluded src 13 tag .done
        (s.roam.settings.taking a b c d e).bytes) :=
  exec_concluded hs rfl rfl rfl (runStationSettings_done (s := s.queued _) h) rfl rfl

/-- What MGMT_FILTER stores: the addresses, each once, and the management address it leaves in force (R169). -/
def State.filtered (s : State) (addrs : List Addr) (a : Addr) : State :=
  { s with mgmt := { s.mgmt with filter := dedup addrs, address := a } }

/-- MGMT_FILTER of addresses that may stand in the filter, by its presence byte. -/
theorem runMgmtFilter_listed {addrs : List Addr} (hn : addrs.length ≤ 4) (ha : ∀ x ∈ addrs, noStation x = false) {p : Byte}
    {q : Bool} (hp : flagOf p = some q) (a : Addr) :
    runMgmtFilter addrs p a s = if q = true ∧ (noStation a = true ∨ a = s.ingestAddr) then answered .range s
      else (some ⟨.done, filterBody (s.filtered addrs (if q then a else s.mgmt.address))⟩,
        s.filtered addrs (if q then a else s.mgmt.address)) := by
  have hany : addrs.any noStation = false := List.any_eq_false.2 fun x hx => by rw [ha x hx]; exact Bool.false_ne_true
  unfold runMgmtFilter
  simp only [hp, hany, Nat.not_lt.2 hn, Bool.false_eq_true, false_or]
  rfl

/-- MGMT_FILTER that is taken: the directive's own change reaches the reply, which leaves from the new address (R169, R171). -/
theorem exec_mgmtFilter_done (hs : s.Ready src) {addrs : List Addr} {p : Byte} {a b : Addr} (hn : addrs.length ≤ 4)
    (hrun : runMgmtFilter addrs p a (s.queued ⟨src, tag, .mgmtFilter addrs p a⟩)
      = (some ⟨.done, filterBody (s.filtered addrs b)⟩, (s.filtered addrs b).queued ⟨src, tag, .mgmtFilter addrs p a⟩)) :
    exec (.mgmtFilter src tag addrs p a) s
      = .next ((s.filtered addrs b).concluded src 5 tag .done (filterBody (s.filtered addrs b))) := by
  have hw : Instr.wf (.mgmtFilter src tag addrs p a) = true := decide_eq_true (show addrs.length ≤ 255 by omega)
  rw [exec_directive (e := ⟨src, tag, .mgmtFilter addrs p a⟩) rfl hw]
  exact directive_concluded hs hrun hs.1 hs.2.2.1 hs.2.2.2

end Sys2Proof.Machine

open Sys2Proof.Machine

/-- Settles O26: each directive by its refusal and by what it stores. -/
theorem settingsFilterAndRatesAreReplaced : Obligations.SettingsFilterAndRatesAreReplaced := by
  refine ⟨fun s src tag a b c d e hs => ⟨fun hbad => ?_, fun hok => ?_⟩, fun s src tag hs => ⟨fun addrs a hn ha => ?_,
    fun rates hlen => ?_⟩⟩
  · exact exec_unchanged hs rfl rfl rfl (runStationSettings_range hbad)
  · simp only [← settingNew_eq]
    rw [exec_stationSettings_done hs hok, Settings.bytes_eq]
    rfl
  · have hkeep := runMgmtFilter_listed (s := s.queued ⟨src, tag, .mgmtFilter addrs 0 a⟩) hn ha (p := 0) rfl a
    have hnew := runMgmtFilter_listed (s := s.queued ⟨src, tag, .mgmtFilter addrs 1 a⟩) hn ha (p := 1) rfl a
    refine ⟨exec_mgmtFilter_done hs hn hkeep, fun hst hin => ?_, fun hbad => ?_⟩
    · have hgood : ¬ (noStation a = true ∨ a = s.ingestAddr) := by simp [hst, hin]
      exact exec_mgmtFilter_done hs hn (hnew.trans (if_neg fun h => hgood h.2))
    · have hw : Instr.wf (.mgmtFilter src tag addrs 1 a) = true := decide_eq_true (show addrs.length ≤ 255 by omega)
      exact exec_unchanged hs rfl rfl hw (hnew.trans (if_pos ⟨rfl, hbad⟩))
  · have hw : Instr.wf (.rateTable src tag rates) = true := decide_eq_true hlen
    refine ⟨fun ⟨v, hv, hbad⟩ => ?_, fun hok => ?_⟩
    · exact exec_unchanged hs rfl rfl hw (if_pos (List.any_eq_true.2 ⟨v, hv, decide_eq_true hbad⟩))
    · refine exec_concluded hs rfl rfl hw ?_ rfl rfl
      refine (if_neg ?_).trans ?_
      · simpa using hok
      · rw [newRates_eq]
        rfl
end

section
/-! SET_TIME (R173), PHASE_SET (R81, R82) and the surge inputs (R72 to R76), where no timer is due and no port is free. -/

-- One proof at a time: the threads of the default would not fit the memory the check allows.
set_option Elab.async false

open Sys2Proof

namespace Sys2Proof.Machine

variable {s t u v : State}

/-! ### Tables mapped -/

theorem foldl_unchanged {α β : Type} {f : β → α → β} {b : β} {l : List α} (h : ∀ a ∈ l, f b a = b) :
    l.foldl f b = b := by
  induction l with
  | nil => rfl
  | cons a l ih =>
    rw [List.foldl_cons, h a List.mem_cons_self]
    exact ih fun a ha => h a (List.mem_cons_of_mem _ ha)

theorem Table.find_map {α β : Type} (f : α → β) (t : Table α) (k : Nat) :
    Table.find (t.map (fun (e : Nat × α) => (e.1, f e.2))) k = (t.find k).map f := by
  induction t with
  | nil => rfl
  | cons e t ih =>
    simp only [List.map_cons, Table.find, ih]
    split <;> rfl

/-- A change of a radio that is not ABSENT. -/
def Radio.ifPresent (f : Radio → Radio) (x : Radio) : Radio := if x.state = .absent then x else f x

theorem modPresentRadios_eq (f : Radio → Radio) (s : State) :
    s.modPresentRadios f = { s with radios := s.radios.mapVals {} (Radio.ifPresent f) } := rfl

theorem radio_modPresentRadios (hs : s.radios.sorted = true) (f : Radio → Radio) (r : Nat) :
    (s.modPresentRadios f).radio r = (s.radio r).ifPresent f := by
  unfold State.radio
  rw [modPresentRadios_eq, Table.get_mapVals hs rfl]

/-- A change of every burst of a radio. -/
def RadioLists.mapBursts (f : Burst → Burst) (l : RadioLists) : RadioLists :=
  ⟨l.admission.map f, l.fan.map f, l.visitor.map f, l.replay.map f⟩

theorem RadioLists.of_mapBursts (f : Burst → Burst) (l : RadioLists) (c : Cls) : (l.mapBursts f).of c = (l.of c).map f := by
  cases c <;> rfl

theorem modSeals_eq (f : Time → Time) (s : State) : s.modSeals f = { s with egress := { s.egress with
    lists := s.egress.lists.mapVals {} (RadioLists.mapBursts (fun b => { b with sealAt := b.sealAt.map f })) } } := rfl

theorem list_modSeals (hs : s.egress.lists.sorted = true) (f : Time → Time) (r : Nat) (c : Cls) :
    (s.modSeals f).list r c = (s.list r c).map (fun b => { b with sealAt := b.sealAt.map f }) := by
  unfold State.list State.lists
  rw [modSeals_eq, Table.get_mapVals hs rfl, RadioLists.of_mapBursts]

/-- The list of a radio that is set is read back, the empty one too. -/
theorem list_setList_of_sorted (hs : s.egress.lists.sorted = true) (r : Nat) (c : Cls) (l : List Burst) (r' : Nat) (c' : Cls) :
    (s.setList r c l).list r' c' = if r' = r ∧ c' = c then l else s.list r' c' := by
  unfold State.list State.setList State.setLists State.lists
  by_cases hr : r' = r
  · subst hr
    simp only [Table.get_set_self hs, RadioLists.of_with, true_and]
  · simp only [Table.get_set_ne hr, hr, false_and, if_false]

theorem sorted_setList (hs : s.egress.lists.sorted = true) (r : Nat) (c : Cls) (l : List Burst) :
    (s.setList r c l).egress.lists.sorted = true := sorted_set hs _ _

/-! ### Events in which every port is sending -/

theorem runArbiters_allBusy (hb : s.allBusy = true) : runArbiters s = { s with ev := { s.ev with ask := [] } } := by
  refine foldl_unchanged fun p hp => ?_
  have hsend : (s.port p).sending.isSome = true := List.all_eq_true.1 hb p (List.mem_filter.1 hp).1
  obtain ⟨x, hx⟩ := Option.isSome_iff_exists.1 hsend
  unfold runArbiter
  rw [show (State.port { s with ev := { s.ev with ask := [] } } p).sending = some x from hx]

theorem flush_allBusy (hr : s.ev.roomFreed = false) (hl : s.ev.look = false) (hb : s.allBusy = true) :
    flush s = { s with ev := { s.ev with ask := [] } } := by
  rw [flush_arbiters hr hl, runArbiters_allBusy hb]

theorem finish_allBusy (hr : s.ev.roomFreed = false) (hl : s.ev.look = false) (hb : s.allBusy = true) (hm : s.Settled) :
    finish s = s.ended := by
  unfold finish
  rw [flush_allBusy hr hl hb, runQueue_settled (by exact hm)]
  rfl

section
variable {i : Instr} {src : Addr} {tag k : Half} {d : Directive} {st : Status} {body : List Byte}

/-- A directive answered as it arrives ends with what its reply lets follow, where no directive waits behind it (R170). -/
theorem exec_answered {x : Answer} (hs : s.Ready src) (hd : i.directive = some ⟨src, tag, d⟩) (hw : i.wf = true)
    (hrun : runDirective d (s.queued ⟨src, tag, d⟩) = (some x, u)) (hq : (flush (reply x u)).mgmt.queue = []) :
    exec i s = .next (closeEvent (flush (reply x u))) := by
  have hhead : startHead (s.queued ⟨src, tag, d⟩) = reply x u := by
    have : startHead (s.queued ⟨src, tag, d⟩) = match runDirective d (s.queued ⟨src, tag, d⟩) with
      | (some a, s1) => reply a s1
      | (none, s1) => s1.modMgmt (fun m => { m with started := true }) := rfl
    rw [this, hrun]
  have hgo : ¬ ((s.queued ⟨src, tag, d⟩).mgmt.queue = [] ∨ (s.queued ⟨src, tag, d⟩).mgmt.started = true) := by
    have hstarted : (s.queued ⟨src, tag, d⟩).mgmt.started = s.mgmt.started := rfl
    rw [hstarted, hs.2.2.2]
    simp [State.queued]
  rw [exec_directive hd hw]
  unfold event finish
  rw [directiveArrives_queued tag d hs.2, flush_quiet (show (s.queued ⟨src, tag, d⟩).Quiet from hs.1)]
  unfold runQueue
  rw [if_neg hgo, hhead, runQueue_settled (Or.inl hq)]

/-- A directive whose change of the part asks arbiters, all four ports sending (R53). -/
theorem exec_concluded_allBusy {a : List Nat} (hs : s.Ready src) (hd : i.directive = some ⟨src, tag, d⟩) (hk : d.kind = k)
    (hw : i.wf = true) (hrun : runDirective d (s.queued ⟨src, tag, d⟩)
      = (some ⟨st, body⟩, { v.queued ⟨src, tag, d⟩ with ev := { s.ev with ask := a } }))
    (hb : v.allBusy = true) (hm : v.mgmt = s.mgmt) (hv : v.ev = s.ev) :
    exec i s = .next (v.concluded src k tag st body) := by
  have hflush := flush_allBusy (s := reply ⟨st, body⟩ { v.queued ⟨src, tag, d⟩ with ev := { s.ev with ask := a } })
    (show s.ev.roomFreed = false from quiet_room hs.1) (show s.ev.look = false from quiet_look hs.1) hb
  rw [exec_answered hs hd hw hrun (by rw [hflush]; rfl), hflush, ← hk]
  unfold closeEvent State.concluded State.ended State.replied reply State.sendUplink State.modMgmt
  simp only [State.queued, State.arrived, hm, hv, hs.2.2.1, hs.2.2.2]
end

/-! ### SET_TIME (R173) -/

/-- Where no timer is due none expires. -/
theorem expireDue_none (hrec : ∀ h, lingerDue h s = false ∧ detachDue h s = false ∧ dampingDue h s = false)
    (hrad : ∀ r, s.sealDue r = false ∧ wakeDue r s = false) (hstage : stageDue s = false) : expireDue s = s := by
  have hlinger (l : List Nat) : l.foldl (fun s h => lingerExpire h s) s = s :=
    foldl_unchanged fun h _ => if_neg (Bool.eq_false_iff.1 (hrec h).1)
  have hdetach (l : List Nat) : l.foldl (fun s h => detachExpire h s) s = s :=
    foldl_unchanged fun h _ => if_neg (Bool.eq_false_iff.1 (hrec h).2.1)
  have hdamping (l : List Nat) : l.foldl (fun s h => dampingExpire h s) s = s :=
    foldl_unchanged fun h _ => if_neg (Bool.eq_false_iff.1 (hrec h).2.2)
  have hseal (l : List Nat) : l.foldl (fun s r => sealExpire r s) s = s :=
    foldl_unchanged fun r _ => if_neg (Bool.eq_false_iff.1 (hrad r).1)
  have hwake (l : List Nat) : l.foldl (fun s r => wakeExpire r s) s = s :=
    foldl_unchanged fun r _ => if_neg (Bool.eq_false_iff.1 (hrad r).2)
  unfold expireDue
  simp only [hlinger, hdetach, hdamping, hseal, hwake]
  exact if_neg (Bool.eq_false_iff.1 hstage)

theorem exec_setTime {src : Addr} {tag : Half} {time : Time} (hs : s.Ready src)
    (hdue : ∀ e, expireDue (setVenueTime time (s.queued e)) = setVenueTime time (s.queued e)) :
    exec (.setTime src tag time) s = .next ((setVenueTime time s).concluded src 2 tag .done
      (be 6 s.venueTime.toNat ++ be 6 time.toNat)) :=
  exec_concluded hs rfl rfl rfl (congrArg (Prod.mk _) (hdue _)) rfl rfl

theorem radio_setVenueTime (hs : s.radios.sorted = true) (time : Time) (r : Nat) :
    (setVenueTime time s).radio r = (s.radio r).ifPresent (Radio.moved s.venueTime time) :=
  radio_modPresentRadios (s := { s with stations := _, roam := _, gov := _, venueTime := time }) hs _ r

theorem list_setVenueTime (hs : s.egress.lists.sorted = true) (time : Time) (r : Nat) (c : Cls) : (setVenueTime time s).list r c
    = (s.list r c).map (fun b => { b with sealAt := b.sealAt.map (moveDeadline s.venueTime time) }) :=
  list_modSeals (s := State.modPresentRadios { s with stations := _, roam := _, gov := _, venueTime := time } _) hs _ r c

/-! ### Notices -/

/-- A notice reads the error unit, the uplink and the management address in force, and changes the first two. -/
theorem notice_transport (k : NoticeKind) (b : List Byte) (he : t.err = s.err) (hu : t.uplink = s.uplink) (hm : t.mgmt = s.mgmt) :
    notice k b t = { t with uplink := (notice k b s).uplink, err := (notice k b s).err } := by
  have hn : t.noticeEntryOf k = s.noticeEntryOf k := by unfold State.noticeEntryOf; rw [he]
  have hx (n : Nat) : t.noticeEntry n = s.noticeEntry n := by unfold State.noticeEntry; rw [he]
  unfold notice
  simp only [hn, hx]
  split
  · simp only [State.setNoticeEntry, he, ← hu]
  · split
    · simp only [State.setNoticeEntry, he, ← hu]
    · simp only [State.setNoticeEntry, State.sendNotice, State.sendUplink, he, hu, hm]

/-! ### Bursts that close by age (R49) -/

/-- Nothing differs but the class lists, which keep their order, and the arbiters asked. -/
def State.Regrouped (s t : State) : Prop :=
  t = { s with egress := { s.egress with lists := t.egress.lists }, ev := { s.ev with ask := t.ev.ask } }
  ∧ (s.egress.lists.sorted = true → t.egress.lists.sorted = true)

theorem State.Regrouped.refl (s : State) : s.Regrouped s := ⟨rfl, id⟩

theorem State.Regrouped.trans (h : s.Regrouped t) (k : t.Regrouped u) : s.Regrouped u := by
  refine ⟨?_, k.2 ∘ h.2⟩
  rw [k.1, h.1]

theorem State.Regrouped.foldl {α : Type} {f : State → α → State} (h : ∀ (s : State) a, s.Regrouped (f s a)) (l : List α)
    (s : State) : s.Regrouped (l.foldl f s) := by
  induction l generalizing s with
  | nil => exact .refl s
  | cons a l ih => exact (h s a).trans (ih _)

theorem askIfEligible_regrouped (r : Nat) (c : Cls) (was new : List Burst) (b : Bool) (s : State) :
    s.Regrouped (askIfEligible r c was new b s) := by
  unfold askIfEligible
  split
  · rw [askRadio_eq]
    exact ⟨rfl, id⟩
  · exact .refl s

theorem setList_regrouped (r : Nat) (c : Cls) (l : List Burst) (s : State) : s.Regrouped (s.setList r c l) :=
  ⟨rfl, fun h => sorted_setList h r c l⟩

theorem modSeals_regrouped (f : Time → Time) (s : State) : s.Regrouped (s.modSeals f) := by
  rw [modSeals_eq]
  exact ⟨rfl, Table.sorted_mapVals _ _⟩

theorem list_askIfEligible (r : Nat) (c : Cls) (was new : List Burst) (b : Bool) (s : State) (r' : Nat) (c' : Cls) :
    (askIfEligible r c was new b s).list r' c' = s.list r' c' := by
  unfold State.list State.lists
  rw [askIfEligible_egress]

theorem closeListByAge_regrouped (r : Nat) (c : Cls) (s : State) : s.Regrouped (closeListByAge r c s) := by
  unfold closeListByAge
  simp only
  split
  · exact .refl s
  · exact (setList_regrouped r c _ s).trans (askIfEligible_regrouped r c _ _ _ _)

theorem closeByAge_regrouped (r : Nat) (s : State) : s.Regrouped (closeByAge r s) :=
  .foldl (fun s c => closeListByAge_regrouped r c s) _ s

theorem list_closeListByAge (hs : s.egress.lists.sorted = true) (r : Nat) (c : Cls) (r' : Nat) (c' : Cls) :
    (closeListByAge r c s).list r' c'
      = if r' = r ∧ c' = c then (s.list r' c').map (Burst.closeByAge s.venueTime) else s.list r' c' := by
  unfold closeListByAge
  simp only
  split
  · next h =>
    split
    · next hrc => rw [hrc.1, hrc.2, h]
    · rfl
  · rw [list_askIfEligible, list_setList_of_sorted hs]
    refine if_ctx_congr Iff.rfl (fun hrc => ?_) (fun _ => rfl)
    rw [hrc.1, hrc.2]

theorem list_closeLists (r : Nat) (cs : List Cls) (hnd : cs.Nodup) (hs : s.egress.lists.sorted = true) (r' : Nat) (c' : Cls) :
    (cs.foldl (fun s c => closeListByAge r c s) s).list r' c'
      = if r' = r ∧ c' ∈ cs then (s.list r' c').map (Burst.closeByAge s.venueTime) else s.list r' c' := by
  induction cs generalizing s with
  | nil => simp
  | cons c cs ih =>
    obtain ⟨hc, hnd⟩ := List.nodup_cons.1 hnd
    have hstep := closeListByAge_regrouped r c s
    have htime : (closeListByAge r c s).venueTime = s.venueTime := by rw [hstep.1]
    rw [List.foldl_cons, ih hnd (hstep.2 hs), list_closeListByAge hs, htime]
    by_cases hr : r' = r
    · by_cases hcc : c' = c
      · subst hcc
        simp [hr, hc]
      · simp [hcc]
    · simp [hr]

theorem list_closeByAge (hs : s.egress.lists.sorted = true) (r r' : Nat) (c' : Cls) : (closeByAge r s).list r' c'
    = if r' = r then (s.list r' c').map (Burst.closeByAge s.venueTime) else s.list r' c' := by
  unfold closeByAge
  rw [list_closeLists r Cls.all (by decide) hs]
  have hall : c' ∈ Cls.all := by cases c' <;> decide
  simp [hall]

theorem list_closeRadios (rs : List Nat) (hnd : rs.Nodup) (hs : s.egress.lists.sorted = true) (r' : Nat) (c' : Cls) :
    (rs.foldl (fun s r => closeByAge r s) s).list r' c'
      = if r' ∈ rs then (s.list r' c').map (Burst.closeByAge s.venueTime) else s.list r' c' := by
  induction rs generalizing s with
  | nil => rfl
  | cons r rs ih =>
    obtain ⟨hr, hnd⟩ := List.nodup_cons.1 hnd
    have hstep := closeByAge_regrouped r s
    have htime : (closeByAge r s).venueTime = s.venueTime := by rw [hstep.1]
    rw [List.foldl_cons, ih hnd (hstep.2 hs), list_closeByAge hs, htime]
    by_cases hrr : r' = r
    · subst hrr
      simp [hr]
    · simp [hrr]

theorem closeAllByAge_regrouped (s : State) : s.Regrouped (closeAllByAge s) :=
  .foldl (fun s r => closeByAge_regrouped r s) _ s

/-- A radio without class lists holds no burst. -/
theorem list_of_unlisted {r : Nat} (h : r ∉ s.sealRadios) (c : Cls) : s.list r c = [] := by
  have hnone : s.egress.lists.find r = none := by
    rw [← Option.not_isSome_iff_eq_none]
    intro hsome
    obtain ⟨x, hx⟩ := Option.isSome_iff_exists.1 hsome
    exact h (key_mem_of_find hx)
  unfold State.list State.lists Table.get
  rw [hnone]
  cases c <;> rfl

/-- Every OPEN burst past its seal deadline closes (R49). -/
theorem list_closeAllByAge (hs : s.egress.lists.sorted = true) (r : Nat) (c : Cls) :
    (closeAllByAge s).list r c = (s.list r c).map (Burst.closeByAge s.venueTime) := by
  refine (list_closeRadios _ (nodup_keys hs) hs r c).trans (ite_eq_left_iff.2 fun h => ?_)
  rw [list_of_unlisted h]
  rfl

theorem closeByAge_moved (now : Time) (f : Time → Time) (b : Burst) :
    ({ b with sealAt := b.sealAt.map f } : Burst).closeByAge now = match b.sealAt with
      | some d => if b.state = .opened ∧ reached now (f d) = true then { b with state := .closed, sealAt := none }
        else { b with sealAt := some (f d) }
      | none => b := by
  obtain ⟨state, frames, sealAt⟩ := b
  cases sealAt <;> rfl

/-! ### Arbiters asked -/

theorem askPort_asks (s : State) (a : List Nat) (p : Nat) :
    ∃ b, State.askPort { s with ev := { s.ev with ask := a } } p = { s with ev := { s.ev with ask := b } } :=
  ⟨_, askPort_eq _ p⟩

theorem askAll_asks (s : State) : ∃ a, s.askAll = { s with ev := { s.ev with ask := a } } := by
  obtain ⟨a, ha⟩ := askPort_asks s s.ev.ask 0
  obtain ⟨b, hb⟩ := askPort_asks s a 1
  obtain ⟨c, hc⟩ := askPort_asks s b 2
  obtain ⟨d, hd⟩ := askPort_asks s c 3
  refine ⟨d, ?_⟩
  unfold State.askAll
  rw [show s.askPort 0 = _ from ha, hb, hc, hd]

/-! ### The phase change (R82) -/

/-- The governor in another phase context, a ramp ended, before the change is counted. -/
def Governor.inPhase (g : Governor) (c : Phase) : Governor :=
  { g with active := c, surge := if g.surge.stage.isSome then .off else g.surge }

/-- The notices of a phase change (R73, R82). -/
def State.phaseTold (s : State) (c : Phase) : State :=
  let told := notice .phaseChanged (be 1 c.code ++ be 1 s.gov.active.code ++ be 1 (s.gov.inPhase c).throttle) s
  if s.gov.surge.stage.isSome then
    notice .surgeChanged (be 1 1 ++ optField 1 none ++ be 1 0 ++ be 1 (s.gov.inPhase c).throttle) told
  else told

/-- The radios after a phase change: refilled under the old context, at most the new ceiling, their waiting set anew. -/
def State.phaseRadios (s : State) (c : Phase) : Table Radio :=
  ((s.radios.mapVals {} (Radio.ifPresent (s.gov.refill s.venueTime))).mapVals {}
    (Radio.ifPresent (s.gov.inPhase c).clampCredit)).mapVals {} (Radio.ifPresent ((s.gov.inPhase c).rewait s.venueTime))

/-- How far a phase change moves the seal deadlines. -/
def Governor.sealShift (g : Governor) (c : Phase) (d : Time) : Time :=
  d + BitVec.ofInt 48 (((g.inPhase c).activeCtx.sealAge.toNat : Int) - g.activeCtx.sealAge.toNat)

/-- The state of a phase change once the bursts past their moved seal deadlines have closed, before its notices. -/
def State.phaseAged (s : State) (c : Phase) : State :=
  closeAllByAge (State.modSeals { s with radios := s.phaseRadios c, gov := s.gov.inPhase c } (s.gov.sealShift c))

theorem changePhase_aged (c : Phase) (s : State) : changePhase c s = (((if s.gov.surge.stage.isSome
    then surgeNotice (phaseChanged c s.gov.active (s.phaseAged c)) else phaseChanged c s.gov.active (s.phaseAged c)).modGovCtrs
      (fun k => { k with phaseChanges := bump k.phaseChanges })).askAll) := by
  unfold changePhase State.phaseAged State.phaseRadios Governor.sealShift Governor.inPhase
  cases hr : s.gov.surge.stage.isSome
  · simp only [modPresentRadios_eq, State.modGov, hr, Bool.false_eq_true, if_false]
  · simp only [modPresentRadios_eq, State.modGov, hr, if_true]
    rfl

theorem phaseAged_regrouped (c : Phase) (s : State) :
    State.Regrouped { s with radios := s.phaseRadios c, gov := s.gov.inPhase c } (s.phaseAged c) :=
  State.Regrouped.trans (t := State.modSeals { s with radios := s.phaseRadios c, gov := s.gov.inPhase c } (s.gov.sealShift c))
    (modSeals_regrouped _ _) (closeAllByAge_regrouped _)

theorem phaseTold_only (c : Phase) (s : State) : ∃ tx es, s.phaseTold c
    = { s with uplink := { s.uplink with tx := tx }, err := { s.err with entries := es } } := by
  unfold State.phaseTold
  obtain ⟨tx, es, h⟩ := notice_only .phaseChanged
    (be 1 c.code ++ be 1 s.gov.active.code ++ be 1 (s.gov.inPhase c).throttle) s
  simp only [h]
  split
  · obtain ⟨tx', es', h'⟩ := notice_only .surgeChanged (be 1 1 ++ optField 1 none ++ be 1 0 ++ be 1 (s.gov.inPhase c).throttle)
      { s with uplink := { s.uplink with tx := tx }, err := { s.err with entries := es } }
    exact ⟨tx', es', h'⟩
  · exact ⟨tx, es, rfl⟩

/-- The notices of a phase change are those of the state it begins in. -/
theorem phaseNotices_eq (c : Phase) (he : t.err = s.err) (hu : t.uplink = s.uplink) (hm : t.mgmt = s.mgmt)
    (hg : t.gov = s.gov.inPhase c) :
    (if s.gov.surge.stage.isSome then surgeNotice (phaseChanged c s.gov.active t) else phaseChanged c s.gov.active t)
      = { t with uplink := (s.phaseTold c).uplink, err := (s.phaseTold c).err } := by
  obtain ⟨tx, es, htold⟩ := notice_only .phaseChanged
    (be 1 c.code ++ be 1 s.gov.active.code ++ be 1 (s.gov.inPhase c).throttle) s
  have hfirst : phaseChanged c s.gov.active t = { t with
      uplink := { s.uplink with tx := tx }, err := { s.err with entries := es } } := by
    unfold phaseChanged
    rw [show t.gov.throttle = _ from congrArg Governor.throttle hg, notice_transport _ _ he hu hm, htold]
  unfold State.phaseTold
  rw [hfirst, htold]
  split
  · next hr =>
    have hoff : (s.gov.inPhase c).surge = .off := if_pos hr
    have hpart : (s.gov.inPhase c).surgePart = 0 := by unfold Governor.surgePart; rw [hoff]
    unfold surgeNotice
    simp only [hg, hoff, hpart]
    exact notice_transport (s := { s with uplink := { s.uplink with tx := tx }, err := { s.err with entries := es } })
      _ _ rfl rfl hm
  · rfl

/-- A phase change, but for its counter and the arbiters it asks. -/
def State.rephased (s : State) (c : Phase) (l : Table RadioLists) : State :=
  { s.phaseTold c with
    gov := { s.gov.inPhase c with ctrs := { s.gov.ctrs with phaseChanges := bump s.gov.ctrs.phaseChanges } }
    radios := s.phaseRadios c, egress := { s.egress with lists := l } }

theorem changePhase_eq (c : Phase) (s : State) :
    ∃ a, changePhase c s = { s.rephased c (s.phaseAged c).egress.lists with ev := { s.ev with ask := a } } := by
  have haged := (phaseAged_regrouped c s).1
  obtain ⟨tx, es, htold⟩ := phaseTold_only c s
  rw [changePhase_aged, phaseNotices_eq c (by rw [haged]) (by rw [haged]) (by rw [haged]) (by rw [haged])]
  obtain ⟨a, ha⟩ := askAll_asks (State.modGovCtrs
    { s.phaseAged c with uplink := (s.phaseTold c).uplink, err := (s.phaseTold c).err }
    (fun k => { k with phaseChanges := bump k.phaseChanges }))
  refine ⟨a, ha.trans ?_⟩
  unfold State.rephased
  rw [htold, haged]
  rfl

theorem list_phaseAged (hs : s.egress.lists.sorted = true) (c : Phase) (r : Nat) (k : Cls) :
    (s.phaseAged c).list r k = (s.list r k).map (fun b => match b.sealAt with
      | some d => if b.state = .opened ∧ reached s.venueTime (s.gov.sealShift c d) = true
        then { b with state := .closed, sealAt := none } else { b with sealAt := some (s.gov.sealShift c d) }
      | none => b) := by
  have hsealed := list_modSeals (s := { s with radios := s.phaseRadios c, gov := s.gov.inPhase c }) hs (s.gov.sealShift c) r k
  refine (list_closeAllByAge (s := State.modSeals { s with radios := s.phaseRadios c, gov := s.gov.inPhase c }
    (s.gov.sealShift c)) ((modSeals_regrouped _ _).2 hs) r k).trans ?_
  rw [hsealed, List.map_map]
  refine List.map_congr_left fun b _ => ?_
  exact closeByAge_moved _ _ b

theorem radio_phaseRadios (hs : s.radios.sorted = true) (c : Phase) (r : Nat) : Table.get {} (s.phaseRadios c) r
    = (s.radio r).ifPresent (fun x => (s.gov.inPhase c).rewait s.venueTime ((s.gov.inPhase c).clampCredit
      (s.gov.refill s.venueTime x))) := by
  have h1 := Table.sorted_mapVals {} (Radio.ifPresent (s.gov.refill s.venueTime)) hs
  have h2 := Table.sorted_mapVals {} (Radio.ifPresent (s.gov.inPhase c).clampCredit) h1
  unfold State.phaseRadios
  rw [Table.get_mapVals h2 rfl, Table.get_mapVals h1 rfl, Table.get_mapVals hs rfl]
  have hclamp (x : Radio) : ((s.gov.inPhase c).clampCredit x).state = x.state := by
    unfold Governor.clampCredit; split <;> rfl
  unfold Radio.ifPresent State.radio
  by_cases ha : (Table.get {} s.radios r).state = .absent
  · simp only [ha, if_true]
  · simp only [ha, if_false, refill_state, hclamp]

theorem phaseTold_queued (s : State) (e : MgmtEntry) (c : Phase) : (s.queued e).phaseTold c = (s.phaseTold c).queued e := by
  unfold State.phaseTold
  simp only [show (s.queued e).gov = s.gov from rfl, notice_queued]
  split <;> rfl

theorem phaseOf_code {b : Byte} {c : Phase} (h : b.toNat = c.code) : phaseOf b = some c := by
  unfold phaseOf
  rw [h]
  cases c <;> rfl

section
variable {src : Addr} {tag : Half} {b : Byte} {c : Phase}

theorem runPhaseSet_active (h : b.toNat = c.code) (hc : c = s.gov.active) : runPhaseSet b s = answered .done s := by
  unfold runPhaseSet
  simp only [phaseOf_code h]
  exact if_pos hc

theorem runPhaseSet_invalid (h : b.toNat = c.code) (hc : c ≠ s.gov.active) (hv : (s.gov.ctx c).valid = false) :
    runPhaseSet b s = answered .invalidContext (notice .phaseRefused (be 1 c.code)
      (s.modGovCtrs (fun k => { k with phaseRefusals := bump k.phaseRefusals }))) := by
  unfold runPhaseSet
  simp only [phaseOf_code h]
  rw [if_neg hc, if_pos hv]

theorem runPhaseSet_change (h : b.toNat = c.code) (hc : c ≠ s.gov.active) (hv : (s.gov.ctx c).valid = true) :
    runPhaseSet b s = answered .done (changePhase c s) := by
  unfold runPhaseSet
  simp only [phaseOf_code h]
  rw [if_neg hc, if_neg (by simp [hv])]

/-- PHASE_SET of the other context, which is not VALID (R81). -/
theorem exec_phaseSet_invalid (hs : s.Ready src) (h : b.toNat = c.code) (hc : c ≠ s.gov.active)
    (hv : (s.gov.ctx c).valid = false) : exec (.phaseSet src tag b) s = .next ((notice .phaseRefused (be 1 c.code)
      (s.modGovCtrs (fun k => { k with phaseRefusals := bump k.phaseRefusals }))).concluded src 31 tag .invalidContext []) := by
  obtain ⟨tx, es, htold⟩ := notice_only .phaseRefused (be 1 c.code)
    (s.modGovCtrs (fun k => { k with phaseRefusals := bump k.phaseRefusals }))
  refine exec_concluded (d := .phaseSet b) hs rfl rfl rfl ?_ (by rw [htold]; rfl) (by rw [htold]; rfl)
  refine (runPhaseSet_invalid (s := s.queued _) h hc hv).trans ?_
  rw [← notice_queued]
  rfl

/-- PHASE_SET of the other context, which is VALID, all four ports sending (R81, R82). -/
theorem exec_phaseSet_change (hs : s.Ready src) (h : b.toNat = c.code) (hc : c ≠ s.gov.active)
    (hv : (s.gov.ctx c).valid = true) (hb : s.allBusy = true) : exec (.phaseSet src tag b) s
      = .next ((s.rephased c ((s.queued ⟨src, tag, .phaseSet b⟩).phaseAged c).egress.lists).concluded src 31 tag .done []) := by
  obtain ⟨a, ha⟩ := changePhase_eq c (s.queued ⟨src, tag, .phaseSet b⟩)
  obtain ⟨tx, es, htold⟩ := phaseTold_only c s
  refine exec_concluded_allBusy (d := .phaseSet b) (a := a) hs rfl rfl rfl ?_ ?_ ?_ ?_
  · refine (runPhaseSet_change (s := s.queued _) h hc hv).trans ?_
    rw [ha]
    unfold State.rephased
    rw [phaseTold_queued]
    rfl
  all_goals unfold State.rephased; rw [htold]
  exact hb
end

/-! ### The surge inputs (R73, R74, R76) -/

/-- A change of the surge state, but for the arbiters it asks (R73, R76). -/
def State.surged (s : State) (new : Surge) : State :=
  let s1 := surgeNotice (s.modGov (fun g => { g with surge := new }))
  if s1.gov.throttle = s.gov.throttle then s1
  else (s1.modPresentRadios (fun r => s1.gov.rewake s.venueTime (s.gov.refill s.venueTime r))).modGovCtrs
    (fun k => { k with throttleChanges := bump k.throttleChanges })

theorem surgeNotice_only (s : State) : ∃ tx es, surgeNotice s
    = { s with uplink := { s.uplink with tx := tx }, err := { s.err with entries := es } } := notice_only _ _ _

theorem surgeNotice_queued (s : State) (e : MgmtEntry) : surgeNotice (s.queued e) = (surgeNotice s).queued e :=
  notice_queued _ _ s e

theorem surged_only (s : State) (new : Surge) : ∃ tx es rs k, s.surged new = { s with
    uplink := { s.uplink with tx := tx }, err := { s.err with entries := es }, radios := rs
    gov := { s.gov with surge := new, ctrs := k } } := by
  obtain ⟨tx, es, h⟩ := surgeNotice_only (s.modGov (fun g => { g with surge := new }))
  unfold State.surged
  simp only [h]
  split
  · exact ⟨_, _, _, _, rfl⟩
  · exact ⟨_, _, _, _, rfl⟩

theorem surged_queued (s : State) (e : MgmtEntry) (new : Surge) : (s.queued e).surged new = (s.surged new).queued e := by
  have hset : (s.queued e).modGov (fun g => { g with surge := new }) = (s.modGov (fun g => { g with surge := new })).queued e := rfl
  unfold State.surged
  simp only [hset, surgeNotice_queued]
  rw [apply_ite (fun u : State => u.queued e)]
  rfl

theorem changeSurge_eq (s : State) (new : Surge) :
    ∃ a, changeSurge new s = { s.surged new with ev := { s.ev with ask := a } } := by
  obtain ⟨tx, es, h⟩ := surgeNotice_only (s.modGov (fun g => { g with surge := new }))
  unfold changeSurge State.surged
  simp only [h]
  split
  · exact ⟨s.ev.ask, rfl⟩
  · exact askAll_asks _

/-- An onset of surge is counted where surge was OFF (R73). -/
def State.onset (s : State) : State :=
  s.modGovCtrs (fun k => { k with surgeOnsets := if s.gov.surge = .off then bump k.surgeOnsets else k.surgeOnsets })

/-- An input has asserted surge, but for the arbiters asked (R73). -/
def State.surgedOn (s : State) : State := s.onset.surged .on

theorem surgedOn_only (s : State) : ∃ tx es rs k, s.surgedOn = { s with
    uplink := { s.uplink with tx := tx }, err := { s.err with entries := es }, radios := rs
    gov := { s.gov with surge := .on, ctrs := k } } := surged_only s.onset .on

theorem surgedOn_queued (s : State) (e : MgmtEntry) : (s.queued e).surgedOn = s.surgedOn.queued e := surged_queued s.onset e .on

/-- An input asserts surge (R73). -/
theorem takeSurge_asserts (hs : s.surgeAsserted = true) (hn : s.gov.surge ≠ .on) :
    ∃ a, takeSurge false s = { s.surgedOn with ev := { s.ev with ask := a } } := by
  have htake : takeSurge false s = changeSurge .on s.onset := by
    unfold takeSurge State.onset
    simp only [hs, Bool.false_eq_true, if_false, if_true]
    cases hx : s.gov.surge with
    | off => rfl
    | on => exact absurd hx hn
    | ramping k d => rfl
  rw [htake]
  exact changeSurge_eq s.onset .on

/-- A change that leaves surge asserted or not as it was changes nothing more (R73). -/
theorem takeSurge_same {was : Bool} (h : was = s.surgeAsserted) : takeSurge was s = s := if_pos h

theorem surgeBody_queued (s : State) (e : MgmtEntry) (x : Scratch) : surgeBody { s.queued e with ev := x } = surgeBody s := rfl

theorem surgeBody_surgedOn (s : State) : surgeBody s.surgedOn
    = flagByte s.gov.surgeFlag ++ flagByte s.surgeLine ++ be 1 2 ++ optField 1 none ++ be 1 s.surgedOn.gov.throttle := by
  obtain ⟨tx, es, rs, k, honly⟩ := surgedOn_only s
  have hflag : s.surgedOn.gov.surgeFlag = s.gov.surgeFlag := by rw [honly]
  have hline : s.surgedOn.surgeLine = s.surgeLine := by rw [honly]
  have hsurge : s.surgedOn.gov.surge = .on := by rw [honly]
  unfold surgeBody
  rw [hflag, hline, hsurge]
  rfl

/-- The surge flag takes a value (R74). -/
def State.flagged (s : State) (f : Bool) : State := s.modGov (fun g => { g with surgeFlag := f })

theorem surgeBody_flagged {f : Bool} (hs : s.gov.surge = .on) (hl : s.surgeLine = true) : surgeBody (s.flagged f)
    = flagByte f ++ flagByte true ++ be 1 2 ++ optField 1 none ++ be 1 s.gov.throttle := by
  unfold surgeBody
  rw [show (s.flagged f).surgeLine = true from hl, show (s.flagged f).gov.surge = .on from hs]
  rfl

theorem changeLine_same {level : Bool} (h : s.surgeAsserted = (level || s.gov.surgeFlag)) :
    changeLine level s = { s with surgeLine := level } := takeSurge_same h

/-- The line changes and surge stays asserted, or not, as it was (R73). -/
theorem exec_surgeLineChange_same {level : Bool} (hs : s.Between) (h : s.surgeAsserted = (level || s.gov.surgeFlag)) :
    exec (.surgeLineChange level) s = .next { s with surgeLine := level }.ended := by
  have hc : changeLine level s = { s with surgeLine := level } := changeLine_same h
  refine (event_calm (f := changeLine level) hs (by rw [hc]; exact calm_of_fields rfl rfl rfl rfl)).trans ?_
  rw [hc]

/-- The end of the event in which surge is asserted, all four ports sending (R53). -/
theorem finish_surgedOn {a : List Nat} (hr : s.ev.roomFreed = false) (hl : s.ev.look = false) (hb : s.allBusy = true)
    (hm : s.Settled) : finish { s.surgedOn with ev := { s.ev with ask := a } } = s.surgedOn.ended := by
  obtain ⟨tx, es, rs, k, honly⟩ := surgedOn_only s
  rw [honly]
  exact finish_allBusy hr hl hb hm

/-- The line asserts surge, all four ports sending (R73, R76). -/
theorem exec_surgeLineChange_asserts (hs : s.Between) (hb : s.allBusy = true) (hn : s.gov.surge ≠ .on)
    (hl : s.surgeLine = false) (hf : s.gov.surgeFlag = false) : exec (.surgeLineChange true) s
      = .next (State.surgedOn { s with surgeLine := true }).ended := by
  have hnot : s.surgeAsserted = false := by unfold State.surgeAsserted; rw [hl, hf]; rfl
  obtain ⟨a, ha⟩ := takeSurge_asserts (s := { s with surgeLine := true }) rfl hn
  have hline : changeLine true s = _ := (congrArg (fun was => takeSurge was { s with surgeLine := true }) hnot).trans ha
  show event (changeLine true) s = _
  unfold event
  rw [hline, finish_surgedOn (s := { s with surgeLine := true }) (quiet_room hs.1) (quiet_look hs.1) hb hs.2]

section
variable {src : Addr} {tag : Half}

/-- SURGE_SET of a flag that leaves surge asserted, or not, as it was (R73, R74). -/
theorem exec_surgeSet_same {b : Byte} {f : Bool} (hs : s.Ready src) (hb : flagOf b = some f)
    (h : s.surgeAsserted = (s.surgeLine || f)) : exec (.surgeSet src tag b) s
      = .next ((s.flagged f).concluded src 32 tag .done
        (surgeBody (s.flagged f))) := by
  refine exec_concluded (d := .surgeSet b) hs rfl rfl rfl ?_ rfl rfl
  have hsame : takeSurge (s.queued ⟨src, tag, .surgeSet b⟩).surgeAsserted ((s.queued ⟨src, tag, .surgeSet b⟩).modGov
      (fun g => { g with surgeFlag := f })) = _ := takeSurge_same h
  show runSurgeSet b _ = _
  unfold runSurgeSet
  simp only [hb, hsame]
  rfl

/-- SURGE_SET asserts surge, all four ports sending (R73, R74, R76). -/
theorem exec_surgeSet_asserts (hs : s.Ready src) (hb : s.allBusy = true) (hn : s.gov.surge ≠ .on)
    (hl : s.surgeLine = false) (hf : s.gov.surgeFlag = false) : exec (.surgeSet src tag 1) s
      = .next ((s.flagged true).surgedOn.concluded src 32 tag .done
        (flagByte true ++ flagByte false ++ be 1 2 ++ optField 1 none ++ be 1 (s.flagged true).surgedOn.gov.throttle)) := by
  have hnot : s.surgeAsserted = false := by unfold State.surgeAsserted; rw [hl, hf]; rfl
  have hflag : (s.queued ⟨src, tag, .surgeSet 1⟩).modGov (fun g => { g with surgeFlag := true })
    = (s.flagged true).queued ⟨src, tag, .surgeSet 1⟩ := rfl
  obtain ⟨a, ha⟩ := takeSurge_asserts
    (s := (s.flagged true).queued ⟨src, tag, .surgeSet 1⟩) (Bool.or_true _) hn
  rw [surgedOn_queued] at ha
  obtain ⟨tx, es, rs, k, honly⟩ := surgedOn_only (s.flagged true)
  refine exec_concluded_allBusy (d := .surgeSet 1) (a := a) hs rfl rfl rfl ?_ (by rw [honly]; exact hb) (by rw [honly]; rfl)
    (by rw [honly]; rfl)
  show runSurgeSet 1 _ = _
  unfold runSurgeSet
  rw [show (s.queued ⟨src, tag, .surgeSet 1⟩).surgeAsserted = false from hnot]
  simp only [show flagOf 1 = some true from rfl, hflag, ha]
  refine Prod.ext (congrArg (fun b => some (⟨.done, b⟩ : Answer)) ?_) rfl
  have hbody : surgeBody (s.flagged true).surgedOn = _ := surgeBody_surgedOn (s.flagged true)
  rw [show (s.flagged true).surgeLine = false from hl, show (s.flagged true).gov.surgeFlag = true from rfl] at hbody
  exact (surgeBody_queued _ _ _).trans hbody
end

end Sys2Proof.Machine

open Sys2Proof.Machine

/-- Settles O29: SET_TIME read table by table; PHASE_SET by its answers; and the surge inputs by whether they change what is
asserted. -/
theorem timePhaseAndSurgeChange : Obligations.TimePhaseAndSurgeChange := by
  refine ⟨?_, ?_, ?_⟩
  · intro s src tag time hs hrs hls hrec hrad hstage
    refine ⟨setVenueTime time s, exec_setTime hs fun _ => expireDue_none hrec hrad hstage, fun h => Table.find_map _ _ h,
      fun h => Table.find_map _ _ h, radio_setVenueTime hrs time, list_setVenueTime hls time, ?_⟩
    rfl
  · intro s src tag b hs
    refine ⟨fun h1 h2 => ?_, fun c hb => ⟨fun hc => ?_, fun hc hv => ?_, fun hc hv hbusy hrs hls => ?_⟩⟩
    · have hn : phaseOf b = none := phaseOf_none (fun h => h1 (by rw [h]; rfl)) (fun h => h2 (by rw [h]; rfl))
      exact exec_unchanged hs rfl rfl rfl (runPhaseSet_range hn)
    · exact exec_unchanged hs rfl rfl rfl (runPhaseSet_active (s := s.queued ⟨src, tag, .phaseSet b⟩) hb hc)
    · exact exec_phaseSet_invalid hs hb hc hv
    · refine ⟨_, exec_phaseSet_change hs hb hc hv hbusy, ?_, radio_phaseRadios hrs c,
        list_phaseAged (s := s.queued ⟨src, tag, .phaseSet b⟩) hls c⟩
      rfl
  · intro s hs on
    have hon (u : State) : on u = u.surgedOn := rfl
    clear_value on
    have hready {src} (h : s.RunsAtOnce src) : s.Ready src := ⟨hs.1, h⟩
    refine ⟨fun hb hn hl hf => ⟨?_, fun src tag hr => ?_⟩, fun hl hf => ?_, fun hsurge hf level => ?_,
      fun hsurge hl src tag f hr => ?_⟩
    · rw [hon]
      exact exec_surgeLineChange_asserts hs hb hn hl hf
    · simp only [hon]
      exact exec_surgeSet_asserts (hready hr) hb hn hl hf
    · refine (exec_surgeLineChange_same hs (by unfold State.surgeAsserted; rw [hl])).trans ?_
      rw [← hl]
    · exact exec_surgeLineChange_same hs (by unfold State.surgeAsserted; rw [hf, Bool.or_true, Bool.or_true])
    · have hflag : flagOf (if f then 1 else 0) = some f := by cases f <;> rfl
      refine (exec_surgeSet_same (hready hr) hflag (by unfold State.surgeAsserted; rw [hl]; rfl)).trans ?_
      rw [surgeBody_flagged hsurge hl]
      rfl
end

section
/-! Bursts: where an offered frame goes (R44, R47), what its sender is told (R46, R48), what a recall takes (R27, R58), and what a
burst costs (R64, R65). -/

-- One proof at a time: the threads of the default would not fit the memory the check allows.
set_option Elab.async false

open Sys2Proof

namespace Sys2Proof.Machine

variable {s t u : State}

/-! ### Where an offered frame goes (R44, R47) -/

section
variable {r : Nat} {c : Cls} {f : Frame}

theorem mergeTail_unfit {l : List Burst} (h : ∀ bs b, l = bs ++ [b] → ¬ (b.state = .opened ∧ b.frames.length < 8
    ∧ (b.frames.map (fun f => f.payload.length)).sum + f.payload.length ≤ 12000)) : mergeTail f l = none :=
  mergeTail_none fun bs b hl => Bool.eq_false_iff.2 fun hfit => h bs b hl (fits_iff.1 hfit)

/-- A frame that joins no tail gets no room where no burst may be opened (R44, R45). -/
theorem place_noRecord (hm : mergeTail f (s.list r c) = none)
    (hn : ¬ (s.egress.bursts < (if c = .admission then 1024 else 960) ∧ (c = .replay → (s.list r c).length < 4))) :
    place s r c f = none := by
  have hno : ¬ (burstFree c s.egress.bursts = true ∧ ¬ (c = .replay ∧ Config.replayBursts ≤ (s.list r c).length)) :=
    fun ⟨hb, hr⟩ => hn ⟨burstFree_iff.1 hb, fun hc => Nat.lt_of_not_le fun hle => hr ⟨hc, hle⟩⟩
  unfold place
  simp only [hm, if_neg hno, ite_self]

/-! ### What the sender is told (R46, R48) -/

theorem offer_refused {sort : OfferSort} (hr : s.inService r = false) : offer sort r c f s
    = (.refused, s.modRadio r (fun x => { x with drops := { x.drops with notInService := bump x.drops.notInService } })) := by
  unfold offer
  rw [hr]
  rfl

theorem offer_declinable (hr : s.inService r = true) (hp : place s r c f = none) : offer .declinable r c f s
    = (.declined, { s with egress := { s.egress with declined := bump s.egress.declined } }) := by
  unfold offer
  simp only [hr, hp, Bool.not_true, Bool.false_eq_true, if_false]

theorem offer_dropped_told (hr : s.inService r = true) (hp : place s r c f = none) : (offer .droppable r c f s).1 = .dropped := by
  unfold offer
  simp only [hr, hp, Bool.not_true, Bool.false_eq_true, if_false]

theorem offer_accepted {sort : OfferSort} {l : List Burst} {opened : Bool} (hr : s.inService r = true)
    (hp : place s r c f = some (l, opened)) : (offer sort r c f s).1 = .accepted := by
  unfold offer
  simp only [hr, hp, Bool.not_true, Bool.false_eq_true, if_false]

theorem raiseEgress_only (h : Option Nat) (s : State) : ∃ st, raiseEgress h s = { s with stations := st } := by
  unfold raiseEgress State.modStation
  split
  · split
    · exact ⟨_, rfl⟩
    · exact ⟨_, rfl⟩
  · exact ⟨_, rfl⟩

/-- What a frame that joins a class list leaves, but for the arbiters asked (R47). -/
def State.accepted (s : State) (r : Nat) (c : Cls) (f : Frame) (l : List Burst) (opened : Bool) : State :=
  { raiseEgress f.handle (s.setList r c l) with
    egress := { (s.setList r c l).egress with
      buffers := s.egress.buffers + 1, bursts := s.egress.bursts + (if opened then 1 else 0)
      accepted := bump s.egress.accepted } }

theorem raiseEgress_egress (h : Option Nat) (s : State) (e : Egress) :
    raiseEgress h { s with egress := e } = { raiseEgress h s with egress := e } := by
  cases h with
  | none => rfl
  | some k =>
    have hs : State.station { s with egress := e } k = s.station k := rfl
    simp only [raiseEgress, State.modStation, hs]
    cases s.station k <;> rfl

theorem acceptFrame_accepted (l : List Burst) (opened : Bool) : acceptFrame r c f l opened s
    = askIfEligible r c (s.list r c) l false (s.accepted r c f l opened) := by
  unfold acceptFrame State.accepted
  simp only [raiseEgress_egress]
  rfl

theorem acceptFrame_only (l : List Burst) (opened : Bool) : acceptFrame r c f l opened s
    = { s.accepted r c f l opened with ev := (acceptFrame r c f l opened s).ev } := by
  rw [acceptFrame_accepted]
  obtain ⟨ev, h⟩ := askIfEligible_only r c (s.list r c) l false (s.accepted r c f l opened)
  rw [h]

/-- The radio's arbiter is asked where the frame makes the head of its list eligible (R47, R50). -/
theorem acceptFrame_asks {l : List Burst} (opened : Bool) (hnew : headEligible c l = true)
    (hwas : headEligible c (s.list r c) = false) {x : RadioCfg} (hx : (s.radio r).cfg = some x) :
    x.port ∈ (acceptFrame r c f l opened s).ev.ask := by
  obtain ⟨st, hst⟩ := raiseEgress_only f.handle (s.setList r c l)
  have hradio : (s.accepted r c f l opened).radio r = s.radio r := by
    unfold State.accepted
    rw [hst]
    rfl
  rw [acceptFrame_accepted]
  unfold askIfEligible
  rw [hnew, hwas]
  exact mem_askRadio.2 (.inl (by rw [hradio, hx]; rfl))
end

/-! ### What is taken out of a class list (R58) -/

/-- The frames of a burst that are not the station's. -/
def Burst.others (h : Nat) (b : Burst) : List Frame := b.frames.filter (fun f => decide (f.handle ≠ some h))

theorem takeFrames_eq (h : Nat) (l : List Burst) : takeFrames h l
    = ((l.filter (fun b => !b.isTransmitting)).flatMap (fun b => b.frames.filter (fun f => decide (f.handle = some h))),
      l.filterMap (fun b => if b.isTransmitting = true then some b else if b.others h = [] then none
        else some { b with frames := b.others h })) := by
  induction l with
  | nil => rfl
  | cons b l ih =>
    have hleft : b.frames.filter (fun f => decide (f.handle ≠ some h)) = b.others h := rfl
    unfold takeFrames
    simp only [ih, hleft, List.filter_cons, List.filterMap_cons]
    by_cases hb : b.isTransmitting = true
    · simp [hb]
    · by_cases ho : b.others h = [] <;> simp [hb, ho]

/-! ### What is taken out of a radio's lists (R27, R58) -/

/-- A class list once a station's frames are taken out of it; a list that holds none of them stays as it is. -/
def State.thinned (s : State) (h r : Nat) (c : Cls) : List Burst :=
  if (takeFrames h (s.list r c)).1 = [] then s.list r c else (takeFrames h (s.list r c)).2

/-- How many frames of a station the class lists named give up. -/
def State.takenCount (s : State) (h r : Nat) (cs : List Cls) : Nat :=
  (cs.flatMap (fun c => (takeFrames h (s.list r c)).1)).length

/-- How many bursts the class lists named lose. -/
def State.emptiedCount (s : State) (h r : Nat) (cs : List Cls) : Nat :=
  (cs.map (fun c => (s.list r c).length - (s.thinned h r c).length)).sum

/-- A station's frames are taken out of the class lists named of a radio: nothing differs but the lists, the pool's counts and
the event's bookkeeping. -/
structure State.Thinned (h r : Nat) (cs : List Cls) (s t : State) : Prop where
  only : ∃ e, t = { s with
    egress := { s.egress with
      lists := t.egress.lists, buffers := s.egress.buffers - s.takenCount h r cs
      bursts := s.egress.bursts - s.emptiedCount h r cs }
    ev := e }
  sorted : t.egress.lists.sorted = true
  lists : ∀ q k, t.list q k = if q = r ∧ k ∈ cs then s.thinned h r k else s.list q k

section
variable {h r : Nat} {c : Cls} {cs : List Cls}

theorem State.Thinned.nil (hs : s.egress.lists.sorted = true) : State.Thinned h r [] s s :=
  ⟨⟨s.ev, rfl⟩, hs, fun q k => by simp⟩

theorem takeFromList_fst (s : State) : (takeFromList h r c s).1 = (takeFrames h (s.list r c)).1 := by
  unfold takeFromList
  simp only
  split
  · next hn => exact hn.symm
  · rfl

/-- What a class list leaves that gives up a station's frames, but for the event's bookkeeping (R58). -/
def State.givenUp (s : State) (h r : Nat) (c : Cls) : State :=
  { s.setList r c (takeFrames h (s.list r c)).2 with
    egress := { (s.setList r c (takeFrames h (s.list r c)).2).egress with
      buffers := s.egress.buffers - (takeFrames h (s.list r c)).1.length
      bursts := s.egress.bursts - ((s.list r c).length - (takeFrames h (s.list r c)).2.length) } }

theorem takeFromList_givenUp (hn : (takeFrames h (s.list r c)).1 ≠ []) :
    ∃ ev, takeFromList h r c s = ((takeFrames h (s.list r c)).1, { s.givenUp h r c with ev := ev }) := by
  obtain ⟨ev, hask⟩ := askIfEligible_only r c (s.list r c) (takeFrames h (s.list r c)).2 (headFreed h (s.list r c))
    (s.givenUp h r c).freedRoom
  refine ⟨ev, ?_⟩
  unfold takeFromList
  simp only [hn, if_false]
  exact congrArg (Prod.mk _) hask

theorem takeFromList_thinned (hs : s.egress.lists.sorted = true) : State.Thinned h r [c] s (takeFromList h r c s).2 := by
  by_cases hn : (takeFrames h (s.list r c)).1 = []
  · have hkeep : s.thinned h r c = s.list r c := if_pos hn
    rw [takeFromList_none hn]
    refine ⟨⟨s.ev, ?_⟩, hs, fun q k => ?_⟩
    · simp [State.takenCount, State.emptiedCount, hn, hkeep]
    · split
      · next hqk => rw [hqk.1, List.mem_singleton.1 hqk.2, hkeep]
      · rfl
  · have htake : s.thinned h r c = (takeFrames h (s.list r c)).2 := if_neg hn
    obtain ⟨ev, hgive⟩ := takeFromList_givenUp hn
    rw [hgive]
    refine ⟨⟨ev, ?_⟩, sorted_setList hs r c _, fun q k => ?_⟩
    · unfold State.givenUp
      simp only [State.takenCount, State.emptiedCount, htake, List.flatMap_cons, List.flatMap_nil, List.append_nil,
        List.map_cons, List.map_nil, List.sum_cons, List.sum_nil, Nat.add_zero]
      rfl
    · refine (list_setList_of_sorted hs r c _ q k).trans ?_
      rw [← htake]
      exact if_ctx_congr (and_congr_right' List.mem_singleton.symm) (fun hqk => by rw [List.mem_singleton.1 hqk.2]) fun _ => rfl

theorem State.Thinned.list_other (ht : State.Thinned h r [c] s t) {k : Cls} (hk : k ≠ c) : t.list r k = s.list r k := by
  rw [ht.lists, if_neg]
  exact fun hrk => hk (List.mem_singleton.1 hrk.2)

theorem State.Thinned.cons (ht : State.Thinned h r [c] s t) (hu : State.Thinned h r cs t u) (hc : c ∉ cs) :
    State.Thinned h r (c :: cs) s u := by
  have hlist {k} (hk : k ∈ cs) : t.list r k = s.list r k := ht.list_other fun hkc => hc (hkc ▸ hk)
  have hthin {k} (hk : k ∈ cs) : t.thinned h r k = s.thinned h r k := by unfold State.thinned; rw [hlist hk]
  have hcount : s.takenCount h r (c :: cs) = s.takenCount h r [c] + t.takenCount h r cs := by
    have : cs.flatMap (fun c => (takeFrames h (t.list r c)).1) = cs.flatMap (fun c => (takeFrames h (s.list r c)).1) :=
      List.flatMap_congr fun k hk => by rw [hlist hk]
    simp [State.takenCount, this]
  have hempty : s.emptiedCount h r (c :: cs) = s.emptiedCount h r [c] + t.emptiedCount h r cs := by
    have : cs.map (fun c => (t.list r c).length - (t.thinned h r c).length)
        = cs.map (fun c => (s.list r c).length - (s.thinned h r c).length) :=
      List.map_congr_left fun k hk => by rw [hlist hk, hthin hk]
    simp [State.emptiedCount, this]
  obtain ⟨e, he⟩ := ht.only
  obtain ⟨e', he'⟩ := hu.only
  refine ⟨⟨e', ?_⟩, hu.sorted, fun q k => ?_⟩
  · rw [he', hcount, hempty, ← Nat.sub_sub, ← Nat.sub_sub, he]
  · rw [hu.lists, ht.lists]
    by_cases hq : q = r
    · subst hq
      by_cases hk : k ∈ cs
      · simp [hk, hthin hk]
      · simp [hk]
    · simp [hq]

/-- The class lists of a radio one after another. -/
theorem foldl_takeFromList (hnd : cs.Nodup) (acc : List Frame) (hs : s.egress.lists.sorted = true) : ∃ t,
    cs.foldl (fun acc c =>
      let (fs, s1) := takeFromList h r c acc.2
      (acc.1 ++ fs, s1)) (acc, s) = (acc ++ cs.flatMap (fun c => (takeFrames h (s.list r c)).1), t)
    ∧ State.Thinned h r cs s t := by
  induction cs generalizing acc s with
  | nil => exact ⟨s, by simp, .nil hs⟩
  | cons c cs ih =>
    obtain ⟨hc, hnd⟩ := List.nodup_cons.1 hnd
    have hstep := takeFromList_thinned (h := h) (r := r) (c := c) hs
    obtain ⟨t, hfold, ht⟩ := ih hnd (acc ++ (takeFrames h (s.list r c)).1) hstep.sorted
    have htaken : cs.flatMap (fun k => (takeFrames h ((takeFromList h r c s).2.list r k)).1)
        = cs.flatMap (fun k => (takeFrames h (s.list r k)).1) :=
      List.flatMap_congr fun k hk => by rw [hstep.list_other fun hkc => hc (hkc ▸ hk)]
    refine ⟨t, ?_, hstep.cons ht hc⟩
    rw [htaken, List.append_assoc] at hfold
    rw [List.foldl_cons]
    simp only [takeFromList_fst]
    simp only [takeFromList_fst] at hfold
    exact hfold
end

/-! ### A recall (R27) -/

theorem applyPending_hold (st : Station) (l : List Frame) :
    ({ st with hold := l } : Station).applyPending = { st.applyPending with hold := l } := by
  unfold Station.applyPending
  simp only
  split
  · split <;> rfl
  · rfl

theorem drop_min_length {α : Type} (l : List α) (n : Nat) : l.drop (min n l.length) = l.drop n :=
  List.drop_eq_drop_iff.2 (by rw [Nat.min_assoc, Nat.min_self])

/-- The hold pool after a record's hold queue is replaced. -/
theorem holdUsed_setStation {h : Nat} {st : Station} (hs : s.station h = some st) (hss : s.stations.sorted = true) (v : Station) :
    (s.setStation h v).holdUsed + st.hold.length = s.holdUsed + v.hold.length := by
  have hput := Table.total_put (fun st : Station => st.hold.length) hss h v
  have hat : Table.weightAt (fun st : Station => st.hold.length) s.stations h = st.hold.length := by
    unfold Table.weightAt
    rw [show s.stations.find h = some st from hs]
    rfl
  rw [hat] at hput
  exact hput

/-- How many frames lie in a hold queue and in the hold pool beyond their limits (R26). -/
def State.heldExcess (s : State) (st : Station) : Nat := max (st.hold.length - 64) (s.holdUsed - 2048)

/-- A record whose `n` oldest held frames were dropped, each counted (R26, R27). -/
def State.trimmed (s : State) (h : Nat) (st : Station) (n : Nat) : State :=
  (s.setStation h { st with hold := st.hold.drop n }).modRoamCtrs
    (fun k => { k with holdOverflow := bumpBy k.holdOverflow n })

theorem trimmed_zero {h : Nat} {st : Station} (hs : s.station h = some st) (hss : s.stations.sorted = true) :
    s.trimmed h st 0 = s := by
  unfold State.trimmed State.modRoamCtrs State.setStation
  simp only [List.drop_zero, bumpBy_zero, Table.put_find hss hs]

theorem trimmed_trimmed (s : State) (h : Nat) (st : Station) (m n : Nat) :
    (s.trimmed h st m).trimmed h { st with hold := st.hold.drop m } n = s.trimmed h st (m + n) := by
  unfold State.trimmed State.modRoamCtrs State.setStation
  simp only [Table.put_put, bumpBy_bumpBy, List.drop_drop]

theorem station_trimmed_min (s : State) (h : Nat) (st : Station) (n : Nat) :
    (s.trimmed h st (min n st.hold.length)).station h = some { st with hold := st.hold.drop n } := by
  rw [← drop_min_length st.hold n]
  exact Table.find_put_self _ _ _

theorem station_trimmed (s : State) (h : Nat) (st : Station) (n : Nat) :
    (s.trimmed h st n).station h = some { st with hold := st.hold.drop n } := Table.find_put_self _ _ _

/-- The oldest frame of a hold queue is dropped (R26). -/
theorem holdOverflow_trimmed {h : Nat} {st : Station} {oldest : Frame} {rest : List Frame} (hq : st.hold = oldest :: rest)
    (radio : Option Nat) : ∃ up e ev, holdOverflow h radio oldest (s.setStation h { st with hold := rest })
      = { s.trimmed h st 1 with uplink := up, err := e, ev := ev } := by
  have htrim : s.trimmed h st 1 = (s.setStation h { st with hold := rest }).modRoamCtrs
      (fun k => { k with holdOverflow := bump k.holdOverflow }) := by
    unfold State.trimmed
    rw [hq]
    rfl
  rw [htrim]
  exact occur_only _ _

theorem trimHold_over {n h : Nat} {st : Station} {oldest : Frame} {rest : List Frame} (hs : s.station h = some st)
    (hq : st.hold = oldest :: rest) (hover : 64 < st.hold.length ∨ 2048 < s.holdUsed) : trimHold h (n + 1) s
      = trimHold h n (holdOverflow h st.current oldest (s.setStation h { st with hold := rest })) := by
  rw [hq] at hover
  rw [trimHold]
  simp only [hs, hq]
  exact if_pos hover

theorem trimHold_within {n h : Nat} {st : Station} (hs : s.station h = some st)
    (hin : ¬ (64 < st.hold.length ∨ 2048 < s.holdUsed)) : trimHold h n s = s := by
  cases n with
  | zero => rfl
  | succ n =>
    unfold trimHold
    simp only [hs]
    cases hq : st.hold with
    | nil => rfl
    | cons oldest rest =>
      rw [hq] at hin
      exact if_neg hin

theorem trimHold_empty {n h : Nat} {st : Station} (hs : s.station h = some st) (hq : st.hold = []) : trimHold h n s = s := by
  cases n with
  | zero => rfl
  | succ n =>
    unfold trimHold
    simp only [hs, hq]

/-- What lies beyond the limits once a frame is dropped, of `len` frames held and `used` places of the pool. -/
theorem excess_after_drop {len used left n : Nat} (hlen : 1 ≤ len) (hleft : left + 1 = used) (hover : 64 < len ∨ 2048 < used) :
    min (max (len - 64) (used - 2048)) (min len (n + 1))
      = 1 + min (max (len - 1 - 64) (left - 2048)) (min (len - 1) n) := by
  have hmax : max (len - 64) (used - 2048) = 1 + max (len - 1 - 64) (left - 2048) := by omega
  have hmin : min len (n + 1) = 1 + min (len - 1) n := by omega
  rw [hmax, hmin, Nat.add_min_add_left]

/-- Frames are dropped until both limits are met, `n` of them at most (R27). -/
theorem trimHold_trimmed (n : Nat) {h : Nat} {st : Station} (hs : s.station h = some st) (hss : s.stations.sorted = true) :
    ∃ up e ev, trimHold h n s = { s.trimmed h st (min (s.heldExcess st) (min st.hold.length n)) with
      uplink := up, err := e, ev := ev } := by
  induction n generalizing s st with
  | zero => exact ⟨_, _, _, by rw [Nat.min_zero, Nat.min_zero, trimmed_zero hs hss]; rfl⟩
  | succ n ih =>
    cases hq : st.hold with
    | nil => exact ⟨_, _, _, by rw [trimHold_empty hs hq, List.length_nil, Nat.zero_min, Nat.min_zero, trimmed_zero hs hss]⟩
    | cons oldest rest =>
      rw [← hq]
      by_cases hover : 64 < st.hold.length ∨ 2048 < s.holdUsed
      · have hpos : 1 ≤ st.hold.length := by rw [hq]; exact Nat.succ_pos _
        obtain ⟨up, e, ev, hdrop⟩ := holdOverflow_trimmed (s := s) (h := h) hq st.current
        obtain ⟨t, ht⟩ : ∃ t : State, t = { s.trimmed h st 1 with uplink := up, err := e, ev := ev } := ⟨_, rfl⟩
        have hstation : t.station h = some { st with hold := st.hold.drop 1 } := by rw [ht]; exact station_trimmed s h st 1
        have hsorted : t.stations.sorted = true := by rw [ht]; exact Table.sorted_put hss
        have hused : t.holdUsed + 1 = s.holdUsed := by
          have hput := holdUsed_setStation hs hss { st with hold := st.hold.drop 1 }
          have htrim : t.holdUsed = (s.setStation h { st with hold := st.hold.drop 1 }).holdUsed := by rw [ht]; rfl
          simp only [List.length_drop] at hput
          omega
        have hcount : min (s.heldExcess st) (min st.hold.length (n + 1))
            = 1 + min (t.heldExcess { st with hold := st.hold.drop 1 }) (min (st.hold.drop 1).length n) := by
          unfold State.heldExcess
          simp only [List.length_drop]
          exact excess_after_drop hpos hused hover
        obtain ⟨up', e', ev', htrim⟩ := ih hstation hsorted
        refine ⟨up', e', ev', ?_⟩
        rw [trimHold_over hs hq hover, hdrop, ← ht, htrim, hcount, ← trimmed_trimmed, ht]
        rfl
      · have hzero : s.heldExcess st = 0 := by
          unfold State.heldExcess
          omega
        exact ⟨_, _, _, by rw [trimHold_within hs hover, hzero, Nat.zero_min, trimmed_zero hs hss]⟩

/-- A record that takes recalled frames at the head of its hold queue, before the limits are met (R15, R27). -/
def Station.recalled (st : Station) (fs : List Frame) : Station :=
  { ({ st with egress := st.egress - fs.length } : Station).applyPending with hold := fs ++ st.hold }

theorem RadioLists.ext_of {l m : RadioLists} (h : ∀ c, l.of c = m.of c) : l = m := by
  obtain ⟨a, f, v, p⟩ := l
  obtain ⟨a', f', v', p'⟩ := m
  exact congr (congr (congr (congrArg RadioLists.mk (h .admission)) (h .fan)) (h .visitor)) (h .replay)

/-- The frames of a station that a recall takes from a radio's class lists (R27). -/
def State.recallable (s : State) (h r : Nat) : List Frame := Cls.all.flatMap (fun c => (takeFrames h (s.list r c)).1)

theorem takeFromRadio_thinned (h r : Nat) (hls : s.egress.lists.sorted = true) :
    ∃ t, takeFromRadio h r s = (s.recallable h r, t) ∧ State.Thinned h r Cls.all s t :=
  foldl_takeFromList (by decide) [] hls

theorem recallFrames_nothing {h r : Nat} (hn : s.recallable h r = []) : recallFrames h r s = s := by
  have hlist (c : Cls) : (takeFrames h (s.list r c)).1 = [] :=
    List.flatMap_eq_nil_iff.1 hn c (by cases c <;> decide)
  unfold recallFrames takeFromRadio
  simp only [Cls.all, List.foldl_cons, List.foldl_nil, takeFromList_none (hlist _), List.append_nil, if_true]

/-- A recall that takes frames: they join the hold queue, and what lies beyond its limits is dropped (R26, R27). -/
theorem recallFrames_trimmed {h r : Nat} {st : Station} (hss : s.stations.sorted = true) (hls : s.egress.lists.sorted = true)
    (hs : s.station h = some st) {fs : List Frame} (hfs : s.recallable h r = fs) (hne : fs ≠ []) : ∃ u up e ev,
      State.Thinned h r Cls.all s u
      ∧ recallFrames h r s = { (u.modRoamCtrs (fun k => { k with recalled := bumpBy k.recalled fs.length })).trimmed h
          (st.recalled fs) (min (max (fs.length + st.hold.length - 64) (s.holdUsed + fs.length - 2048))
            (st.recalled fs).hold.length) with uplink := up, err := e, ev := ev } := by
  obtain ⟨u, htake, hu⟩ := takeFromRadio_thinned h r hls
  obtain ⟨eu, hu'⟩ := hu.only
  have hstations : u.stations = s.stations := by rw [hu']
  have hsu : u.station h = some st := by unfold State.station; rw [hstations]; exact hs
  have hssu : u.stations.sorted = true := by rw [hstations]; exact hss
  obtain ⟨w, hw⟩ : ∃ w, w = (u.setStation h (st.recalled fs)).modRoamCtrs
    (fun k => { k with recalled := bumpBy k.recalled fs.length }) := ⟨_, rfl⟩
  have hsw : w.station h = some (st.recalled fs) := by rw [hw]; exact Table.find_put_self _ _ _
  have hssw : w.stations.sorted = true := by rw [hw]; exact Table.sorted_put hssu
  have hlen : (st.recalled fs).hold.length = fs.length + st.hold.length := List.length_append
  have hused : w.holdUsed = s.holdUsed + fs.length := by
    have hput := holdUsed_setStation hsu hssu (st.recalled fs)
    have hwu : w.holdUsed = (u.setStation h (st.recalled fs)).holdUsed := by rw [hw]; rfl
    have hus : u.holdUsed = s.holdUsed := by unfold State.holdUsed; rw [hstations]
    omega
  have hrun : recallFrames h r s = trimHold h (st.recalled fs).hold.length w := by
    have hmod : u.modStation h (fun st => { st with egress := st.egress - fs.length, hold := fs ++ st.hold }.applyPending)
        = u.setStation h (st.recalled fs) := by
      rw [modStation_some hsu]
      exact congrArg (u.setStation h) (applyPending_hold { st with egress := st.egress - fs.length } (fs ++ st.hold))
    unfold recallFrames
    simp only [htake, hfs, if_neg hne, hmod, ← hw, hsw, Option.map_some, Option.getD_some]
  obtain ⟨up, e, ev, htrim⟩ := trimHold_trimmed (st.recalled fs).hold.length hsw hssw
  refine ⟨u, up, e, ev, hu, ?_⟩
  rw [hrun, htrim, Nat.min_self]
  unfold State.heldExcess
  rw [hlen, hused, hw]
  unfold State.trimmed State.modRoamCtrs State.setStation
  simp only [Table.put_put]

/-! ### The cost of a burst (R64, R65) -/

theorem ceil_div_bounds (n : Nat) {d : Nat} (hd : 1 ≤ d) : n ≤ (n + d - 1) / d * d ∧ (n + d - 1) / d * d < n + d := by
  have hmod := Nat.mod_lt (n + d - 1) hd
  have hdiv := Nat.div_add_mod' (n + d - 1) d
  omega

theorem ceil_div_le (n : Nat) {d : Nat} (hd : 1 ≤ d) : (n + d - 1) / d ≤ n := by
  refine Nat.le_of_not_lt fun hlt => ?_
  have hmul := Nat.mul_le_mul_right d (Nat.succ_le_of_lt hlt)
  have hn := Nat.le_mul_of_pos_right n hd
  have hlt' := (ceil_div_bounds n hd).2
  rw [Nat.succ_mul] at hmul
  omega

theorem cost_eq {g : Governor} {r : Radio} {rate : Nat} (hr : g.rates[r.rate]? = some rate) (bytes : Nat) :
    g.cost r bytes = g.activeCtx.overhead.toNat + (bytes * 8 + rate - 1) / rate := by
  unfold Governor.cost
  rw [List.getD_eq_getElem?_getD, hr]
  rfl

theorem cost_bounds {g : Governor} {r : Radio} {rate : Nat} (hr : g.rates[r.rate]? = some rate) (h1 : 1 ≤ rate) (bytes : Nat) :
    g.activeCtx.overhead.toNat ≤ g.cost r bytes
    ∧ bytes * 8 ≤ (g.cost r bytes - g.activeCtx.overhead.toNat) * rate
    ∧ (g.cost r bytes - g.activeCtx.overhead.toNat) * rate < bytes * 8 + rate
    ∧ (bytes ≤ 12000 → g.activeCtx.overhead.toNat ≤ 255 → g.cost r bytes ≤ 96255) := by
  obtain ⟨hlow, hhigh⟩ := ceil_div_bounds (bytes * 8) h1
  have hle := ceil_div_le (bytes * 8) h1
  rw [cost_eq hr, Nat.add_sub_cancel_left]
  exact ⟨Nat.le_add_right _ _, hlow, hhigh, fun _ _ => by omega⟩

/-- A charge raises the dispatch counter of its class alone (R65). -/
theorem charge_eq (g : Governor) (c : Cls) (bytes : Nat) (r : Radio) : g.charge c bytes r = { r with
    credit := max (r.credit - g.cost r bytes) (-131071)
    gov := ({ r.gov with airtime := bumpBy r.gov.airtime (g.cost r bytes) } : RadioGovCtrs).dispatched c } := rfl

end Sys2Proof.Machine

open Sys2Proof.Machine

/-- Settles O16: the cases of placing a frame, what each tells the sender, the frames a recall takes, and the cost and its charge. -/
theorem burstsFormAndAreCharged : Obligations.BurstsFormAndAreCharged := by
  refine ⟨fun s r c f => ?_, fun h l => takeFrames_eq h l, fun s h r st hss hls hs => ?_, fun g r c bytes rate hr h1 => ?_⟩
  · intro size filled takes buffer record
    refine ⟨fun bs b hl hfit hbuf => ?_, fun hno hbuf hrec => ?_, fun hbuf => ?_, fun hno hrec => ?_, fun hd sort => ?_⟩
    · exact place_merge (bufferFree_iff.2 hbuf) hl (fits_iff.2 hfit)
    · exact place_open (bufferFree_iff.2 hbuf) (mergeTail_unfit hno) (burstFree_iff.2 hrec.1) hrec.2
    · exact place_noBuffer (Bool.eq_false_iff.2 fun h => hbuf (bufferFree_iff.1 h))
    · exact place_noRecord (mergeTail_unfit hno) hrec
    · refine ⟨fun hr => offer_refused hr, fun hr hp => ⟨offer_declinable hr hp, ?_⟩, fun l opened hr hp => ?_⟩
      · exact Prod.ext (offer_dropped_told hr hp) (offer_dropped hd hr hp)
      · intro t
        have ht : t = acceptFrame r c f l opened s := offer_placed hr hp
        refine ⟨offer_accepted hr hp, fun hnew hwas x hx => ?_, ?_⟩
        · rw [ht]
          exact acceptFrame_asks opened hnew hwas hx
        · rw [ht]
          exact acceptFrame_only l opened
  · intro taken fs excess t
    refine ⟨recallFrames_nothing, fun hne => ?_⟩
    obtain ⟨u, up, e, ev, hu, hrun⟩ := recallFrames_trimmed hss hls hs (fs := fs) rfl hne
    have ht : t = _ := hrun
    obtain ⟨eu, hu'⟩ := hu.only
    have hegress : t.egress = u.egress := by rw [ht]; rfl
    have hlist (q : Nat) (c : Cls) : t.list q c = u.list q c := by unfold State.list State.lists; rw [hegress]
    have hthin (c : Cls) : t.list r c = s.thinned h r c := by
      rw [hlist, hu.lists, if_pos ⟨rfl, by cases c <;> decide⟩]
    refine ⟨?_, hthin, fun q hq => ?_, ?_, ?_, ?_⟩
    · rw [ht]
      exact station_trimmed_min _ h (st.recalled fs) excess
    · refine RadioLists.ext_of fun c => (hlist q c).trans ?_
      rw [hu.lists, if_neg fun h => hq h.1]
      rfl
    · rw [hegress, hu']
      rfl
    · simp only [hthin]
      rw [hegress, hu']
      rfl
    · have hlen : (st.recalled fs).hold.length = fs.length + st.hold.length := List.length_append
      rw [ht, hlen, hu']
      rfl
  · obtain ⟨hover, hlow, hhigh, hmax⟩ := cost_bounds hr h1 bytes
    refine ⟨hover, hlow, hhigh, hmax, (charge_eq g c bytes r).trans ?_⟩
    cases c <;> rfl
end

section
/-! That every step keeps the bounds of queues and pools and the form of record memory, and that every command ends its event
(R170): the management queue, the event, the commands, and the tick. -/

-- One proof at a time: the threads of the default would not fit the memory the check allows.
set_option Elab.async false

namespace Sys2Proof.Machine

variable {m n : Nat} {s t : State}

/-- The invariant is what every operation keeps, at the queue's limit of 8 (R170). -/
theorem k_iff_inv : K 8 8 s ↔ s.Inv := by
  constructor
  · intro h
    exact ⟨⟨h.queue, h.filter, h.items, h.outstanding, h.starveIngest, h.starveStride, h.buffers, h.bursts⟩,
      h.cred, h.clip⟩
  · rintro ⟨⟨queue, filter, items, outstanding, starveIngest, starveStride, buffers, bursts⟩, cred, clip⟩
    exact ⟨buffers, bursts, items, outstanding, starveIngest, starveStride, cred, clip, filter, queue, .inl queue⟩

/-- The bounds on the directives held, replaced by others the queue meets. -/
theorem K.rebound (h : K m n s) {a b : Nat} (queue : s.mgmt.queue.length ≤ a)
    (waits : s.mgmt.queue.length ≤ b ∨ (s.mgmt.started = true ∧ s.mgmt.queue.length ≤ b + 1)) : K a b s :=
  { h with queue := queue, waits := waits }

/-! ### The management unit and the uplink -/

/-- A directive joins the queue only while it holds fewer than 8 (R168, R170). -/
theorem K.takeDirective (h : K 8 8 s) (e : MgmtEntry) (f : List Byte) : K 8 8 (Machine.takeDirective e f s) := by
  unfold Machine.takeDirective
  split
  · exact (h.modMgmtCtrs _).occur _
  · split
    · exact (h.modMgmtCtrs _).occur _
    · next hroom =>
      have hlen : (s.mgmt.queue ++ [e]).length ≤ 8 := by
        simp only [Config.mgmtQueue] at hroom
        simp only [List.length_append, List.length_singleton]
        omega
      exact { h with filter := h.filter, queue := hlen, waits := .inl hlen }

theorem K.takeManagementFrame (h : K 8 8 s) (src : Addr) (e : Half) (l : List Byte) :
    K 8 8 (Machine.takeManagementFrame src e l s) := by
  unfold Machine.takeManagementFrame
  split
  · exact h.modMgmtCtrs _
  · split
    · exact h.modMgmtCtrs _
    · exact h.takeDirective _ _

theorem K.takeUplinkFrame (h : K 8 8 s) (dst src : Addr) (e : Half) (l : List Byte) :
    K 8 8 (Machine.takeUplinkFrame dst src e l s) := by
  unfold Machine.takeUplinkFrame
  split
  · exact h.takeReelFrame _ _ _
  · split
    · exact h.takeManagementFrame _ _ _
    · exact h.takeDownstream _ _ _ _

theorem K.directiveArrives (h : K 8 8 s) (src : Addr) (tag : Half) (d : Directive) :
    K 8 8 (Machine.directiveArrives src tag d s) := h.fromUplink.takeDirective _ _

/-! ### The directives that reach the head (R170) -/

/-- Handing over the head keeps the bounds: it is answered, or waits at its owner. -/
theorem K.startHead (h : K m n s) : K m n (Machine.startHead s) := by
  unfold Machine.startHead
  split
  · exact h
  · next e _ _ =>
    have hrun := h.runDirective e.dir
    split
    · next heq => exact (hrun.snd heq).reply _
    · next heq => exact (hrun.snd heq).modMgmtStarted true (.inl rfl)

/-- A reply leaves one directive fewer. -/
theorem K.reply_fewer (h : K (n + 1) (n + 1) s) (a : Answer) : K (n + 1) n (Machine.reply a s) := by
  have hqueue := h.queue
  refine (h.reply a).rebound (h.reply a).queue (.inl ?_)
  unfold Machine.reply
  split
  · next hnil => simp [hnil]
  · next e rest hcons =>
    rw [hcons] at hqueue
    exact Nat.le_of_succ_le_succ hqueue

/-- Handing over the head leaves one directive fewer that could still be run. -/
theorem K.startHead_fewer (h : K (n + 1) (n + 1) s) : K (n + 1) n (Machine.startHead s) := by
  unfold Machine.startHead
  split
  · next hnil => exact h.rebound h.queue (.inl (by simp [hnil]))
  · next e _ _ =>
    have hrun := h.runDirective e.dir
    split
    · next heq => exact (hrun.snd heq).reply_fewer _
    · next heq =>
      have hqueue := (hrun.snd heq).queue
      exact ((hrun.snd heq).modMgmtStarted true (.inl rfl)).rebound hqueue (.inr ⟨rfl, hqueue⟩)

theorem K.runQueue (h : K m n s) (k : Nat) : K m n (Machine.runQueue k s) := by
  induction k generalizing s with
  | zero => exact h
  | succ k ih =>
    unfold Machine.runQueue
    split
    · exact h
    · exact ih h.startHead.flush

/-- With no more directives than turns left, but for a head that waits, the queue is settled in the end: every turn leaves one
directive fewer that could be run, and nothing that follows from it adds one. -/
theorem runQueue_settles (h : K (n + 1) n s) : (runQueue n s).Settled := by
  induction n generalizing s with
  | zero =>
    rcases h.waits with hnone | ⟨hwaits, -⟩
    · exact .inl (List.length_eq_zero_iff.1 (Nat.le_zero.1 hnone))
    · exact .inr hwaits
  | succ n ih =>
    unfold runQueue
    split
    · next hsettled => exact hsettled
    · next hruns =>
      have hqueue : s.mgmt.queue.length ≤ n + 1 := h.waits.resolve_right fun hw => hruns (.inr hw.1)
      exact ih (h.rebound hqueue (.inl hqueue)).startHead_fewer.flush

/-! ### The event -/

theorem K.finish (h : K m n s) : K m n (Machine.finish s) := (h.flush.runQueue _).setEv _

/-- An event ends with its bookkeeping put away and its queue settled: it has one turn more than directives. -/
theorem finish_between (h : K m n s) : (finish s).Between := by
  refine ⟨rfl, runQueue_settles (n := (flush s).mgmt.queue.length + 1) (h.flush.rebound ?_ (.inl ?_))⟩ <;> omega

/-- `t` is the end of an event whose command's own effect left the bounds kept. -/
def EndsKept (t : State) : Prop := ∃ u, K 8 8 u ∧ t = finish u

theorem EndsKept.inv (h : EndsKept t) : t.Inv := by
  obtain ⟨u, hu, rfl⟩ := h
  exact k_iff_inv.1 hu.finish

theorem EndsKept.between (h : EndsKept t) : t.Between := by
  obtain ⟨u, hu, rfl⟩ := h
  exact finish_between hu

theorem EndsKept.event {f : State → State} (hf : K 8 8 (f s)) (ht : Machine.event f s = .next t) : EndsKept t := by
  cases ht
  exact ⟨f s, hf, rfl⟩

/-! ### The commands -/

theorem EndsKept.directive (h : K 8 8 s) {src : Addr} {tag : Half} {d : Directive}
    (ht : Machine.event (directiveArrives src tag d) s = .next t) : EndsKept t := .event (h.directiveArrives _ _ _) ht

/-- A directive command whose list or body a frame can spell, or one that stops (log entry 15). -/
theorem EndsKept.directiveUnless (h : K 8 8 s) {src : Addr} {tag : Half} {d : Directive} {p : Prop} [Decidable p]
    (ht : (if p then .fault .notAFrame else Machine.event (directiveArrives src tag d) s) = .next t) : EndsKept t := by
  split at ht
  · cases ht
  · exact .directive h ht

/-- A command that is a message of a radio. -/
theorem EndsKept.message (h : K 8 8 s) {p : Fin 4} {r : Byte} {a : Addr} {msg : CarrierMsg}
    (ht : Machine.event (arrive p r a msg) s = .next t) : EndsKept t := .event (h.takeCarrierFrame _ _ _) ht

/-- The reset state holds nothing, and record memory stays (R160). -/
theorem K.coldReset (h : K m n s) : K m n (Machine.coldReset s) :=
  have empty (k : Nat) : 0 ≤ k := Nat.zero_le k
  ⟨empty _, empty _, empty _, empty _, empty _, empty _, h.cred, h.clip, empty _, empty _, .inl (empty _)⟩

theorem K.takeReel (h : K m n s) (src : Addr) (msg : ReelMsg) : K m n (Machine.takeReel src msg s) := h.takeReelMsg _ _

/-- A command from a state with the invariant is an event whose own effect keeps it. -/
theorem endsKept_exec (h : K 8 8 s) (c : Instr) (ht : exec c s = .next t) : EndsKept t := by
  cases c with
  | coldReset => exact .event h.coldReset ht
  | surgeLineChange level => exact .event (K.takeSurge (s := { s with surgeLine := level }) h _) ht
  | downstreamDataFrame dst src e l => exact .event (h.fromUplink.takeUplinkFrame dst src e l) ht
  | managementFrame src e l => exact .event (h.fromUplink.takeManagementFrame src e l) ht
  | malformedReelFrame src e l => exact .event (h.fromUplink.takeReelFrame src e l) ht
  | segmentOpen src reel q len => exact .event (h.fromUplink.takeReel src (.segOpen reel q len)) ht
  | segmentData src reel q o l =>
    refine .event ?_ ht
    split
    · exact h.fromUplink.malformedReel
    · exact h.fromUplink.takeReel _ _
  | segmentClose src reel q => exact .event (h.fromUplink.takeReel src (.segClose reel q)) ht
  | malformedCarrierFrame p l => exact .event (h.takeCarrierBytes p.val l) ht
  | upstreamDataFrame p r a dst e l =>
    refine .event ?_ ht
    split
    · exact (h.fromPort _).takeMalformed _
    · exact h.takeCarrierFrame _ _ _
  | join | part | release | radioStatus | scan | checkin | cue | halt => exact .message h ht
  | partToRadioServiceFrame p r a code body =>
    exact .event (h.takeCarrierBytes p.val (serviceBytes r.toNat a code body)) ht
  | lingerExpiry x => exact .event (h.lingerExpire x.val) ht
  | detachTimerExpiry x => exact .event (h.detachExpire x.val) ht
  | dampingExpiry x => exact .event (h.dampingExpire x.val) ht
  | sealTimerExpiry r => exact .event (h.sealExpire r.val) ht
  | wakeTimerExpiry r => exact .event (h.wakeExpire r.val) ht
  | stageTimerExpiry => exact .event h.stageExpire ht
  | transmitCompletion p => exact .event (h.completeTransmit p.val) ht
  | credentialFetchCompletion sp => exact .event (h.completeTransfer _ sp fun t _ hs => hs.fetchCompleted t) ht
  | credentialWriteBackCompletion => exact .event (h.completeTransfer _ [] fun t _ hs => hs.writeBackCompleted t) ht
  | sweepStrideCompletion sp => exact .event (h.completeTransfer _ sp fun t _ hs => hs.strideCompleted t) ht
  | clipChunkReadCompletion => exact .event (h.completeTransfer _ [] fun t _ hs => hs.chunkCompleted t) ht
  | clipIngestWriteCompletion => exact .event (h.completeTransfer _ [] fun t _ hs => hs.ingestCompleted t) ht
  | mgmtFilter | credLoad | stationRead | credRead | profileWrite | rateTable | unknownDirective => exact .directiveUnless h ht
  | _ => exact .directive h ht

/-! ### The tick and the step -/

/-- A tick moves frames of the uplink and the receive FIFOs only (R173; log entry 2). -/
theorem K.tick (h : K m n s) : K m n (Machine.tick s) := by
  have hsends : K m n (uplinkSends { s with venueTime := s.venueTime + 1 }) := by
    unfold uplinkSends
    split <;> exact h
  exact hsends

/-- What a step leaves has the invariant: the end of an event, or a tick. -/
theorem step_inv (h : K 8 8 s) (ht : step s = .next t) : t.Inv := by
  unfold step at ht
  split at ht
  · next c rest _ => exact (endsKept_exec (s := { s with pending := rest }) h c ht).inv
  · cases ht
    exact k_iff_inv.1 h.tick

end Sys2Proof.Machine

open Sys2Proof Sys2Proof.Machine

/-- Settles O5: the invariant is `K 8 8`, which every operation keeps, so every command's event and the tick. -/
theorem everyStepKeepsInvariant : Obligations.EveryStepKeepsInvariant := fun _ _ hinv ht =>
  step_inv (k_iff_inv.2 hinv) ht

/-- Settles O7: each turn of the queue leaves one directive fewer that could be run, and an event has a turn for each. -/
theorem everyCommandEndsItsEvent : Obligations.EveryCommandEndsItsEvent := fun c _ _ hinv ht =>
  (endsKept_exec (k_iff_inv.2 hinv) c ht).between
end

section
/-! The governor's arithmetic: the throttle (R72), refills (R66) and the thresholds of the classes (R68). -/

-- One proof at a time: the threads of the default would not fit the memory the check allows.
set_option Elab.async false

open Sys2Proof

namespace Sys2Proof.Machine

variable {g : Governor} {r : Radio}

/-! ### The throttle (R72) -/

theorem percent_of_getElem {code : Byte} {pct : Nat} (h : [0, 20, 30, 45, 60, 70, 80, 90][code.toNat]? = some pct) :
    percent code = pct := by
  unfold percent
  rw [List.getD_eq_getElem?_getD, h]
  rfl

theorem percent_le (code : Byte) : percent code ≤ 90 := by
  unfold percent
  rw [List.getD_eq_getElem?_getD]
  cases h : [0, 20, 30, 45, 60, 70, 80, 90][code.toNat]? with
  | none => exact Nat.zero_le 90
  | some pct =>
    have hall : ∀ x ∈ [0, 20, 30, 45, 60, 70, 80, 90], x ≤ 90 := by decide
    exact hall pct (List.mem_of_getElem? h)

theorem capPart_off (h : g.activeCtx.capEnable = 0) : g.capPart = 0 := by
  unfold Governor.capPart
  rw [h]
  rfl

theorem capPart_enabled (h : g.activeCtx.capEnable = 1) : g.capPart = percent g.activeCtx.capCode := if_pos h

theorem capPart_le (g : Governor) : g.capPart ≤ 90 := by
  unfold Governor.capPart
  split
  · exact percent_le _
  · exact Nat.zero_le 90

theorem surgePart_le (g : Governor) : g.surgePart ≤ 90 := by
  unfold Governor.surgePart
  split
  · exact Nat.zero_le 90
  · exact percent_le _
  · exact percent_le _

/-- The effective percentage stays below 91, since no code names more than 90 (R72). -/
theorem throttle_le (g : Governor) : g.throttle ≤ 90 := Nat.max_le.2 ⟨surgePart_le g, capPart_le g⟩

/-- The throttle by its two parts, once the surge part is known (R72). -/
theorem throttle_parts {surge : Nat} (hs : g.surgePart = surge) :
    (g.activeCtx.capEnable = 0 → g.surgePart = surge ∧ g.capPart = 0 ∧ g.throttle = max surge 0 ∧ g.throttle ≤ 90)
    ∧ (g.activeCtx.capEnable = 1 → g.surgePart = surge ∧ g.capPart = percent g.activeCtx.capCode
      ∧ g.throttle = max surge (percent g.activeCtx.capCode) ∧ g.throttle ≤ 90) := by
  refine ⟨fun h => ?_, fun h => ?_⟩
  · exact ⟨hs, capPart_off h, by unfold Governor.throttle; rw [hs, capPart_off h], throttle_le g⟩
  · exact ⟨hs, capPart_enabled h, by unfold Governor.throttle; rw [hs, capPart_enabled h], throttle_le g⟩

theorem surgePart_off (h : g.surge = .off) : g.surgePart = 0 := by unfold Governor.surgePart; rw [h]

theorem surgePart_on (h : g.surge = .on) : g.surgePart = percent g.activeCtx.surgeCode := by unfold Governor.surgePart; rw [h]

theorem surgePart_ramping {k : Nat} {d : Time} (h : g.surge = .ramping k d) :
    g.surgePart = percent (g.activeCtx.stage k).code := by unfold Governor.surgePart; rw [h]

theorem Context.stage_of_getElem {c : Context} {k : Nat} {x : Stage} (hk : 1 ≤ k)
    (h : [c.stage1, c.stage2, c.stage3][k - 1]? = some x) : c.stage k = x := by
  obtain ⟨hlt, -⟩ := List.getElem?_eq_some_iff.1 h
  obtain rfl | rfl | rfl : k = 1 ∨ k = 2 ∨ k = 3 := by simp only [List.length_cons, List.length_nil] at hlt; omega
  all_goals exact Option.some.inj h

/-! ### Refills (R66) -/

/-- The group records of a context, in order (R77). -/
def Context.groups (c : Context) : List GroupRec := [c.g0, c.g1, c.g2, c.g3, c.g4, c.g5, c.g6, c.g7]

theorem Context.group_of_getElem {c : Context} {n : Nat} {x : GroupRec} (h : c.groups[n]? = some x) : c.group n = x := by
  match n with
  | 0 | 1 | 2 | 3 | 4 | 5 | 6 | 7 => exact Option.some.inj h
  | n + 8 => cases h

/-- What a refill adds at a time, in thousandths of a credit, and the remainder of the last one (R66). -/
def Governor.added (g : Governor) (now : Time) (r : Radio) : Nat := min (elapsed now r.lastRefill) 1000000 * g.eff r + r.remainder

/-- A refill as R66 orders it: what is added, and the ceiling. -/
theorem refill_eq (g : Governor) (now : Time) (r : Radio) : g.refill now r
    = if ((g.groupOf r).ceiling.toNat : Int) < r.credit + (g.added now r / 1000 : Nat)
      then { r with credit := (g.groupOf r).ceiling.toNat, remainder := 0, lastRefill := now }
      else { r with
        credit := r.credit + (g.added now r / 1000 : Nat), remainder := g.added now r % 1000, lastRefill := now } := rfl

/-- A refill that does not pass the ceiling (R66). -/
theorem refill_below {now : Time} (h : r.credit + (g.added now r / 1000 : Nat) ≤ ((g.groupOf r).ceiling.toNat : Int)) :
    g.refill now r
      = { r with credit := r.credit + (g.added now r / 1000 : Nat), remainder := g.added now r % 1000, lastRefill := now } := by
  rw [refill_eq, if_neg (Int.not_lt.2 h)]

theorem added_uncapped {now : Time} (h : elapsed now r.lastRefill ≤ 1000000) :
    g.added now r = elapsed now r.lastRefill * g.eff r + r.remainder := by
  unfold Governor.added
  rw [Nat.min_eq_left h]

/-- Two refills add what one over the whole interval adds: the remainder of the first goes into the second (R66). -/
theorem refill_refill {t1 t2 : Time} (hsum : elapsed t1 r.lastRefill + elapsed t2 t1 = elapsed t2 r.lastRefill)
    (hcap : elapsed t2 r.lastRefill ≤ 1000000)
    (hceil : r.credit + ((elapsed t2 r.lastRefill * g.eff r + r.remainder) / 1000 : Nat)
      ≤ ((g.groupOf r).ceiling.toNat : Int)) :
    g.refill t2 (g.refill t1 r) = g.refill t2 r := by
  have hwhole := added_uncapped (g := g) (r := r) (now := t2) hcap
  have hfirst := added_uncapped (g := g) (r := r) (now := t1) (by omega)
  have hsplit : g.added t2 r = g.added t1 r + elapsed t2 t1 * g.eff r := by
    rw [hwhole, hfirst, ← hsum, Nat.add_mul]
    omega
  have hone : r.credit + (g.added t2 r / 1000 : Nat) ≤ ((g.groupOf r).ceiling.toNat : Int) := by rw [hwhole]; exact hceil
  have hle : g.added t1 r / 1000 ≤ g.added t2 r / 1000 := Nat.div_le_div_right (by omega)
  rw [refill_below (now := t1) (by omega), refill_below (now := t2) hone]
  generalize hr1 : ({ r with
    credit := r.credit + (g.added t1 r / 1000 : Nat), remainder := g.added t1 r % 1000, lastRefill := t1 } : Radio) = r1
  have hsecond : g.added t2 r1 = elapsed t2 t1 * g.eff r + g.added t1 r % 1000 := by
    subst hr1
    exact added_uncapped (show elapsed t2 t1 ≤ 1000000 by omega)
  have hdiv : g.added t2 r / 1000 = g.added t1 r / 1000 + g.added t2 r1 / 1000 := by omega
  have hmod : g.added t2 r % 1000 = g.added t2 r1 % 1000 := by omega
  have hcredit : r1.credit + (g.added t2 r1 / 1000 : Nat) = r.credit + (g.added t2 r / 1000 : Nat) := by
    have hcredit1 : r1.credit = r.credit + (g.added t1 r / 1000 : Nat) := by rw [← hr1]
    omega
  have hgroup : g.groupOf r1 = g.groupOf r := by rw [← hr1]; rfl
  rw [refill_below (by rw [hcredit, hgroup]; exact hone), hcredit, ← hmod, ← hr1]

/-! ### Thresholds (R68) -/

theorem allows_iff (g : Governor) (r : Radio) (c : Cls) : g.allows r c = true ↔ (g.groupOf r).threshold c < r.credit :=
  decide_eq_true_iff

end Sys2Proof.Machine

open Sys2Proof.Machine

/-- Settles O15: the throttle by the surge state and the cap, the refill by its group, and the composition by what each of the
two refills adds. -/
theorem refillsCompose : Obligations.RefillsCompose := by
  refine ⟨fun _ _ => percent_of_getElem, fun g => ⟨fun h => ?_, fun h => ?_, fun k x d h hk hx => ?_⟩,
    fun g r cfg x hcfg hx => ?_, fun g r t1 t2 => refill_refill⟩
  · exact throttle_parts (surgePart_off h)
  · exact throttle_parts (surgePart_on h)
  · have hstage : g.activeCtx.stage k = x := Context.stage_of_getElem hk hx
    exact throttle_parts (by rw [surgePart_ramping h, hstage])
  · have hgroup : g.groupOf r = x := (groupOf_cfg hcfg).trans (Context.group_of_getElem hx)
    refine ⟨hgroup, by unfold Governor.eff; rw [hgroup], fun now => ?_⟩
    rw [← hgroup]
    exact refill_eq g now r

/-- Settles O17: the thresholds of the classes, each read off the radio's group record. -/
theorem classesAllowedAboveThreshold : Obligations.ClassesAllowedAboveThreshold :=
  fun g r => ⟨allows_iff g r .admission, allows_iff g r .fan, allows_iff g r .visitor, allows_iff g r .replay⟩
end

section
/-! The phase contexts: PROFILE_ACCESS (R78), PROFILE_WRITE (R79) and PROFILE_VALIDATE (R80). -/

-- One proof at a time: the threads of the default would not fit the memory the check allows.
set_option Elab.async false

open Sys2Proof

namespace Sys2Proof.Machine

variable {s : State} {c : Context} {src : Addr} {tag : Half}

/-! ### PROFILE_ACCESS and PROFILE_WRITE (R78, R79) -/

theorem runProfileAccess_code {b : Byte} {p : Phase} (h : b.toNat = p.code) : runProfileAccess b s
    = (some ⟨.done, (s.gov.ctx p).bytes ++ flagByte (s.gov.ctx p).valid ++ be 1 s.gov.active.code⟩,
      s.modGov (fun g => { g with access := p })) := by
  unfold runProfileAccess
  rw [phaseOf_code h]

theorem runProfileWrite_inactive {part : ProfilePart} (hp : ∀ q r, part ≠ .badPart q r) (h : s.gov.access ≠ s.gov.active) :
    runProfileWrite part s
      = answered .done (s.modGov (fun g => g.setCtx g.access ((g.ctx g.access).write part))) := by
  unfold runProfileWrite
  split
  · exact absurd rfl (hp _ _)
  · exact if_neg h

/-- Every part of the list clears VALID (R79). -/
theorem write_valid {part : ProfilePart} (hp : ∀ q r, part ≠ .badPart q r) : (c.write part).valid = false := by
  cases part with
  | badPart q r => exact absurd rfl (hp q r)
  | group | throttle | ramp | timing => rfl

theorem groups_setGroup (c : Context) (g : Fin 8) (x : GroupRec) : (c.setGroup g.val x).groups = c.groups.set g.val x := by
  fin_cases g <;> rfl

/-- A group record is written at its place among the eight, and nowhere else (R79). -/
theorem groups_write_group (c : Context) (g k : Fin 8) (base ceiling visitor replay debt : Half) :
    (c.write (.group g base ceiling visitor replay debt)).groups[k.val]?
      = if k = g then some ⟨base, ceiling, visitor, replay, debt⟩ else c.groups[k.val]? := by
  have hw : (c.write (.group g base ceiling visitor replay debt)).groups
      = c.groups.set g.val ⟨base, ceiling, visitor, replay, debt⟩ :=
    groups_setGroup c g _
  have hlt : k.val < c.groups.length := k.isLt
  rw [hw, List.getElem?_set]
  by_cases hk : k = g
  · subst hk
    rw [if_pos rfl, if_pos rfl, if_pos hlt]
  · rw [if_neg hk, if_neg (fun h => hk (Fin.ext h.symm))]

/-- A group record that is written changes the group records and VALID only (R79). -/
theorem write_group_frame (c : Context) (g : Fin 8) (base ceiling visitor replay debt : Half) :
    let w := c.write (.group g base ceiling visitor replay debt)
    w = { c with
      g0 := w.g0, g1 := w.g1, g2 := w.g2, g3 := w.g3, g4 := w.g4, g5 := w.g5, g6 := w.g6, g7 := w.g7, valid := false } := by
  fin_cases g <;> rfl

/-! ### PROFILE_VALIDATE (R80) -/

/-- The fields of a group record that are checked, in the order of R80's list. -/
def GroupRec.fields : List (GroupRec → Bool) := [
  fun x => decide (x.base.toNat ≤ 1000), fun x => decide (1 ≤ x.ceiling.toNat),
  fun x => decide (x.visitor.toNat < x.ceiling.toNat), fun x => decide (x.replay.toNat < x.ceiling.toNat),
  fun x => decide (x.debt.toNat ≤ 16383)]

/-- The other fields of a context that are checked, in the order of R80's list. -/
def Context.fields : List (Context → Bool) := [
  fun c => decide (c.surgeCode.toNat ≤ 7), fun c => decide (c.capCode.toNat ≤ 7), fun c => decide (c.stage1.code.toNat ≤ 7),
  fun c => decide (c.stage2.code.toNat ≤ 7), fun c => decide (c.stage3.code.toNat ≤ 7),
  fun c => decide (c.capEnable.toNat ≤ 1), fun c => decide (1 ≤ c.stage1.dur.toNat),
  fun c => decide (1 ≤ c.stage2.dur.toNat), fun c => decide (1 ≤ c.stage3.dur.toNat),
  fun c => decide (c.overhead.toNat ≤ 255), fun c => decide (100 ≤ c.sealAge.toNat ∧ c.sealAge.toNat ≤ 5000),
  fun c => decide (1 ≤ c.lagLimit.toNat ∧ c.lagLimit.toNat ≤ 32)]

section
variable {α β : Type} {l : List α} {i : Nat} {a : α}

/-- The first element with a result, at its place. -/
theorem findSome?_of_getElem? {f : α → Option β} {b : β} (hi : l[i]? = some a) (ha : f a = some b)
    (hl : ∀ j < i, ∀ x, l[j]? = some x → f x = none) : l.findSome? f = some b := by
  induction l generalizing i with
  | nil => cases hi
  | cons x l ih =>
    cases i with
    | zero =>
      obtain rfl := Option.some.inj hi
      rw [List.findSome?_cons, ha]
    | succ i =>
      rw [List.findSome?_cons, hl 0 i.succ_pos x rfl]
      exact ih hi fun j hj => hl (j + 1) (Nat.succ_lt_succ hj)

theorem findIdx?_of_getElem? {p : α → Bool} (hi : l[i]? = some a) (ha : p a = true)
    (hl : ∀ j < i, ∀ x, l[j]? = some x → p x = false) : l.findIdx? p = some i := by
  obtain ⟨hlt, rfl⟩ := List.getElem?_eq_some_iff.1 hi
  exact List.findIdx?_eq_some_iff_getElem.2 ⟨hlt, ha, fun j hj =>
    Bool.eq_false_iff.1 (hl j hj _ (List.getElem?_eq_getElem (hj.trans hlt)))⟩
end

/-- The lowest group whose record fails a field's check. -/
def Context.failingGroup (c : Context) (p : GroupRec → Bool) : Option Nat := c.groups.findIdx? (fun x => !p x)

/-- The checks, field by field: those of the group records before the others (R80). -/
theorem checks_eq (c : Context) : c.checks
    = (GroupRec.fields.zipIdx.flatMap fun p => c.groups.zipIdx.map fun x => (p.2 + 1, some x.2, p.1 x.1))
      ++ Context.fields.zipIdx.map fun p => (p.2 + 6, none, p.1 c) := rfl

/-- The first failing field, field by field: the group records before the others (R80). -/
theorem failing_eq (c : Context) : c.failing
    = ((GroupRec.fields.zipIdx.findSome? fun p => (c.failingGroup p.1).map fun g => (p.2 + 1, some g)).or
      ((Context.fields.findIdx? fun p => !p c).map fun f => (f + 6, none))) := by
  unfold Context.failing Context.failingGroup
  rw [checks_eq, List.find?_append, List.find?_flatMap, Option.map_or, List.map_findSome?]
  simp only [List.find?_map, Option.map_map, Function.comp_def, List.findIdx?_eq_fst_find?_zipIdx]

theorem failingGroup_none {p : GroupRec → Bool} (h : ∀ x ∈ c.groups, p x = true) : c.failingGroup p = none :=
  List.findIdx?_eq_none_iff.2 fun x hx => by rw [h x hx]; rfl

/-- No group record fails where each passes every check. -/
theorem failing_of_groups_pass (h : ∀ p ∈ GroupRec.fields, ∀ x ∈ c.groups, p x = true) :
    c.failing = (Context.fields.findIdx? fun p => !p c).map fun f => (f + 6, none) := by
  have hnone : (GroupRec.fields.zipIdx.findSome? fun p => (c.failingGroup p.1).map fun g => (p.2 + 1, some g)) = none :=
    List.findSome?_eq_none_iff.2 fun p hp => by rw [failingGroup_none (h p.1 (List.fst_mem_of_mem_zipIdx hp))]; rfl
  rw [failing_eq, hnone, Option.none_or]

theorem failing_none (hg : ∀ p ∈ GroupRec.fields, ∀ x ∈ c.groups, p x = true)
    (hc : ∀ p ∈ Context.fields, p c = true) : c.failing = none := by
  rw [failing_of_groups_pass hg, List.findIdx?_eq_none_iff.2 fun p hp => by rw [hc p hp]; rfl]
  rfl

theorem failing_field {f : Nat} {p : Context → Bool} (hg : ∀ p ∈ GroupRec.fields, ∀ x ∈ c.groups, p x = true)
    (hf : Context.fields[f]? = some p) (hp : p c = false)
    (hl : ∀ j < f, ∀ q, Context.fields[j]? = some q → q c = true) : c.failing = some (f + 6, none) := by
  rw [failing_of_groups_pass hg, findIdx?_of_getElem? hf (by rw [hp]; rfl) fun j hj q hq => by rw [hl j hj q hq]; rfl]
  rfl

theorem failing_group {f g : Nat} {p : GroupRec → Bool} {x : GroupRec} (hf : GroupRec.fields[f]? = some p)
    (hx : c.groups[g]? = some x) (hp : p x = false)
    (hl : ∀ j < f, ∀ q, GroupRec.fields[j]? = some q → ∀ y ∈ c.groups, q y = true)
    (hy : ∀ j < g, ∀ y, c.groups[j]? = some y → p y = true) : c.failing = some (f + 1, some g) := by
  have hgroup : c.failingGroup p = some g :=
    findIdx?_of_getElem? hx (by rw [hp]; rfl) fun j hj y hjy => by rw [hy j hj y hjy]; rfl
  have hfirst : (GroupRec.fields.zipIdx.findSome? fun p => (c.failingGroup p.1).map fun g => (p.2 + 1, some g))
      = some (f + 1, some g) := by
    refine findSome?_of_getElem? (a := (p, f)) (i := f) ?_ (by rw [hgroup]; rfl) fun j hj q hq => ?_
    · rw [List.getElem?_zipIdx, hf, Nat.zero_add]
      rfl
    · rw [List.getElem?_zipIdx] at hq
      obtain ⟨p, hp, rfl⟩ := Option.map_eq_some_iff.1 hq
      rw [failingGroup_none (hl j hj p hp)]
      rfl
  rw [failing_eq, hfirst, Option.some_or]

theorem runProfileValidate_passes (h : (s.gov.ctx s.gov.access).failing = none) : runProfileValidate s
    = answered .done (s.modGov (fun g => g.setCtx g.access { s.gov.ctx s.gov.access with valid := true })) := by
  unfold runProfileValidate
  simp only [h]

theorem runProfileValidate_fails {f : Nat} {g : Option Nat} (h : (s.gov.ctx s.gov.access).failing = some (f, g)) :
    runProfileValidate s = (some ⟨.range, be 1 f ++ optField 1 g⟩, s) := by
  unfold runProfileValidate
  simp only [h]

/-- What a list of Boolean checks says, as propositions. -/
def claims {α : Type} (ps : List (α → Bool)) : List (α → Prop) := ps.map fun p x => p x = true

section
variable {α : Type} {ps : List (α → Bool)}

theorem claims_getElem? {f : Nat} {P : α → Prop} (h : (claims ps)[f]? = some P) :
    ∃ p, ps[f]? = some p ∧ ∀ x, p x = true ↔ P x := by
  unfold claims at h
  rw [List.getElem?_map] at h
  obtain ⟨p, hp, rfl⟩ := Option.map_eq_some_iff.1 h
  exact ⟨p, hp, fun _ => Iff.rfl⟩

theorem getElem?_claims {f : Nat} {p : α → Bool} (h : ps[f]? = some p) : (claims ps)[f]? = some fun x => p x = true := by
  unfold claims
  rw [List.getElem?_map, h]
  rfl

theorem mem_claims {p : α → Bool} (h : p ∈ ps) : (fun x => p x = true) ∈ claims ps := List.mem_map_of_mem h
end

theorem flag_le_one (b : Byte) : b.toNat ≤ 1 ↔ b = 0 ∨ b = 1 := by bv_omega

theorem claims_groupFields : claims GroupRec.fields = [
    fun x => x.base.toNat ≤ 1000, fun x => 1 ≤ x.ceiling.toNat, fun x => x.visitor.toNat < x.ceiling.toNat,
    fun x => x.replay.toNat < x.ceiling.toNat, fun x => x.debt.toNat ≤ 16383] := by
  simp only [claims, GroupRec.fields, List.map_cons, List.map_nil, decide_eq_true_eq]

theorem claims_contextFields : claims Context.fields = [
    fun c => c.surgeCode.toNat ≤ 7, fun c => c.capCode.toNat ≤ 7, fun c => c.stage1.code.toNat ≤ 7,
    fun c => c.stage2.code.toNat ≤ 7, fun c => c.stage3.code.toNat ≤ 7, fun c => c.capEnable = 0 ∨ c.capEnable = 1,
    fun c => 1 ≤ c.stage1.dur.toNat, fun c => 1 ≤ c.stage2.dur.toNat, fun c => 1 ≤ c.stage3.dur.toNat,
    fun c => c.overhead.toNat ≤ 255, fun c => 100 ≤ c.sealAge.toNat ∧ c.sealAge.toNat ≤ 5000,
    fun c => 1 ≤ c.lagLimit.toNat ∧ c.lagLimit.toNat ≤ 32] := by
  simp only [claims, Context.fields, List.map_cons, List.map_nil, decide_eq_true_eq, flag_le_one]

end Sys2Proof.Machine

open Sys2Proof.Machine

/-- Settles O28: what each of the three directives stores and answers, VALIDATE by the first check of R80's list that fails. -/
theorem profilesAreWrittenAndValidated : Obligations.ProfilesAreWrittenAndValidated := by
  intro s src tag hs
  refine ⟨fun b p hb => ?_, fun part hw hp hne => ⟨?_, write_valid hp⟩, ⟨fun g base ceiling visitor replay debt => ?_,
    fun _ _ _ => rfl, fun _ _ _ _ _ _ => rfl, fun _ _ _ => rfl⟩, ?_⟩
  · exact exec_concluded hs rfl rfl rfl (runProfileAccess_code (s := s.queued _) hb) rfl rfl
  · exact exec_concluded hs rfl rfl hw (runProfileWrite_inactive (s := s.queued _) hp hne) rfl rfl
  · exact ⟨write_group_frame _ g base ceiling visitor replay debt,
      fun k => groups_write_group _ g k base ceiling visitor replay debt⟩
  · intro c groups ofGroups others run earlier
    have hofGroups : ofGroups = claims GroupRec.fields := claims_groupFields.symm
    have hothers : others = claims Context.fields := claims_contextFields.symm
    clear_value ofGroups others
    subst hofGroups hothers
    have hearlier {f : Nat} (h : earlier f) (j : Nat) (hj : j < f) (q : GroupRec → Bool) (hq : GroupRec.fields[j]? = some q)
        (y : GroupRec) (hy : y ∈ groups) : q y = true := h j _ hj (getElem?_claims hq) y hy
    refine ⟨fun hg hc => ?_, fun f g P x hP hx hbad he hy => ?_, fun f P hP hbad he hl => ?_⟩
    · have hnone : c.failing = none := failing_none (fun p hp => hg _ (mem_claims hp)) fun p hp => hc _ (mem_claims hp)
      exact exec_concluded hs rfl rfl rfl (runProfileValidate_passes (s := s.queued _) hnone) rfl rfl
    · obtain ⟨p, hp, hpP⟩ := claims_getElem? hP
      have hfail : c.failing = some (f + 1, some g) := failing_group hp hx (Bool.eq_false_iff.2 fun h => hbad ((hpP x).1 h))
        (hearlier he) fun j hj y hjy => (hpP y).2 (hy j y hj hjy)
      exact exec_unchanged hs rfl rfl rfl (runProfileValidate_fails (s := s.queued _) hfail)
    · obtain ⟨p, hp, hpP⟩ := claims_getElem? hP
      have hgroups : ∀ q ∈ GroupRec.fields, ∀ y ∈ c.groups, q y = true := fun q hq => by
        obtain ⟨j, hj, rfl⟩ := List.mem_iff_getElem.1 hq
        exact hearlier he j hj _ (List.getElem?_eq_getElem hj)
      have hfail : c.failing = some (f + 6, none) := failing_field hgroups hp (Bool.eq_false_iff.2 fun h => hbad ((hpP c).1 h))
        fun j hj q hq => hl j _ hj (getElem?_claims hq)
      exact exec_unchanged hs rfl rfl rfl (runProfileValidate_fails (s := s.queued _) hfail)
end

section
/-! The release ramp (R73 to R76), where no port is free. -/

-- One proof at a time: the threads of the default would not fit the memory the check allows.
set_option Elab.async false

open Sys2Proof

namespace Sys2Proof.Machine

variable {s : State} {src : Addr} {tag : Half}

theorem rampTo_ne_on (s : State) (o : Option Nat) : rampTo s o ≠ .on := by cases o <;> exact Surge.noConfusion

/-- The end of an event that changes surge, all four ports sending (R53). -/
theorem finish_surged {new : Surge} {a : List Nat} (hr : s.ev.roomFreed = false) (hl : s.ev.look = false)
    (hb : s.allBusy = true) (hm : s.Settled) :
    finish { s.surged new with ev := { s.ev with ask := a } } = (s.surged new).ended := by
  obtain ⟨tx, es, rs, k, honly⟩ := surged_only s new
  rw [honly]
  exact finish_allBusy hr hl hb hm

/-- The stage timer that is due ends its stage (R75). -/
theorem stageExpire_due {k : Nat} {d : Time} (hk : s.gov.surge = .ramping k d) (hd : reached s.venueTime d = true) :
    stageExpire s
      = changeSurge (rampTo s (s.gov.activeCtx.nextStage (percent (s.gov.activeCtx.stage k).code) (k + 1))) s := by
  have hdue : stageDue s = true := by unfold stageDue; rw [hk]; exact hd
  unfold stageExpire
  rw [if_pos hdue, hk]
  rfl

/-- The stages after a stage of the ramp, in order (R75). -/
theorem nextStage_after (c : Context) (limit : Nat) {k : Nat} (h1 : 1 ≤ k) (h3 : k ≤ 3) : c.nextStage limit (k + 1)
    = (if k = 1 then [2, 3] else if k = 2 then [3] else []).find? (fun j => decide (percent (c.stage j).code < limit)) := by
  obtain rfl | rfl | rfl : k = 1 ∨ k = 2 ∨ k = 3 := by omega
  all_goals rfl

theorem exec_stageTimerExpiry {k : Nat} {d : Time} (hs : s.Between) (hb : s.allBusy = true) (hk : s.gov.surge = .ramping k d)
    (hd : reached s.venueTime d = true) : exec .stageTimerExpiry s = .next
      (s.surged (rampTo s (s.gov.activeCtx.nextStage (percent (s.gov.activeCtx.stage k).code) (k + 1)))).ended := by
  obtain ⟨a, ha⟩ := changeSurge_eq s (rampTo s (s.gov.activeCtx.nextStage (percent (s.gov.activeCtx.stage k).code) (k + 1)))
  show event stageExpire s = _
  unfold event
  rw [stageExpire_due hk hd, ha, finish_surged (quiet_room hs.1) (quiet_look hs.1) hb hs.2]

/-- The surge state that follows ON when surge stops being asserted (R73, R75). -/
def State.released (s : State) : Surge := rampTo s (s.gov.activeCtx.nextStage (percent s.gov.activeCtx.surgeCode) 1)

/-- Surge that stops being asserted goes on as the ramp (R73). -/
theorem takeSurge_released (hs : s.surgeAsserted = false) (hon : s.gov.surge = .on) :
    takeSurge true s = changeSurge s.released s := by
  unfold takeSurge State.released
  simp only [hs, hon, Bool.true_eq_false, Bool.false_eq_true, if_false]

/-- The line releases surge, all four ports sending (R73, R76). -/
theorem exec_surgeLineChange_releases (hs : s.Between) (hb : s.allBusy = true) (hon : s.gov.surge = .on)
    (hl : s.surgeLine = true) (hf : s.gov.surgeFlag = false) :
    exec (.surgeLineChange false) s = .next (State.surged { s with surgeLine := false } s.released).ended := by
  have hwas : s.surgeAsserted = true := by unfold State.surgeAsserted; rw [hl]; rfl
  obtain ⟨a, ha⟩ := changeSurge_eq { s with surgeLine := false } s.released
  have hline : changeLine false s = _ := (congrArg (fun was => takeSurge was { s with surgeLine := false }) hwas).trans
    ((takeSurge_released (s := { s with surgeLine := false }) hf hon).trans ha)
  show event (changeLine false) s = _
  unfold event
  rw [hline, finish_surged (s := { s with surgeLine := false }) (quiet_room hs.1) (quiet_look hs.1) hb hs.2]

/-- What SURGE_SET reports once surge has changed (R74). -/
theorem surgeBody_surged (s : State) (new : Surge) : surgeBody (s.surged new)
    = flagByte s.gov.surgeFlag ++ flagByte s.surgeLine ++ be 1 new.code ++ optField 1 new.stage
      ++ be 1 (s.surged new).gov.throttle := by
  obtain ⟨tx, es, rs, k, honly⟩ := surged_only s new
  have hflag : (s.surged new).gov.surgeFlag = s.gov.surgeFlag := by rw [honly]
  have hline : (s.surged new).surgeLine = s.surgeLine := by rw [honly]
  have hsurge : (s.surged new).gov.surge = new := by rw [honly]
  unfold surgeBody
  rw [hflag, hline, hsurge]

/-- SURGE_SET releases surge, all four ports sending (R73, R74, R76). -/
theorem exec_surgeSet_releases (hs : s.Ready src) (hb : s.allBusy = true) (hon : s.gov.surge = .on)
    (hl : s.surgeLine = false) (hf : s.gov.surgeFlag = true) : exec (.surgeSet src tag 0) s
      = .next (((s.flagged false).surged s.released).concluded src 32 tag .done
        (surgeBody ((s.flagged false).surged s.released))) := by
  have hwas : (s.queued ⟨src, tag, .surgeSet 0⟩).surgeAsserted = true := by
    show (s.surgeLine || s.gov.surgeFlag) = true
    rw [hf, Bool.or_true]
  have hnow : ((s.flagged false).queued ⟨src, tag, .surgeSet 0⟩).surgeAsserted = false := by
    show (s.surgeLine || false) = false
    rw [hl, Bool.or_false]
  obtain ⟨a, ha⟩ := changeSurge_eq ((s.flagged false).queued ⟨src, tag, .surgeSet 0⟩) s.released
  rw [surged_queued] at ha
  have htake : takeSurge (s.queued ⟨src, tag, .surgeSet 0⟩).surgeAsserted
      ((s.queued ⟨src, tag, .surgeSet 0⟩).flagged false) = _ := (congrArg (takeSurge · _) hwas).trans ((takeSurge_released hnow hon).trans ha)
  have hrun : runSurgeSet 0 (s.queued ⟨src, tag, .surgeSet 0⟩) = _ :=
    congrArg (fun u : State => ((some ⟨.done, surgeBody u⟩, u) : Run)) htake
  obtain ⟨tx, es, rs, k, honly⟩ := surged_only (s.flagged false) s.released
  exact exec_concluded_allBusy (d := .surgeSet 0) (a := a) hs rfl rfl rfl hrun (by rw [honly]; exact hb)
    (by rw [honly]; rfl) (by rw [honly]; rfl)

end Sys2Proof.Machine

open Sys2Proof.Machine

/-- Settles O52: the three inputs that move the ramp each change surge to the stage R75 names, and the event ends with that. -/
theorem rampStepsThroughStages : Obligations.RampStepsThroughStages := by
  intro s hs hb ctx lead moved
  have hmoved (x : Surge) (u : State) : moved x u = u.surged x := rfl
  have hlead (below : Nat) (ks : List Nat) :
      lead below ks = rampTo s (ks.find? (fun k => decide (percent (ctx.stage k).code < below))) := rfl
  have hreleased : lead (percent ctx.surgeCode) [1, 2, 3] = s.released := rfl
  clear_value moved lead
  refine ⟨fun k d hk hd h1 h3 => ?_, fun hon hl hf => ?_, fun hon hl hf src tag hr => ?_⟩
  · rw [hmoved, hlead, ← nextStage_after ctx _ h1 h3]
    exact exec_stageTimerExpiry hs hb hk hd
  · rw [hmoved, hreleased]
    exact exec_surgeLineChange_releases hs hb hon hl hf
  · simp only [hmoved, hreleased]
    rw [exec_surgeSet_releases ⟨hs.1, hr⟩ hb hon hl hf, surgeBody_surged]
    have hne : s.released ≠ .on := rampTo_ne_on s _
    rw [show (s.flagged false).surgeLine = false from hl]
    cases hx : s.released with
    | on => exact absurd hx hne
    | off => simp only [Surge.code, Surge.stage, List.append_assoc]; rfl
    | ramping k d => simp only [Surge.code, Surge.stage, List.append_assoc]; rfl
end

section
/-! Credential records in record memory: written, checked, and read back (R84, R160, R165). -/

-- One proof at a time: the threads of the default would not fit the memory the check allows.
set_option Elab.async false

open Sys2Proof

namespace Sys2Proof.Machine

/-! ### Reading runs of bytes -/

theorem readBytes_append (m : List Host.Cell) (a k n : Nat) :
    Memory.readBytes m a (k + n) = Memory.readBytes m a k ++ Memory.readBytes m (a + k) n := by
  induction k generalizing a with
  | zero => rw [Nat.zero_add]; rfl
  | succ k ih => rw [Nat.succ_add, Memory.readBytes, Memory.readBytes, ih, List.cons_append, Nat.succ_add_eq_add_succ]

theorem length_readBytes (m : List Host.Cell) (a n : Nat) : (Memory.readBytes m a n).length = n := by
  induction n generalizing a with
  | zero => rfl
  | succ n ih => rw [Memory.readBytes, List.length_cons, ih]

/-- A write leaves a run of bytes apart from it as it reads. -/
theorem readBytes_writeBytes_apart (m : List Host.Cell) {a x n : Nat} {bs : List Byte} (h : x + n ≤ a ∨ a + bs.length ≤ x) :
    Memory.readBytes (Memory.writeBytes m a bs) x n = Memory.readBytes m x n := by
  induction n generalizing x with
  | zero => rfl
  | succ n ih =>
    rw [Memory.readBytes, Memory.readBytes, Memory.read_writeBytes_outside m a bs x (by omega), ih (by omega)]

/-! ### The fields of a record (log entry 6) -/

@[simp] theorem length_gateTime_bytes (g : Option GateTime) : (GateTime.bytes g).length = 8 := by
  cases g <;> simp [GateTime.bytes]

theorem length_bytes62 (c : Cred) : c.bytes62.length = 62 := by simp [Cred.bytes62, flagByte]

theorem length_cred_bytes (c : Cred) : c.bytes.length = 64 := by simp [Cred.bytes, length_bytes62]

theorem gateTimeAt_cons (b : Byte) (l : List Byte) (a : Nat) : gateTimeAt (b :: l) (a + 1) = gateTimeAt l a := by
  simp [gateTimeAt, Nat.add_right_comm a 1]

theorem gateTimeAt_skip {k a : Nat} (v : Nat) (l : List Byte) (h : k ≤ a) :
    gateTimeAt (be k v ++ l) a = gateTimeAt l (a - k) := by
  unfold gateTimeAt
  rw [u8_skip v l h, u8_skip v l (by omega), u48_skip v l (by omega), Nat.sub_add_comm h, Nat.sub_add_comm h]

/-- A gate and time reads back as it was written. -/
theorem gateTimeAt_bytes {g : Option GateTime} (hg : ∀ x, g = some x → x.gate < 256) (l : List Byte) :
    gateTimeAt (GateTime.bytes g ++ l) 0 = g := by
  cases g with
  | none => rfl
  | some x =>
    have hgate : x.gate % 256 = x.gate := Nat.mod_eq_of_lt (hg x rfl)
    simp [GateTime.bytes, gateTimeAt, be_one, hgate]

theorem gateTimeAt_after (g : Option GateTime) (l : List Byte) : gateTimeAt (GateTime.bytes g ++ l) 8 = gateTimeAt l 0 := by
  have hlen := length_gateTime_bytes g
  unfold gateTimeAt
  rw [u48_append hlen l 2, u8_append hlen l 1]
  simp only [show u8 (GateTime.bytes g ++ l) 8 = u8 l 0 from u8_append hlen l 0]

theorem tierOf_code (t : Tier) : tierOf (BitVec.ofNat 8 t.code) = some t := by cases t <;> rfl

/-- The 62 bytes of a record hold the record. -/
theorem ofBytes_bytes62 {c : Cred} (ha : c.allowance < 8) (hf : ∀ g, c.first = some g → g.gate < 256)
    (hl : ∀ g, c.last = some g → g.gate < 256) : Cred.ofBytes c.bytes62 = c := by
  have hallow : c.allowance % 256 % 8 = c.allowance := by omega
  obtain ⟨code, tier, permit, allowance, grant, first, last⟩ := c
  simp [Cred.ofBytes, Cred.bytes62, flagByte, be_one, gateTimeAt_cons, gateTimeAt_skip, gateTimeAt_after, gateTimeAt_bytes hf,
    gateTimeAt_bytes hl, tierOf_code, hallow]

/-! ### A record's place (R160) -/

/-- The record at a position and its check are what its place in the area holds. -/
theorem cred_writeBytes_apart (s : State) {p q : Nat} (hq : q ≠ p) {bs : List Byte} (hb : bs.length = 64) :
    let t : State := { s with mem := { s.mem with cred := Memory.writeBytes s.mem.cred (credAddr p) bs } }
    t.cred q = s.cred q ∧ t.credPasses q = s.credPasses q := by
  have hapart (x n : Nat) (hx : credAddr q ≤ x) (hn : x + n ≤ credAddr q + 64) :
      Memory.readBytes (Memory.writeBytes s.mem.cred (credAddr p) bs) x n = Memory.readBytes s.mem.cred x n := by
    refine readBytes_writeBytes_apart _ ?_
    unfold credAddr at *
    omega
  refine ⟨?_, ?_⟩
  · unfold State.cred
    rw [hapart _ 62 le_rfl (by omega)]
  · unfold State.credPasses
    rw [hapart _ 62 le_rfl (by omega), hapart _ 2 (by omega) (by omega)]

theorem cred_written {s : State} (hs : Memory.wf s.mem.cred = true) (p : Nat) {c : Cred} (ha : c.allowance < 8)
    (hf : ∀ g, c.first = some g → g.gate < 256) (hl : ∀ g, c.last = some g → g.gate < 256) :
    let t : State := { s with mem := { s.mem with cred := Memory.writeBytes s.mem.cred (credAddr p) c.bytes } }
    t.credPasses p = true ∧ t.cred p = c := by
  intro t
  have hall : Memory.readBytes t.mem.cred (credAddr p) 62 ++ Memory.readBytes t.mem.cred (credAddr p + 62) 2
      = c.bytes62 ++ be 2 (checkCode c.bytes62).toNat := by
    rw [← readBytes_append, show 62 + 2 = c.bytes.length from (length_cred_bytes c).symm]
    exact Memory.readBytes_writeBytes hs _ _
  obtain ⟨hrec, hcode⟩ := List.append_inj hall (by rw [length_readBytes, length_bytes62])
  refine ⟨?_, ?_⟩
  · unfold State.credPasses
    rw [hrec, hcode, beVal_be, be_toNat_mod _ (by decide)]
    exact decide_eq_true rfl
  · unfold State.cred
    rw [hrec, ofBytes_bytes62 ha hf hl]

end Sys2Proof.Machine

open Sys2Proof.Machine

/-- Settles O12: the 64 bytes read back as they were written, and 62 of them hold the record's fields; places of other
positions lie apart. -/
theorem writtenCredentialsReadBack : Obligations.WrittenCredentialsReadBack := fun s p c hm ha hf hl =>
  ⟨(cred_written hm.1 p ha hf hl).1, (cred_written hm.1 p ha hf hl).2,
    fun _ hq => cred_writeBytes_apart s hq (length_cred_bytes c)⟩
end

section
/-! Entries of the redemption map: changing one, entering and leaving ADMITTED (R85, R88, R89), and what a scan's evaluation makes
of them (R99, R100). -/

-- One proof at a time: the threads of the default would not fit the memory the check allows.
set_option Elab.async false

open Sys2Proof

namespace Sys2Proof.Machine

variable {s : State} {p : Nat}

/-! ### Changing an entry twice -/

theorem del_of_above {α : Type} {t : Table α} {k : Nat} (h : Table.above k t) : t.del k = t := by
  induction t with
  | nil => rfl
  | cons e t ih =>
    have hk : k < e.1 := h e List.mem_cons_self
    have ht : Table.above k t := fun x hx => h x (List.mem_cons_of_mem _ hx)
    simp only [Table.del, ih ht]
    exact if_neg (by omega)

theorem put_of_above {α : Type} {t : Table α} {k : Nat} (h : Table.above k t) (v : α) : t.put k v = (k, v) :: t := by
  cases t with
  | nil => rfl
  | cons e t => exact if_pos (h e List.mem_cons_self)

/-- In a table whose keys rise, the second of two writes at a key is the one that counts. -/
theorem set_set_of_sorted {α : Type} [DecidableEq α] {d : α} {t : Table α} (hs : t.sorted = true) (k : Nat) (v w : α) :
    Table.set d (Table.set d t k v) k w = Table.set d t k w := by
  have hdel : ∀ t : Table α, t.sorted = true → (t.del k).del k = t.del k ∧ (t.del k).put k w = t.put k w
      ∧ (t.put k v).del k = t.del k := by
    intro t hs
    induction t with
    | nil => simp [Table.del, Table.put]
    | cons e t ih =>
      obtain ⟨k', x⟩ := e
      obtain ⟨hst, habove⟩ := (Table.sorted_cons k' x t).1 hs
      obtain ⟨hdd, hdp, hpd⟩ := ih hst
      rcases lt_trichotomy k k' with hlt | rfl | hgt
      · have hne : k ≠ k' := by omega
        have hna := del_of_above (Table.above_mono hlt.le habove)
        simp [Table.del, Table.put, hlt, hne, hna]
      · simp [Table.del, Table.put, del_of_above habove, put_of_above habove]
      · have hne : k ≠ k' := by omega
        simp [Table.del, Table.put, hne, hgt.not_gt, hdd, hdp, hpd]
  obtain ⟨hdd, hdp, hpd⟩ := hdel t hs
  unfold Table.set
  by_cases hv : v = d <;> by_cases hw : w = d
  · simp [hv, hw, hdd]
  · simp [hv, hw, hdp]
  · simp [hv, hw, hpd]
  · simp [hv, hw, Table.put_put]

/-- A change at a position reads back there: the entry stays listed, or the map is in order. -/
theorem entry_setEntry {e : MapEntry} (h : e ≠ {} ∨ s.adm.map.sorted = true) : (s.setEntry p e).entry p = e :=
  h.elim Table.get_set_of_ne (fun hs => Table.get_set_self hs e)

theorem entry_setEntry_ne {q : Nat} (h : q ≠ p) (e : MapEntry) : (s.setEntry p e).entry q = s.entry q := Table.get_set_ne h e _

theorem setEntry_setEntry {e e' : MapEntry} (h : (e ≠ {} ∧ e' ≠ {}) ∨ s.adm.map.sorted = true) :
    (s.setEntry p e).setEntry p e' = s.setEntry p e' := by
  have hset : Table.set {} (Table.set {} s.adm.map p e) p e' = Table.set {} s.adm.map p e' :=
    h.elim (fun hne => set_set_of_ne _ p hne.1 hne.2) (fun hs => set_set_of_sorted hs p e e')
  unfold State.setEntry
  simp only [hset]

theorem entry_ne_of_state {e : MapEntry} (h : e.state ≠ .free) : e ≠ {} := fun hc => h (congrArg MapEntry.state hc)

/-! ### Unbinding (R119, R120) -/

theorem holds_iff {h b w : Nat} : s.holds h b w = true
    ↔ ∃ st x, s.station h = some st ∧ st.binding = some x ∧ x.bucket = b ∧ x.way = w := by
  unfold State.holds
  cases hst : s.station h with
  | none => simp
  | some st => cases hb : st.binding <;> simp [hb]

theorem unbind_noEffect {h b w : Nat} (hh : s.holds h b w = false) :
    unbind h b w s = s.modAdmCtrs (fun k => { k with unbindsNoEffect := bump k.unbindsNoEffect }) := if_neg (by simp [hh])

/-- A record whose binding names the position, without a subscription, is unbound. -/
theorem unbind_holder {h b w : Nat} {st : Station} (hh : s.holds h b w = true) (hs : s.station h = some st) (hsub : st.sub = none) :
    unbind h b w s = (s.setStation h st.unbound).modAdmCtrs (fun k => { k with unbinds := bump k.unbinds }) :=
  (if_pos hh).trans (clearBinding_none hs hsub)

theorem holder_bound {h : Nat} (hb : (s.entry p).bound = some h) :
    s.holder p = if s.holds h (p / 4) (p % 4) then some h else none := by
  unfold State.holder
  rw [hb]

theorem holder_unbound (hb : (s.entry p).bound = none) : s.holder p = none := by
  unfold State.holder
  rw [hb]

theorem holder_eq_some {h : Nat} : s.holder p = some h ↔ (s.entry p).bound = some h ∧ s.holds h (p / 4) (p % 4) = true := by
  cases hb : (s.entry p).bound with
  | none => simp [holder_unbound hb]
  | some k =>
    rw [holder_bound hb]
    by_cases hk : k = h
    · subst hk
      simp
    · split <;> simp [hk]

theorem holds_of_no_holder {h : Nat} (hb : (s.entry p).bound = some h) (hn : s.holder p = none) :
    s.holds h (p / 4) (p % 4) = false := by
  rw [holder_bound hb] at hn
  simpa using hn

/-! ### Entering and leaving ADMITTED (R88, R89) -/

/-- The entry of a position that leaves ADMITTED, with no bound handle, and the occupancy of its home zone less by 1. -/
def State.left (s : State) (p : Nat) (new : EntryState) : State :=
  (s.setEntry p { s.entry p with state := new, bound := none }).setOccupancy (s.entry p).home (s.occupancy (s.entry p).home - 1)

/-- The first steps of leaving ADMITTED: the entry's state and the occupancy (R88). -/
def State.lowered (s : State) (p : Nat) (new : EntryState) : State :=
  (s.setEntry p { s.entry p with state := new }).setOccupancy (s.entry p).home (s.occupancy (s.entry p).home - 1)

theorem left_of_unbound (hb : (s.entry p).bound = none) (new : EntryState) : s.left p new = s.lowered p new := by
  unfold State.left State.lowered
  rw [← hb]

section
variable {new : EntryState} (h : new ≠ .free ∨ s.adm.map.sorted = true)
include h

theorem entry_lowered : (s.lowered p new).entry p = { s.entry p with state := new } :=
  entry_setEntry (h.imp_left entry_ne_of_state)

theorem leaveAdmitted_unbound (hb : (s.entry p).bound = none) : leaveAdmitted p new s = s.left p new := by
  rw [left_of_unbound hb]
  show releaseBinding p (s.lowered p new) = s.lowered p new
  unfold releaseBinding
  rw [entry_lowered h, hb]

/-- An entry with a bound handle asks the station table to unbind it (R89). -/
theorem leaveAdmitted_bound {k : Nat} (hb : (s.entry p).bound = some k) :
    leaveAdmitted p new s = unbind k (p / 4) (p % 4) (s.left p new) := by
  have hset : (s.setEntry p { s.entry p with state := new }).setEntry p { s.entry p with state := new, bound := none }
      = s.setEntry p { s.entry p with state := new, bound := none } :=
    setEntry_setEntry (h.imp_left (fun hn => ⟨entry_ne_of_state hn, entry_ne_of_state hn⟩))
  have hleft : (s.lowered p new).modEntry p (fun e => { e with bound := none }) = s.left p new := by
    unfold State.modEntry
    rw [entry_lowered h]
    exact congrArg (fun t : State => t.setOccupancy (s.entry p).home (s.occupancy (s.entry p).home - 1)) hset
  show releaseBinding p (s.lowered p new) = _
  unfold releaseBinding
  rw [entry_lowered h, hleft, hb]

theorem leaveAdmitted_noEffect {k : Nat} (hb : (s.entry p).bound = some k) (hh : s.holds k (p / 4) (p % 4) = false) :
    leaveAdmitted p new s = (s.left p new).modAdmCtrs (fun k => { k with unbindsNoEffect := bump k.unbindsNoEffect }) :=
  (leaveAdmitted_bound h hb).trans (unbind_noEffect hh)

theorem leaveAdmitted_releases {k : Nat} {st : Station} (hb : (s.entry p).bound = some k)
    (hh : s.holds k (p / 4) (p % 4) = true) (hs : s.station k = some st) (hsub : st.sub = none) : leaveAdmitted p new s
      = ((s.left p new).setStation k st.unbound).modAdmCtrs (fun k => { k with unbinds := bump k.unbinds }) :=
  (leaveAdmitted_bound h hb).trans (unbind_holder hh hs hsub)
end

/-- An entry that is not ADMITTED becomes VOID with nothing else changed (R97). -/
theorem voidEntry_outside (h : (s.entry p).state ≠ .admitted) : voidEntry p s = s.setEntry p { s.entry p with state := .void } :=
  if_neg h

theorem voidEntry_inside (h : (s.entry p).state = .admitted) : voidEntry p s = leaveAdmitted p .void s := if_pos h

/-- The entry of a position in ADMITTED with so many re-entries used, and the occupancy of its home zone more by 1. -/
def State.inside (s : State) (p used : Nat) : State :=
  (s.setEntry p { s.entry p with state := .admitted, used := used }).setOccupancy (s.entry p).home
    (s.occupancy (s.entry p).home + 1)

theorem admitIn_eq (p : Nat) (s : State) : admitIn p s = s.inside p (s.entry p).used := rfl

/-- Entering again counts the re-entry first (R99). -/
theorem admitIn_used (he : (s.entry p).state ≠ .free) (n : Nat) :
    admitIn p (s.modEntry p (fun e => { e with used := n })) = s.inside p n := by
  have hread : (s.setEntry p { s.entry p with used := n }).entry p = { s.entry p with used := n } :=
    entry_setEntry (.inl (entry_ne_of_state he))
  have hset : (s.setEntry p { s.entry p with used := n }).setEntry p { s.entry p with state := .admitted, used := n }
      = s.setEntry p { s.entry p with state := .admitted, used := n } :=
    setEntry_setEntry (.inl ⟨entry_ne_of_state he, entry_ne_of_state (fun hc => EntryState.noConfusion hc)⟩)
  rw [admitIn_eq]
  unfold State.inside State.modEntry
  rw [hread, hset]
  rfl

/-! ### What a scan's evaluation gives (R99, R100) -/

section
variable {zone : Nat} {g : GateTime}

/-- The record as an evaluated scan writes it back: its last gate and time are the scan's. -/
def State.scanned (s : State) (p : Nat) (g : GateTime) : Cred := { s.cred p with last := some g }

theorem evaluateEntry_wrongGate (hz : permits (s.cred p).permit zone = false) :
    evaluateEntry p zone g s = ⟨.wrongGate, s.scanned p g, s⟩ := if_pos (by simp [hz])

section
variable (hz : permits (s.cred p).permit zone = true)
include hz

theorem evaluateEntry_issued (he : (s.entry p).state = .issued) : evaluateEntry p zone g s
    = ⟨.admitIn, { s.scanned p g with first := some g }, s.inside p (s.entry p).used⟩ := by
  unfold evaluateEntry
  simp only [hz, he]
  rfl

theorem evaluateEntry_admitted (he : (s.entry p).state = .admitted) :
    evaluateEntry p zone g s = ⟨.duplicate, s.scanned p g, s⟩ := by
  unfold evaluateEntry
  simp only [hz, he]
  rfl

theorem evaluateEntry_readmits (he : (s.entry p).state = .exited) (hu : (s.entry p).used < (s.cred p).allowance) :
    evaluateEntry p zone g s = ⟨.readmit, s.scanned p g, s.inside p ((s.entry p).used + 1)⟩ := by
  rw [← admitIn_used (by rw [he]; exact EntryState.noConfusion)]
  unfold evaluateEntry
  simp only [hz, he]
  exact if_pos hu

theorem evaluateEntry_spent (he : (s.entry p).state = .exited) (hu : (s.cred p).allowance ≤ (s.entry p).used) :
    evaluateEntry p zone g s = ⟨.duplicate, s.scanned p g, s⟩ := by
  unfold evaluateEntry
  simp only [hz, he]
  exact if_neg (Nat.not_lt.2 hu)

theorem evaluateEntry_void (he : (s.entry p).state = .void) : evaluateEntry p zone g s = ⟨.void, s.scanned p g, s⟩ := by
  unfold evaluateEntry
  simp only [hz, he]
  rfl
end

theorem evaluateExit_admitted (he : (s.entry p).state = .admitted) :
    evaluateExit p g s = ⟨.exitOk, s.scanned p g, leaveAdmitted p .exited s⟩ := by
  unfold evaluateExit
  simp only [he]
  rfl

theorem evaluateExit_outside (he : (s.entry p).state = .issued ∨ (s.entry p).state = .exited) :
    evaluateExit p g s = ⟨.notInside, s.scanned p g, s⟩ := by
  unfold evaluateExit
  rcases he with he | he <;> simp only [he] <;> rfl

theorem evaluateExit_void (he : (s.entry p).state = .void) : evaluateExit p g s = ⟨.void, s.scanned p g, s⟩ := by
  unfold evaluateExit
  simp only [he]
  rfl
end

end Sys2Proof.Machine

open Sys2Proof.Machine

/-- Settles O55: each branch of the two evaluations, with the entry's state put in. -/
theorem scansAreEvaluatedByState : Obligations.ScansAreEvaluatedByState := by
  intro s p zone g e r
  refine ⟨evaluateEntry_wrongGate, fun hz => ⟨evaluateEntry_issued hz, evaluateEntry_admitted hz, evaluateEntry_readmits hz,
    evaluateEntry_spent hz, evaluateEntry_void hz⟩, fun he hb => ?_, evaluateExit_outside, evaluateExit_void⟩
  rw [evaluateExit_admitted he, leaveAdmitted_unbound (.inl EntryState.noConfusion) hb, left_of_unbound hb]
  rfl
end

section
/-! ADMISSION_FREEZE and EVENT_CLOSE (R103, R104). -/

-- One proof at a time: the threads of the default would not fit the memory the check allows.
set_option Elab.async false

open Sys2Proof

namespace Sys2Proof.Machine

variable {s : State}

theorem Role.isGate_iff {x : Role} : x.isGate = true ↔ x = .gateIn ∨ x = .gateOut ∨ x = .gateBoth := by cases x <;> simp [Role.isGate]

theorem Role.isGate_false_iff {x : Role} : x.isGate = false ↔ x = .seat ∨ x = .concourse := by cases x <;> simp [Role.isGate]

theorem gateInService_iff : s.gateInService = true
    ↔ ∃ e ∈ s.radios, e.2.state = .inService ∧ ∃ c, e.2.cfg = some c ∧ c.role.isGate = true := by
  unfold State.gateInService
  rw [List.any_eq_true]
  refine exists_congr fun e => and_congr_right fun _ => ?_
  cases e.2.cfg <;> simp

end Sys2Proof.Machine

open Sys2Proof.Machine

/-- Settles O27: the two directives are answered as they arrive, EVENT_CLOSE by whether a gate radio is IN_SERVICE. -/
theorem freezeAndCloseSetFlags : Obligations.FreezeAndCloseSetFlags := by
  intro s src tag hs
  refine ⟨exec_concluded (d := .admissionFreeze) (k := 18) hs rfl rfl rfl rfl rfl rfl, fun hno => ?_, fun hgate => ?_⟩
  · have hfalse : ¬ s.gateInService = true := fun hg => by
      obtain ⟨e, he, hserve, c, hc, hrole⟩ := gateInService_iff.1 hg
      rw [Role.isGate_false_iff.2 (hno e he hserve c hc)] at hrole
      exact Bool.false_ne_true hrole
    exact exec_concluded (d := .eventClose) (k := 19) hs rfl rfl rfl
      (v := { s with adm := { s.adm with frozen := false, closed := true } }) (if_neg hfalse) rfl rfl
  · have htrue : s.gateInService = true := by
      obtain ⟨e, he, hserve, c, hc, hrole⟩ := hgate
      exact gateInService_iff.2 ⟨e, he, hserve, c, hc, Role.isGate_iff.2 hrole⟩
    exact exec_concluded (d := .eventClose) (k := 19) hs rfl rfl rfl (if_pos htrue) rfl rfl
end

section
/-! The check results of a completed read (R87, R165), and what a completion of the record memory hands to its requester (R164). -/

-- One proof at a time: the threads of the default would not fit the memory the check allows.
set_option Elab.async false

open Sys2Proof

namespace Sys2Proof.Machine

variable {s t u : State}

/-! ### Occurrences of one class -/

theorem ErrClass.code_injective {c d : ErrClass} (h : c.code = d.code) : c = d := by
  have hall : ∀ x : ErrClass, ErrClass.all[x.code - 1]? = some x := fun x => by cases x <;> rfl
  have hc := hall c
  rw [h, hall d] at hc
  exact (Option.some.inj hc).symm

theorem errState_setErrState {c : ErrClass} {v : ErrState} (hv : v ≠ {}) (d : ErrClass) :
    (s.setErrState c v).errState d = if d = c then v else s.errState d := by
  unfold State.errState State.setErrState
  split
  · next h =>
    subst h
    exact Table.get_set_of_ne hv
  · next h => exact Table.get_set_ne (fun hc => h (ErrClass.code_injective hc)) _ _

/-- An occurrence is counted at its class; what else it does is to the first-error record, the notices and the transmit FIFO
(R178). -/
theorem takeOccurrence_counts (o : Occurrence) (s : State) : ∃ fi ov es tx, takeOccurrence o s = { s with
    err := { (s.setErrState o.cls { s.errState o.cls with status := true, count := bump (s.errState o.cls).count }).err with
      first := fi, overflow := ov, entries := es }
    uplink := { s.uplink with tx := tx } } := by
  let counted := s.setErrState o.cls { s.errState o.cls with status := true, count := bump (s.errState o.cls).count }
  have hfirst : ∃ fi ov, recordFirst o counted = { counted with err := { counted.err with first := fi, overflow := ov } } := by
    unfold recordFirst
    cases hf : counted.err.first with
    | none => exact ⟨_, _, rfl⟩
    | some x => exact ⟨_, _, rfl⟩
  by_cases hm : (s.errState o.cls).masked = true
  · refine ⟨_, _, _, _, (?_ : _ = counted)⟩
    unfold takeOccurrence
    exact if_pos hm
  · obtain ⟨fi, ov, hrec⟩ := hfirst
    obtain ⟨tx, es, hnotice⟩ := notice_only .error (errorBody o counted.venueTime (bump (s.errState o.cls).count)) (recordFirst o counted)
    refine ⟨fi, ov, es, tx, ?_⟩
    have htake : takeOccurrence o s = notice .error (errorBody o counted.venueTime (bump (s.errState o.cls).count))
        (recordFirst o counted) := by
      unfold takeOccurrence
      exact if_neg hm
    rw [htake, hnotice, hrec]
    rfl

theorem takeOccurrence_errState (o : Occurrence) (s : State) (d : ErrClass) : (takeOccurrence o s).errState d
    = if d = o.cls then { s.errState o.cls with status := true, count := bump (s.errState o.cls).count } else s.errState d := by
  obtain ⟨fi, ov, es, tx, h⟩ := takeOccurrence_counts o s
  rw [h]
  refine errState_setErrState (s := s) (v := { s.errState o.cls with status := true, count := bump (s.errState o.cls).count })
    (fun hc => ?_) d
  have hstatus : true = false := congrArg ErrState.status hc
  exact absurd hstatus (by decide)

/-! ### Faults found among the records of a read (R87, R165) -/

/-- A way's record has failed its check: the way becomes faulty, and RECORD_FAULT is taken (R87). -/
def State.faultFound (s : State) (p : Nat) : State :=
  takeOccurrence { cls := .recordFault, place := some (p / 4, p % 4) }
    ((s.setEntry p { s.entry p with faulty := true }).modAdmCtrs (fun k => { k with faultyFound := bump k.faultyFound }))

/-- What differs between `s` and `t`, where the records at the positions of `l` were found to fail in between. -/
structure FaultsFound (l : List Nat) (s t : State) : Prop where
  entries : ∀ p, t.entry p = if p ∈ l then { s.entry p with faulty := true } else s.entry p
  raised : t.errState .recordFault = { s.errState .recordFault with
    status := (s.errState .recordFault).status || !l.isEmpty, count := bumpBy (s.errState .recordFault).count l.length }
  others : ∀ c, c ≠ .recordFault → t.errState c = s.errState c
  only : t = { s with
    adm := { s.adm with
      map := t.adm.map, ctrs := { s.adm.ctrs with faultyFound := bumpBy s.adm.ctrs.faultyFound l.length } }
    err := { s.err with
      classes := t.err.classes, first := t.err.first, overflow := t.err.overflow, entries := t.err.entries }
    uplink := { s.uplink with tx := t.uplink.tx } }

theorem FaultsFound.nil (s : State) : FaultsFound [] s s where
  entries p := by simp
  raised := by simp
  others _ _ := rfl
  only := by simp

theorem bumpBy_bump (c : Ctr) (n : Nat) : bumpBy (bump c) n = bumpBy c (n + 1) := by
  unfold bump
  rw [bumpBy_bumpBy, Nat.add_comm]

theorem FaultsFound.one (s : State) (p : Nat) : FaultsFound [p] s (s.faultFound p) where
  entries q := by
    obtain ⟨fi, ov, es, tx, h⟩ := takeOccurrence_counts { cls := .recordFault, place := some (p / 4, p % 4) }
      ((s.setEntry p { s.entry p with faulty := true }).modAdmCtrs (fun k => { k with faultyFound := bump k.faultyFound }))
    have hentry : (s.faultFound p).entry q = (s.setEntry p { s.entry p with faulty := true }).entry q := by
      unfold State.faultFound
      rw [h]
      rfl
    rw [hentry]
    by_cases hq : q = p
    · subst hq
      simpa using entry_setEntry (.inl (fun hc => Bool.noConfusion (congrArg MapEntry.faulty hc)))
    · simpa [hq] using entry_setEntry_ne hq _
  raised := by
    refine (takeOccurrence_errState _ _ _).trans ((if_pos rfl).trans ?_)
    simp only [List.isEmpty_cons, Bool.not_false, Bool.or_true]
    rfl
  others c hc := (takeOccurrence_errState _ _ _).trans (if_neg hc)
  only := by
    obtain ⟨fi, ov, es, tx, h⟩ := takeOccurrence_counts { cls := .recordFault, place := some (p / 4, p % 4) }
      ((s.setEntry p { s.entry p with faulty := true }).modAdmCtrs (fun k => { k with faultyFound := bump k.faultyFound }))
    unfold State.faultFound
    rw [h]
    rfl

theorem FaultsFound.cons {p : Nat} {l : List Nat} (h : FaultsFound [p] s t) (k : FaultsFound l t u) : FaultsFound (p :: l) s u where
  entries q := by
    rw [k.entries, h.entries]
    by_cases hq : q = p <;> by_cases hl : q ∈ l <;> simp [hq, hl]
  raised := by
    rw [k.raised, h.raised]
    simp only [List.isEmpty_cons, Bool.not_false, Bool.or_true, Bool.true_or, List.length_cons, List.length_nil, bumpBy_bumpBy,
      Nat.add_comm]
  others c hc := (k.others c hc).trans (h.others c hc)
  only := by
    rw [k.only, h.only]
    simp only [List.length_cons, List.length_nil, bumpBy_bumpBy, Nat.add_comm]

theorem FaultsFound.foldl (l : List Nat) (s : State) : FaultsFound l s (l.foldl State.faultFound s) := by
  induction l generalizing s with
  | nil => exact .nil s
  | cons p l ih => exact (FaultsFound.one s p).cons (ih _)

/-- The positions of a check set whose records fail their check. -/
def State.failing (s : State) (check : List Nat) : List Nat := check.filter (fun p => !s.credPasses p)

/-- The failures of a check set are counted at the controller (R165). -/
def State.failuresCounted (s : State) (check : List Nat) : State :=
  { s with mem := { s.mem with ctrs := { s.mem.ctrs with
    checkFailures := bumpBy s.mem.ctrs.checkFailures (s.failing check).length } } }

theorem checked_faultsFound (s : State) (check : List Nat) :
    FaultsFound (s.failing check) (s.failuresCounted check) (s.checked check) := FaultsFound.foldl _ _

/-! ### The requester's rule at a completion (R162, R164) -/

/-- The arbiter does not look at the credential area. -/
theorem grant_setCred (m : RecMem) (c : List Host.Cell) : ({ m with cred := c } : RecMem).grant = { m.grant with cred := c } := by
  obtain ⟨cred, clip, fetchQ, writeQ, chunkQ, strideQ, ingestQ, transfer, starveIngest, starveStride, ctrs⟩ := m
  unfold RecMem.grant
  have hchoice : RecMem.choice ⟨c, clip, fetchQ, writeQ, chunkQ, strideQ, ingestQ, transfer, starveIngest, starveStride, ctrs⟩
      = RecMem.choice ⟨cred, clip, fetchQ, writeQ, chunkQ, strideQ, ingestQ, transfer, starveIngest, starveStride, ctrs⟩ := rfl
  rw [hchoice]
  generalize RecMem.choice ⟨cred, clip, fetchQ, writeQ, chunkQ, strideQ, ingestQ, transfer, starveIngest, starveStride, ctrs⟩ = next
  match transfer, next with
  | some _, none | some _, some _ | none, none => rfl
  | none, some (.fetch, _) => cases fetchQ <;> rfl
  | none, some (.writeBack, _) => cases writeQ <;> rfl
  | none, some (.chunk, _) => cases chunkQ <;> rfl
  | none, some (.stride, _) => cases strideQ <;> rfl
  | none, some (.ingest, _) => cases ingestQ <;> rfl

theorem grant_cred (m : RecMem) : m.grant.cred = m.cred :=
  (congrArg RecMem.cred (grant_setCred m m.cred)).trans rfl

theorem completeTransfer_eq {x : Tagged} {k : ReqKind} (hx : s.mem.transfer = some x) (hk : x.req.kind = k)
    (cells : List Host.Cell) (rule : Tagged → State → State) : completeTransfer k cells rule s
      = rule x { s with mem := ((({ s.mem with transfer := none } : RecMem).grant).disturb cells).written x.req } := by
  unfold completeTransfer RecMem.complete
  simp only [hx, hk, if_true]

/-- Bytes disturbed as a read completes are read as though they had been changed before (R165). -/
theorem completeTransfer_spoilt {x : Tagged} {k : ReqKind} (hx : s.mem.transfer = some x) (hk : x.req.kind = k)
    (cells : List Host.Cell) (rule : Tagged → State → State) : completeTransfer k cells rule s
      = completeTransfer k [] rule { s with mem := s.mem.disturb cells } := by
  have hmem : ({ (s.mem.disturb cells) with transfer := none } : RecMem).grant.disturb []
      = (({ s.mem with transfer := none } : RecMem).grant).disturb cells := by
    have hcred := grant_cred { s.mem with transfer := none }
    unfold RecMem.disturb
    rw [hcred]
    exact grant_setCred { s.mem with transfer := none } _
  rw [completeTransfer_eq hx hk, completeTransfer_eq (s := { s with mem := s.mem.disturb cells }) hx hk, hmem]

/-- The state once a read has completed and its check results are applied. -/
def State.readDone (s : State) (check : List Nat) : State :=
  State.checked { s with mem := ({ s.mem with transfer := none } : RecMem).grant } check

theorem readDone_only (s : State) (check : List Nat) : ∃ map k m e tx, s.readDone check = { s with
    adm := { s.adm with map := map, ctrs := k }, mem := m, err := e, uplink := { s.uplink with tx := tx } } := by
  obtain ⟨map, k, m, e, tx, h⟩ := checked_only { s with mem := ({ s.mem with transfer := none } : RecMem).grant } check
  exact ⟨map, k, _, e, tx, h⟩

@[simp] theorem readDone_venueTime (s : State) (check : List Nat) : (s.readDone check).venueTime = s.venueTime := by
  obtain ⟨map, k, m, e, tx, h⟩ := readDone_only s check
  rw [h]

@[simp] theorem readDone_stations (s : State) (check : List Nat) : (s.readDone check).stations = s.stations := by
  obtain ⟨map, k, m, e, tx, h⟩ := readDone_only s check
  rw [h]

@[simp] theorem readDone_radios (s : State) (check : List Nat) : (s.readDone check).radios = s.radios := by
  obtain ⟨map, k, m, e, tx, h⟩ := readDone_only s check
  rw [h]

@[simp] theorem readDone_mgmt (s : State) (check : List Nat) : (s.readDone check).mgmt = s.mgmt := by
  obtain ⟨map, k, m, e, tx, h⟩ := readDone_only s check
  rw [h]

@[simp] theorem readDone_ev (s : State) (check : List Nat) : (s.readDone check).ev = s.ev := by
  obtain ⟨map, k, m, e, tx, h⟩ := readDone_only s check
  rw [h]

@[simp] theorem readDone_items (s : State) (check : List Nat) : (s.readDone check).adm.items = s.adm.items := by
  obtain ⟨map, k, m, e, tx, h⟩ := readDone_only s check
  rw [h]

@[simp] theorem readDone_op (s : State) (check : List Nat) : (s.readDone check).adm.op = s.adm.op := by
  obtain ⟨map, k, m, e, tx, h⟩ := readDone_only s check
  rw [h]

@[simp] theorem readDone_closed (s : State) (check : List Nat) : (s.readDone check).adm.closed = s.adm.closed := by
  obtain ⟨map, k, m, e, tx, h⟩ := readDone_only s check
  rw [h]

@[simp] theorem readDone_sweep (s : State) (check : List Nat) : (s.readDone check).adm.sweep = s.adm.sweep := by
  obtain ⟨map, k, m, e, tx, h⟩ := readDone_only s check
  rw [h]

theorem readDone_calm (s : State) (check : List Nat) : Calm s (s.readDone check) := by
  obtain ⟨map, k, m, e, tx, h⟩ := readDone_only s check
  rw [h]
  exact calm_of_fields rfl rfl rfl rfl

section
variable {b n : Nat} {check : List Nat} {o : Owner}

/-- A fetch completes: its requester's rule is taken once the memory has granted again. -/
theorem exec_fetchCompletion (ht : s.mem.transfer = some ⟨.fetch b check o, false⟩) :
    exec (.credentialFetchCompletion []) s = .next (finish (fetchCompleted ⟨.fetch b check o, false⟩
      { s with mem := ({ s.mem with transfer := none } : RecMem).grant })) :=
  congrArg (fun u => Host.Outcome.next (finish u)) (completeTransfer_eq ht rfl [] fetchCompleted)

theorem exec_writeBackCompletion {p : Nat} {c : Cred} (ht : s.mem.transfer = some ⟨.writeBack p c o, false⟩) :
    exec .credentialWriteBackCompletion s = .next (finish (writeBackCompleted ⟨.writeBack p c o, false⟩
      { s with mem := { ({ s.mem with transfer := none } : RecMem).grant with
        cred := Memory.writeBytes s.mem.cred (p * 64) c.bytes } })) := by
  have hwritten : ((({ s.mem with transfer := none } : RecMem).grant).disturb []).written (.writeBack p c o)
      = { ({ s.mem with transfer := none } : RecMem).grant with cred := Memory.writeBytes s.mem.cred (p * 64) c.bytes } := by
    show ({ ({ s.mem with transfer := none } : RecMem).grant with
      cred := Memory.writeBytes ({ s.mem with transfer := none } : RecMem).grant.cred (p * 64) c.bytes } : RecMem) = _
    rw [grant_cred]
  show event (completeTransfer .writeBack [] writeBackCompleted) s = _
  unfold event
  rw [completeTransfer_eq (k := .writeBack) ht rfl, hwritten]

variable {i : WorkItem}

theorem itemFetched_checked (hd : s.ev.deferring = false) (hi : s.adm.items.find? (fun i => decide (i.serial = n)) = some i)
    (check : List Nat) : itemFetched n check s = match i.kind with
      | .scan dir scanner => decideScan i dir scanner (s.checked check)
      | .checkin h => decideCheckin i h (s.checked check) := by
  unfold itemFetched
  rw [hi, ← applyChecks_checked hd] <;> rfl

/-- A work item's fetch completes: the item is decided once the check results are applied (R98, R118). -/
theorem exec_scanFetched {dir : Direction} {scanner : Byte} (hs : s.Between)
    (ht : s.mem.transfer = some ⟨.fetch b check (.item n), false⟩)
    (hi : s.adm.items.find? (fun i => decide (i.serial = n)) = some i) (hk : i.kind = .scan dir scanner) :
    exec (.credentialFetchCompletion []) s = .next (finish (decideScan i dir scanner (s.readDone check))) := by
  have hitem := itemFetched_checked (s := { s with mem := ({ s.mem with transfer := none } : RecMem).grant })
    (quiet_deferring hs.1) hi check
  rw [hk] at hitem
  exact (exec_fetchCompletion ht).trans (congrArg (fun u => Host.Outcome.next (finish u)) hitem)

theorem exec_checkinFetched {h : Nat} (hs : s.Between) (ht : s.mem.transfer = some ⟨.fetch b check (.item n), false⟩)
    (hi : s.adm.items.find? (fun i => decide (i.serial = n)) = some i) (hk : i.kind = .checkin h) :
    exec (.credentialFetchCompletion []) s = .next (finish (decideCheckin i h (s.readDone check))) := by
  have hitem := itemFetched_checked (s := { s with mem := ({ s.mem with transfer := none } : RecMem).grant })
    (quiet_deferring hs.1) hi check
  rw [hk] at hitem
  exact (exec_fetchCompletion ht).trans (congrArg (fun u => Host.Outcome.next (finish u)) hitem)
end

end Sys2Proof.Machine
end

section
/-! The completions of a scan: its decision once its fetch completes, and the write-back (R98 to R102). -/

-- One proof at a time: the threads of the default would not fit the memory the check allows.
set_option Elab.async false

open Sys2Proof

namespace Sys2Proof.Machine

variable {s t u : State} {i : WorkItem}

/-! ### Answers, and items that leave -/

theorem modAdmCtrs_calm (s : State) (f : AdmCtrs → AdmCtrs) : Calm s (s.modAdmCtrs f) := calm_of_fields rfl rfl rfl rfl

theorem left_calm (s : State) (p : Nat) (new : EntryState) : Calm s (s.left p new) := calm_of_fields rfl rfl rfl rfl

theorem inside_calm (s : State) (p used : Nat) : Calm s (s.inside p used) := calm_of_fields rfl rfl rfl rfl

theorem sendVerdict_calm {radio : Nat} (hd : s.ev.deferring = false) (hb : s.portBusy radio = true) (a : Addr) (scanner : Byte)
    (code : Word64) (v : Verdict) (first : Option GateTime) : Calm s (sendVerdict radio a scanner code v first s) :=
  (modAdmCtrs_calm s _).trans (offer_calm hd hb)

theorem sendVerdict_adm (radio : Nat) (a : Addr) (scanner : Byte) (code : Word64) (v : Verdict) (first : Option GateTime)
    (s : State) :
    (sendVerdict radio a scanner code v first s).adm
      = { s.adm with ctrs := { s.adm.ctrs with verdicts := s.adm.ctrs.verdicts.raised v } } := offer_adm

/-- The only work item leaves, at an engine with nothing else under way. -/
theorem finish_completeItem (hs : s.Between) (h : Calm s t) (hi : t.adm.items = [i]) (ho : t.adm.op = none)
    (hst : t.adm.sweep.stride = none) :
    finish (completeItem i.serial t) = ({ t with adm := { t.adm with items := [] } } : State).ended := by
  have hleft : completeItem i.serial t = ({ t with adm := { t.adm with items := [] } } : State).lookForSlot := by
    have hnone : t.adm.items.filter (fun j => decide (j.serial ≠ i.serial)) = [] := by simp [hi]
    unfold completeItem State.modAdm
    simp only [hnone]
  rw [hleft]
  exact finish_look hs.1 (h.trans (calm_of_fields rfl rfl rfl rfl)) hs.2 rfl ho hst

theorem writeBackItem_eq (i : WorkItem) (p : Nat) (c : Cred) (s : State) : writeBackItem i p c s = { s with
    adm := { s.adm with
      items := s.adm.items.map (fun j => if j.serial = i.serial then { j with stage := .writing (j.stage.slot.getD 0) } else j)
      ctrs := { s.adm.ctrs with writeBacks := bump s.adm.ctrs.writeBacks } }
    mem := s.mem.send (.writeBack p c (.item i.serial)) } := rfl

theorem finish_writeBackItem (hs : s.Between) (h : Calm s t) (p : Nat) (c : Cred) :
    finish (writeBackItem i p c t) = (writeBackItem i p c t).ended :=
  finish_calm hs.1 (h.trans (calm_of_fields rfl rfl rfl rfl)) hs.2

/-! ### The branches of a decision (R98) -/

section
variable {dir : Direction} {scanner : Byte}

theorem decideScan_closed (hd : dir = .entry) (hc : s.adm.closed = true) : decideScan i dir scanner s
    = completeItem i.serial (sendVerdict i.radio i.station scanner i.code .closed none s) := if_pos ⟨hd, hc⟩

variable (hopen : dir = .exit ∨ s.adm.closed = false)
include hopen

theorem not_closed : ¬ (dir = .entry ∧ s.adm.closed = true) := by
  rintro ⟨rfl, hc⟩
  rcases hopen with h | h
  · cases h
  · exact absurd (hc.symm.trans h) (by decide)

theorem decideScan_fault (hm : s.matchCode i.bucket i.code = .fault) : decideScan i dir scanner s
    = completeItem i.serial (sendVerdict i.radio i.station scanner i.code .fault none s) := by
  unfold decideScan
  rw [if_neg (not_closed hopen), hm]

theorem decideScan_unknown (hm : s.matchCode i.bucket i.code = .unknown) : decideScan i dir scanner s
    = completeItem i.serial (sendVerdict i.radio i.station scanner i.code .unknown none s) := by
  unfold decideScan
  rw [if_neg (not_closed hopen), hm]
end

/-- The evaluation of a scan whose credential is found (R99, R100). -/
def evaluateScan (dir : Direction) (p zone : Nat) (g : GateTime) (s : State) : Evaluated :=
  match dir with
  | .entry => evaluateEntry p zone g s
  | .exit => evaluateExit p g s

theorem decideScan_found {dir : Direction} {scanner : Byte} (hopen : dir = .exit ∨ s.adm.closed = false) {w : Nat}
    (hm : s.matchCode i.bucket i.code = .found w) {v : Verdict} {c : Cred}
    (hx : evaluateScan dir (i.bucket * 4 + w) i.zone ⟨i.radio, s.venueTime⟩ s = ⟨v, c, u⟩) : decideScan i dir scanner s
      = writeBackItem i (i.bucket * 4 + w) c
        (sendVerdict i.radio i.station scanner i.code v (if v = .duplicate then c.first else none) u) := by
  have hstep : decideScan i dir scanner s = (fun x : Evaluated => writeBackItem i (i.bucket * 4 + w) x.cred
      (sendVerdict i.radio i.station scanner i.code x.verdict (if x.verdict = .duplicate then x.cred.first else none) x.state))
        (evaluateScan dir (i.bucket * 4 + w) i.zone ⟨i.radio, s.venueTime⟩ s) := by
    unfold decideScan
    rw [if_neg (not_closed hopen), hm]
    cases dir <;> rfl
  rw [hstep, hx]

/-! ### The completion of a scan's fetch -/

section
variable {n slot : Nat} {check : List Nat} {dir : Direction} {scanner : Byte} (hs : s.Between)
  (ht : s.mem.transfer = some ⟨.fetch i.bucket check (.item n), false⟩)
  (hi : s.adm.items.find? (fun i => decide (i.serial = n)) = some i) (hk : i.kind = .scan dir scanner)
  (hb : s.portBusy i.radio = true)
include hs ht hi hk hb

/-- A scan that is answered without a write-back leaves the queue, here as the only item. -/
theorem exec_scanAnswered {v : Verdict} (hdec : decideScan i dir scanner (s.readDone check)
      = completeItem i.serial (sendVerdict i.radio i.station scanner i.code v none (s.readDone check)))
    (honly : s.adm.items = [i]) (ho : s.adm.op = none) (hst : s.adm.sweep.stride = none) :
    exec (.credentialFetchCompletion []) s = .next (State.ended
      { sendVerdict i.radio i.station scanner i.code v none (s.readDone check) with
        adm := { (sendVerdict i.radio i.station scanner i.code v none (s.readDone check)).adm with items := [] } }) := by
  have hread := readDone_calm s check
  have hadm := sendVerdict_adm i.radio i.station scanner i.code v none (s.readDone check)
  rw [exec_scanFetched hs ht hi hk, hdec, finish_completeItem hs (hread.trans (sendVerdict_calm
    (hread.defr.trans (quiet_deferring hs.1)) ((hread.portBusy _).trans hb) _ _ _ _ _))]
  · rw [hadm]
    exact (readDone_items s check).trans honly
  · rw [hadm]
    exact (readDone_op s check).trans ho
  · rw [hadm]
    exact (congrArg Sweep.stride (readDone_sweep s check)).trans hst

/-- A scan of a credential found is answered as its evaluation says, and the record is written back. -/
theorem exec_scanWritten {w : Nat} {v : Verdict} {c : Cred} (hopen : dir = .exit ∨ s.adm.closed = false)
    (hm : (s.readDone check).matchCode i.bucket i.code = .found w)
    (hx : evaluateScan dir (i.bucket * 4 + w) i.zone ⟨i.radio, s.venueTime⟩ (s.readDone check) = ⟨v, c, u⟩)
    (hu : Calm (s.readDone check) u) : exec (.credentialFetchCompletion []) s
      = .next (writeBackItem i (i.bucket * 4 + w) c
        (sendVerdict i.radio i.station scanner i.code v (if v = .duplicate then c.first else none) u)).ended := by
  have hcalm := (readDone_calm s check).trans hu
  have hx' : evaluateScan dir (i.bucket * 4 + w) i.zone ⟨i.radio, (s.readDone check).venueTime⟩ (s.readDone check)
      = ⟨v, c, u⟩ := by
    rw [readDone_venueTime]
    exact hx
  have hcalm' := hcalm.trans (sendVerdict_calm (hcalm.defr.trans (quiet_deferring hs.1)) ((hcalm.portBusy _).trans hb) i.station
    scanner i.code v (if v = .duplicate then c.first else none))
  rw [exec_scanFetched hs ht hi hk, decideScan_found (by rw [readDone_closed]; exact hopen) hm hx',
    finish_writeBackItem hs hcalm']
end

/-! ### The completion of its write-back -/

theorem exec_scanWrittenBack {p : Nat} {c : Cred} (hs : s.Between)
    (ht : s.mem.transfer = some ⟨.writeBack p c (.item i.serial), false⟩) (hi : s.adm.items = [i]) (ho : s.adm.op = none)
    (hst : s.adm.sweep.stride = none) : exec .credentialWriteBackCompletion s = .next { s.ended with
      adm := { s.adm with items := [] }
      mem := { ({ s.mem with transfer := none } : RecMem).grant with cred := Memory.writeBytes s.mem.cred (p * 64) c.bytes } } := by
  rw [exec_writeBackCompletion ht]
  exact congrArg Host.Outcome.next (finish_completeItem (s := s) hs (calm_of_fields rfl rfl rfl rfl) hi ho hst)

end Sys2Proof.Machine

open Sys2Proof.Machine

/-- Settles O56: the check results one failing record at a time; the bytes of a disturbance; the decision by its branches, each
with its evaluation; and the write-back. -/
theorem scanCompletionsAdmit : Obligations.ScanCompletionsAdmit := by
  refine ⟨fun s check => ?_, fun s cells req m ht => ⟨fun hk => ?_, fun hk => ?_⟩, ?_,
    fun s p c i hs ht hi ho hst => exec_scanWrittenBack hs ht hi ho hst⟩
  · have h := checked_faultsFound s check
    intro t n e
    refine ⟨fun p => ?_, fun hn => ?_, h.others, h.only⟩
    · refine (h.entries p).trans ?_
      have hmem : p ∈ s.failing check ↔ p ∈ check ∧ s.credPasses p = false := by simp [State.failing]
      simp only [hmem]
      rfl
    · refine h.raised.trans ?_
      have hsome : (s.failing check).isEmpty = false := by
        rw [Bool.eq_false_iff, ne_eq, List.isEmpty_iff_length_eq_zero]
        exact hn
      simp only [hsome, Bool.not_false, Bool.or_true]
      rfl
  · exact congrArg (fun u => Host.Outcome.next (finish u)) (completeTransfer_spoilt ht hk cells fetchCompleted)
  · exact congrArg (fun u => Host.Outcome.next (finish u)) (completeTransfer_spoilt ht hk cells strideCompleted)
  · intro s b n slot check dir scanner i hs ht hi hk hbucket _ hb base run verdict answered
    subst hbucket
    have hserial : i.serial = n := by simpa using List.find?_some hi
    subst hserial
    have hverdict (v : Verdict) (first : Option GateTime) (t : State) :
        verdict v.code (GateTime.bytes first) (fun k => k.raised v) t = sendVerdict i.radio i.station scanner i.code v first t := rfl
    clear_value verdict
    have ends {v : Verdict} (hdec : decideScan i dir scanner base
        = completeItem i.serial (sendVerdict i.radio i.station scanner i.code v none base)) : answered v.code (fun k => k.raised v) := by
      intro honly ho hst
      have hrun := exec_scanAnswered hs ht hi hk hb hdec honly ho hst
      rw [← hverdict] at hrun
      exact hrun
    have hclosed : base.adm.closed = s.adm.closed := readDone_closed s check
    refine ⟨fun hd hc => ends (v := .closed) (decideScan_closed hd (hclosed.trans hc)), fun hopen =>
      ⟨fun hm => ends (v := .fault) (decideScan_fault (by rw [hclosed]; exact hopen) hm),
        fun hm => ends (v := .unknown) (decideScan_unknown (by rw [hclosed]; exact hopen) hm), fun w hm => ?_⟩⟩
    · intro p e c now decided enters leaves again void
      have hdecided (v : Nat) (first : List Byte) (f : VerdictCtrs → VerdictCtrs) (r : Cred) (t : State) : decided v first f r t
          = (run = .next (writeBackItem i p { r with last := some now } (verdict v first f t)).ended) := rfl
      have written {v : Verdict} {r : Cred} {t : State} (hx : evaluateScan dir p i.zone now base = ⟨v, { r with last := some now }, t⟩)
          (hcalm : Calm base t) :
          decided v.code (GateTime.bytes (if v = .duplicate then r.first else none)) (fun k => k.raised v) r t := by
        rw [hdecided, hverdict]
        exact exec_scanWritten hs ht hi hk hb hopen hm hx hcalm
      have hagain : again = decided Verdict.duplicate.code (GateTime.bytes c.first) (fun k => k.raised .duplicate) c base := by
        have hfirst (o : Option GateTime) : (match o with
            | some g => [1] ++ be 1 g.gate ++ be 6 g.time.toNat
            | none => be 8 0) = GateTime.bytes o := by cases o <;> rfl
        exact congrArg (fun l => decided 3 l (fun k => k.raised .duplicate) c base) (hfirst c.first)
      have hduplicate (hx : evaluateScan dir p i.zone now base = ⟨.duplicate, base.scanned p now, base⟩) : again := by
        rw [hagain]
        exact written (v := .duplicate) hx (Calm.refl _)
      have hvoid (hx : evaluateScan dir p i.zone now base = ⟨.void, base.scanned p now, base⟩) : void :=
        written (v := .void) hx (Calm.refl _)
      refine ⟨?_, ?_⟩
      · rintro rfl
        refine ⟨fun hz => written (v := .wrongGate) (evaluateEntry_wrongGate hz) (Calm.refl _), fun hz => ⟨fun he => ?_, fun he hu => ?_,
          fun he => hduplicate (evaluateEntry_admitted hz he), fun he hu => hduplicate (evaluateEntry_spent hz he hu),
          fun he => hvoid (evaluateEntry_void hz he)⟩⟩
        · exact written (v := .admitIn) (evaluateEntry_issued hz he) (inside_calm _ _ _)
        · exact written (v := .readmit) (evaluateEntry_readmits hz he hu) (inside_calm _ _ _)
      · rintro rfl out
        have leave {t : State} (he : e.state = .admitted) (hl : leaveAdmitted p .exited base = t) (ht : Calm base t) : out t :=
          written (v := .exitOk) ((evaluateExit_admitted he).trans (by rw [hl]; rfl)) ht
        have hnew : EntryState.exited ≠ .free ∨ base.adm.map.sorted = true := .inl EntryState.noConfusion
        refine ⟨fun he => ⟨fun hfree => ?_, fun h hbound => ⟨fun hnone => ?_, fun st hholder hst hsub => ?_⟩⟩, fun he => ?_,
          fun he => hvoid (evaluateExit_void he)⟩
        · exact leave he (leaveAdmitted_unbound hnew hfree) (left_calm _ _ _)
        · exact leave he (leaveAdmitted_noEffect hnew hbound (holds_of_no_holder hbound hnone))
            ((left_calm _ _ _).trans (modAdmCtrs_calm _ _))
        · exact leave he (leaveAdmitted_releases hnew hbound (holder_eq_some.1 hholder).2
            ((congrArg (Table.find · h) (readDone_stations s check)).trans hst) hsub)
            (((left_calm _ _ _).trans (setStation_calm _ _ _)).trans (modAdmCtrs_calm _ _))
        · exact written (v := .notInside) (evaluateExit_outside he) (Calm.refl _)
end

section
/-! The decision of a check-in once its fetch completes, and the binding an accepted one makes (R118 to R123). -/

-- One proof at a time: the threads of the default would not fit the memory the check allows.
set_option Elab.async false

open Sys2Proof

namespace Sys2Proof.Machine

variable {s t u : State} {i : WorkItem}

/-! ### Offers do not look at the admission engine -/

section
variable (a : Admission)

/-- The state with another state of the admission engine. -/
def State.withAdm (s : State) (a : Admission) : State := { s with adm := a }

theorem notice_withAdm (k : NoticeKind) (b : List Byte) (s : State) :
    notice k b (s.withAdm a) = (notice k b s).withAdm a := by
  unfold notice
  by_cases he : (s.noticeEntry (s.noticeEntryOf k)).enable = false
  · rw [if_pos he, if_pos (by exact he)]
    rfl
  · by_cases hm : (s.noticeEntry (s.noticeEntryOf k)).mask = true
    · rw [if_neg he, if_neg (by exact he), if_pos hm, if_pos (by exact hm)]
      rfl
    · rw [if_neg he, if_neg (by exact he), if_neg hm, if_neg (by exact hm)]
      rfl

theorem takeOccurrence_withAdm (o : Occurrence) (s : State) :
    takeOccurrence o (s.withAdm a) = (takeOccurrence o s).withAdm a := by
  have hrec (s : State) : recordFirst o (s.withAdm a) = (recordFirst o s).withAdm a := by
    unfold recordFirst
    rw [show (s.withAdm a).err.first = s.err.first from rfl]
    cases s.err.first <;> rfl
  unfold takeOccurrence
  simp only [show (s.withAdm a).errState o.cls = s.errState o.cls from rfl]
  by_cases hm : (s.errState o.cls).masked = true
  · simp only [hm, if_true]
    rfl
  · simp only [hm, if_false, Bool.false_eq_true]
    have hset (v : ErrState) : (s.withAdm a).setErrState o.cls v = (s.setErrState o.cls v).withAdm a := rfl
    rw [hset, hrec]
    exact notice_withAdm a _ _ _

theorem occur_withAdm (o : Occurrence) (s : State) : occur o (s.withAdm a) = (occur o s).withAdm a := by
  unfold occur
  by_cases hd : s.ev.deferring = true
  · rw [if_pos hd, if_pos (by exact hd)]
    rfl
  · rw [if_neg hd, if_neg (by exact hd)]
    exact takeOccurrence_withAdm a o s

theorem askRadio_withAdm (r : Nat) (s : State) : (s.withAdm a).askRadio r = (s.askRadio r).withAdm a := by
  unfold State.askRadio
  rw [show (s.withAdm a).radio r = s.radio r from rfl]
  cases (s.radio r).cfg with
  | none => rfl
  | some c =>
    show State.askPort (s.withAdm a) c.port = (s.askPort c.port).withAdm a
    unfold State.askPort
    by_cases hp : s.ev.ask.contains c.port = true
    · rw [if_pos hp, if_pos (by exact hp)]
    · rw [if_neg hp, if_neg (by exact hp)]
      rfl

theorem modStation_withAdm (h : Nat) (f : Station → Station) (s : State) :
    (s.withAdm a).modStation h f = (s.modStation h f).withAdm a := by
  unfold State.modStation
  rw [show (s.withAdm a).station h = s.station h from rfl]
  cases s.station h <;> rfl

theorem raiseEgress_withAdm (h : Option Nat) (s : State) : raiseEgress h (s.withAdm a) = (raiseEgress h s).withAdm a := by
  cases h with
  | none => rfl
  | some h => exact modStation_withAdm a h _ s

theorem acceptFrame_withAdm (r : Nat) (c : Cls) (f : Frame) (l : List Burst) (opened : Bool) (s : State) :
    acceptFrame r c f l opened (s.withAdm a) = (acceptFrame r c f l opened s).withAdm a := by
  have hask (was new : List Burst) (s : State) :
      askIfEligible r c was new false (s.withAdm a) = (askIfEligible r c was new false s).withAdm a := by
    unfold askIfEligible
    split
    · exact askRadio_withAdm a r s
    · rfl
  show askIfEligible r c (s.list r c) l false (raiseEgress f.handle (State.withAdm { s.setList r c l with
      egress := { (s.setList r c l).egress with
        buffers := (s.setList r c l).egress.buffers + 1
        bursts := (s.setList r c l).egress.bursts + (if opened then 1 else 0)
        accepted := bump (s.setList r c l).egress.accepted } } a)) = (acceptFrame r c f l opened s).withAdm a
  rw [raiseEgress_withAdm, hask]
  rfl

theorem offer_withAdm (sort : OfferSort) (r : Nat) (c : Cls) (f : Frame) (s : State) :
    (offer sort r c f (s.withAdm a)).2 = ((offer sort r c f s).2).withAdm a := by
  have hp : place (s.withAdm a) r c f = place s r c f := rfl
  unfold offer
  rw [show (s.withAdm a).inService r = s.inService r from rfl, hp]
  cases s.inService r with
  | false => rfl
  | true =>
    rw [if_neg (by simp), if_neg (by simp)]
    rcases place s r c f with _ | ⟨l, opened⟩
    · cases sort with
      | declinable => rfl
      | droppable =>
        exact occur_withAdm a _ (s.modRadio r (fun x => { x with drops := { x.drops with overflow := bump x.drops.overflow } }))
    · exact acceptFrame_withAdm a r c f l opened s
end

/-! ### Answers to check-ins -/

/-- The scan queue is empty. -/
def State.noItems (s : State) : State := { s with adm := { s.adm with items := [] } }

theorem sendCheckinReply_adm (radio : Nat) (a : Addr) (r : CheckinResult) (s : State) :
    (sendCheckinReply radio a r s).adm = { s.adm with ctrs := s.adm.ctrs.checkinResult r } := offer_adm

theorem noItems_sendCheckinReply (radio : Nat) (a : Addr) (r : CheckinResult) (s : State) :
    (sendCheckinReply radio a r s).noItems = sendCheckinReply radio a r s.noItems := by
  unfold State.noItems
  rw [sendCheckinReply_adm]
  exact (offer_withAdm _ .droppable radio .admission _ (s.modAdmCtrs (fun k => k.checkinResult r))).symm

theorem sendCheckinReply_calm {radio : Nat} (hd : s.ev.deferring = false) (hb : s.portBusy radio = true) (a : Addr)
    (r : CheckinResult) : Calm s (sendCheckinReply radio a r s) := (modAdmCtrs_calm s _).trans (offer_calm hd hb)

section
variable {h w : Nat}

theorem decideCheckin_gone (ha : (s.station h).map Station.addr ≠ some i.station) : decideCheckin i h s
    = completeItem i.serial (s.modAdmCtrs (fun k => { k with abandoned := bump k.abandoned })) := if_neg ha

variable (ha : (s.station h).map Station.addr = some i.station)
include ha

theorem decideCheckin_fault (hm : s.matchCode i.bucket i.code = .fault) :
    decideCheckin i h s = completeItem i.serial (sendCheckinReply i.radio i.station .fault s) := by
  unfold decideCheckin
  rw [if_pos ha, hm]

theorem decideCheckin_unknown (hm : s.matchCode i.bucket i.code = .unknown) :
    decideCheckin i h s = completeItem i.serial (sendCheckinReply i.radio i.station .unknown s) := by
  unfold decideCheckin
  rw [if_pos ha, hm]

variable (hm : s.matchCode i.bucket i.code = .found w)
include hm

theorem decideCheckin_notInside (he : (s.entry (i.bucket * 4 + w)).state ≠ .admitted) :
    decideCheckin i h s = completeItem i.serial (sendCheckinReply i.radio i.station .notInside s) := by
  unfold decideCheckin
  rw [if_pos ha, hm]
  exact if_pos he

variable (he : (s.entry (i.bucket * 4 + w)).state = .admitted)
include he

theorem decideCheckin_elsewhere (hh : s.heldElsewhere h (i.bucket * 4 + w) = true) :
    decideCheckin i h s = completeItem i.serial (sendCheckinReply i.radio i.station .boundElsewhere s) := by
  unfold decideCheckin
  rw [if_pos ha, hm]
  exact (if_neg (not_not.2 he)).trans (if_pos hh)

theorem decideCheckin_accepted (hh : s.heldElsewhere h (i.bucket * 4 + w) = false) : decideCheckin i h s
    = completeItem i.serial (sendCheckinReply i.radio i.station .accepted
      (bindStation h (i.bucket * 4 + w) (s.cred (i.bucket * 4 + w)) s)) := by
  unfold decideCheckin
  rw [if_pos ha, hm]
  exact (if_neg (not_not.2 he)).trans (if_neg (by rw [posOf, hh]; exact Bool.false_ne_true))
end

/-! ### The binding of an accepted check-in (R123) -/

section
variable {h p : Nat} {st : Station}

theorem rederive_sub (st : Station) : st.rederive.sub = st.sub := by
  obtain ⟨c, d, h⟩ := rederive_only st
  rw [h]

/-- Setting a binding on a record without a subscription (R13, R123). -/
theorem setBinding_eq (hs : s.station h = some st) (hsub : st.sub = none) (b : Binding) : setBinding h b s
    = s.setStation h
      ({ st with binding := some b, standing := s.standingOf { st with binding := some b } } : Station).rederive := by
  unfold setBinding
  rw [modStation_some hs, recompute_eq (st := { st with binding := some b }) (station_setStation_self s h _) hsub,
    setStation_setStation]
  rfl

/-- The entry of a position with its bound handle set to `h`, and the record there bound to the position (R123). -/
def State.boundTo (s : State) (h p : Nat) (st : Station) (c : Cred) : State :=
  (s.setEntry p { s.entry p with bound := some h }).setStation h ({ st with
    binding := some ⟨p / 4, p % 4, c.tier, c.permit, c.grant⟩
    standing := s.standingOf { st with binding := some ⟨p / 4, p % 4, c.tier, c.permit, c.grant⟩ } } : Station).rederive

/-- A binding is counted unless it renews one (R123). -/
def State.countBinding (s : State) (renewal : Bool) : State :=
  if renewal then s else s.modAdmCtrs (fun k => { k with bindings := bump k.bindings })

/-- The binding of another record that holds the credential is taken over (R119, R120). -/
def takeOver (h p : Nat) (s : State) : State :=
  match s.holder p with
  | some h' =>
    if h' = h then s
    else (unbind h' (p / 4) (p % 4) s).modAdmCtrs (fun k => { k with takeovers := bump k.takeovers })
  | none => s

theorem takeOver_none (hn : s.holder p = none) : takeOver h p s = s := by
  unfold takeOver
  rw [hn]

theorem takeOver_self (hn : s.holder p = some h) : takeOver h p s = s := by
  unfold takeOver
  rw [hn]
  exact if_pos rfl

theorem takeOver_other {h' : Nat} {st' : Station} (hn : s.holder p = some h') (hne : h' ≠ h) (hs : s.station h' = some st')
    (hsub : st'.sub = none) : takeOver h p s = (s.setStation h' st'.unbound).modAdmCtrs
      (fun k => { k with unbinds := bump k.unbinds, takeovers := bump k.takeovers }) := by
  unfold takeOver
  rw [hn]
  refine (if_neg hne).trans ?_
  rw [unbind_holder (holder_eq_some.1 hn).2 hs hsub]
  rfl

theorem dropOldBound_none (hs : s.station h = some st) (hb : st.binding = none) : dropOldBound h p s = s := by
  unfold dropOldBound
  rw [hs, Option.bind_some, hb]

theorem dropOldBound_some {x : Binding} (hs : s.station h = some st) (hb : st.binding = some x) : dropOldBound h p s
    = if x.bucket * 4 + x.way ≠ p ∧ (s.entry (x.bucket * 4 + x.way)).bound = some h then
        s.setEntry (x.bucket * 4 + x.way) { s.entry (x.bucket * 4 + x.way) with bound := none }
      else s := by
  unfold dropOldBound
  rw [hs, Option.bind_some, hb]
  rfl

/-- An accepted check-in binds, and counts a binding unless it renews one. -/
theorem bindStation_eq (c : Cred) (ht : dropOldBound h p (takeOver h p s) = t) (hs : t.station h = some st)
    (hsub : st.sub = none) : bindStation h p c s = (t.boundTo h p st c).countBinding (decide (s.holder p = some h)) := by
  have hbound : setBinding h ⟨p / 4, p % 4, c.tier, c.permit, c.grant⟩ (t.modEntry p (fun e => { e with bound := some h }))
      = t.boundTo h p st c := setBinding_eq (s := t.modEntry p (fun e => { e with bound := some h })) hs hsub _
  have hkept : removeSub h (t.boundTo h p st c) = t.boundTo h p st c :=
    removeSub_none (station_setStation_self _ _ _) ((rederive_sub _).trans hsub)
  have hstep : bindStation h p c s = (if c.grant then t.boundTo h p st c else removeSub h (t.boundTo h p st c)).countBinding
      (decide (s.holder p = some h)) := by
    rw [← hbound]
    subst ht
    rfl
  rw [hstep, hkept, ite_self]
end

end Sys2Proof.Machine
end

section
/-! A check-in's fetch completes: the answer, and the binding an accepted one makes (R118 to R123). -/

-- One proof at a time: the threads of the default would not fit the memory the check allows.
set_option Elab.async false

open Sys2Proof

namespace Sys2Proof.Machine

variable {s t u : State} {i : WorkItem}

/-! ### Operations that leave the engine's work -/

/-- A calm operation that leaves the scan queue, the directive operation and the stride of the sweep. -/
structure KeepsWork (s t : State) : Prop where
  calm : Calm s t
  items : t.adm.items = s.adm.items
  op : t.adm.op = s.adm.op
  stride : t.adm.sweep.stride = s.adm.sweep.stride

theorem KeepsWork.trans (h : KeepsWork s t) (k : KeepsWork t u) : KeepsWork s u :=
  ⟨h.calm.trans k.calm, k.items.trans h.items, k.op.trans h.op, k.stride.trans h.stride⟩

theorem keepsWork_readDone (s : State) (check : List Nat) : KeepsWork s (s.readDone check) :=
  ⟨readDone_calm s check, readDone_items s check, readDone_op s check, congrArg Sweep.stride (readDone_sweep s check)⟩

theorem keepsWork_modAdmCtrs (s : State) (f : AdmCtrs → AdmCtrs) : KeepsWork s (s.modAdmCtrs f) :=
  ⟨modAdmCtrs_calm s f, rfl, rfl, rfl⟩

theorem keepsWork_setStation (s : State) (h : Nat) (v : Station) : KeepsWork s (s.setStation h v) :=
  ⟨setStation_calm s h v, rfl, rfl, rfl⟩

theorem keepsWork_setEntry (s : State) (p : Nat) (e : MapEntry) : KeepsWork s (s.setEntry p e) :=
  ⟨calm_of_fields rfl rfl rfl rfl, rfl, rfl, rfl⟩

theorem keepsWork_boundTo (s : State) (h p : Nat) (st : Station) (c : Cred) : KeepsWork s (s.boundTo h p st c) :=
  (keepsWork_setEntry s p _).trans (keepsWork_setStation _ h _)

theorem keepsWork_countBinding (s : State) (renewal : Bool) : KeepsWork s (s.countBinding renewal) := by
  cases renewal with
  | true => exact ⟨Calm.refl s, rfl, rfl, rfl⟩
  | false => exact keepsWork_modAdmCtrs s (fun k => { k with bindings := bump k.bindings })

theorem noItems_modAdmCtrs (s : State) (f : AdmCtrs → AdmCtrs) : (s.modAdmCtrs f).noItems = s.noItems.modAdmCtrs f := rfl

theorem noItems_setStation (s : State) (h : Nat) (v : Station) : (s.setStation h v).noItems = s.noItems.setStation h v := rfl

theorem noItems_setEntry (s : State) (p : Nat) (e : MapEntry) : (s.setEntry p e).noItems = s.noItems.setEntry p e := rfl

/-! ### The answers -/

section
variable {h n slot w : Nat} {check : List Nat} (hs : s.Between)
  (ht : s.mem.transfer = some ⟨.fetch i.bucket check (.item i.serial), false⟩) (hi : s.adm.items = [i])
  (ho : s.adm.op = none) (hst : s.adm.sweep.stride = none) (hk : i.kind = .checkin h)
include hs ht hi ho hst hk

/-- A check-in whose record is no longer the station's is abandoned (R118, R121). -/
theorem exec_checkinGone (ha : (s.station h).map Station.addr ≠ some i.station) : exec (.credentialFetchCompletion []) s
    = .next ((s.readDone check).noItems.modAdmCtrs (fun k => { k with abandoned := bump k.abandoned })).ended := by
  have hkept := (keepsWork_readDone s check).trans (keepsWork_modAdmCtrs _ (fun k => { k with abandoned := bump k.abandoned }))
  have hgone : ((s.readDone check).station h).map Station.addr ≠ some i.station := by
    unfold State.station
    rw [readDone_stations]
    exact ha
  rw [exec_checkinFetched hs ht (by simp [hi]) hk, decideCheckin_gone hgone,
    finish_completeItem hs hkept.calm (hkept.items.trans hi) (hkept.op.trans ho) (hkept.stride.trans hst)]
  rfl

variable (hb : s.portBusy i.radio = true)
include hb

theorem exec_checkinAnswered {r : CheckinResult} (hdec : decideCheckin i h (s.readDone check)
      = completeItem i.serial (sendCheckinReply i.radio i.station r t)) (hkept : KeepsWork s t) :
    exec (.credentialFetchCompletion []) s = .next (sendCheckinReply i.radio i.station r t.noItems).ended := by
  have hadm := sendCheckinReply_adm i.radio i.station r t
  have hcalm := hkept.calm.trans (sendCheckinReply_calm (hkept.calm.defr.trans (quiet_deferring hs.1))
    ((hkept.calm.portBusy _).trans hb) i.station r)
  rw [exec_checkinFetched hs ht (by simp [hi]) hk, hdec, finish_completeItem hs hcalm, ← noItems_sendCheckinReply]
  · rfl
  · rw [hadm]
    exact hkept.items.trans hi
  · rw [hadm]
    exact hkept.op.trans ho
  · rw [hadm]
    exact hkept.stride.trans hst

/-- An accepted check-in binds the record that the takeover and the old position's release leave. -/
theorem exec_checkinBound {st : Station} (hread : (s.readDone check).station h = some st) (ha : st.addr = i.station)
    (hm : (s.readDone check).matchCode i.bucket i.code = .found w)
    (he : ((s.readDone check).entry (i.bucket * 4 + w)).state = .admitted)
    (hh : (s.readDone check).heldElsewhere h (i.bucket * 4 + w) = false)
    (hsub : st.sub = none)
    (ht' : dropOldBound h (i.bucket * 4 + w) (takeOver h (i.bucket * 4 + w) (s.readDone check)) = t)
    (hkept : KeepsWork s t) (hst' : t.station h = some st) :
    exec (.credentialFetchCompletion []) s = .next (sendCheckinReply i.radio i.station .accepted
      ((t.boundTo h (i.bucket * 4 + w) st ((s.readDone check).cred (i.bucket * 4 + w))).countBinding
        (decide ((s.readDone check).holder (i.bucket * 4 + w) = some h))).noItems).ended := by
  have hdec := decideCheckin_accepted (h := h) (by rw [hread, Option.map_some, ha]) hm he hh
  rw [bindStation_eq _ ht' hst' hsub] at hdec
  exact exec_checkinAnswered hs ht hi ho hst hk hb hdec
    ((hkept.trans (keepsWork_boundTo _ _ _ _ _)).trans (keepsWork_countBinding _ _))
end

/-! ### What stands in an accepted check-in's way, and what it moves -/

section
variable {h h' p : Nat} {st st' : Station}

theorem heldElsewhere_of_none (hn : s.holder p = none) : s.heldElsewhere h p = false := by
  unfold State.heldElsewhere
  rw [hn]

theorem heldElsewhere_self (hn : s.holder p = some h) : s.heldElsewhere h p = false := by
  unfold State.heldElsewhere
  rw [hn]
  simp

theorem heldElsewhere_other (hn : s.holder p = some h') (hne : h' ≠ h) (hs : s.station h' = some st') :
    s.heldElsewhere h p = decide (st'.state ≠ .unattached) := by
  unfold State.heldElsewhere
  simp [hn, hs, hne]

/-- The record that renews its binding names the position, so it leaves no other one. -/
theorem dropOldBound_holder (hn : s.holder p = some h) : dropOldBound h p s = s := by
  obtain ⟨st, x, hst, hx, hb, hw⟩ := holds_iff.1 (holder_eq_some.1 hn).2
  rw [dropOldBound_some hst hx]
  exact if_neg (fun hq => hq.1 (by omega))
end

end Sys2Proof.Machine
end

section
/-! What the fetch of a credential directive does (R95 to R97), and the completion of a load record's write-back. -/

-- One proof at a time: the threads of the default would not fit the memory the check allows.
set_option Elab.async false

open Sys2Proof

namespace Sys2Proof.Machine

variable {s t u : State} {e : MgmtEntry} {o : CredOp}

/-! ### The end of a directive's last operation -/

/-- The engine without a directive operation. -/
def State.freed (s : State) : State := { s with adm := { s.adm with op := none } }

/-- The head directive, here the only one, leaves the queue with its reply (R170). -/
def State.headReplied (s : State) (e : MgmtEntry) (a : Answer) : State :=
  ({ s with mgmt := { s.mgmt with queue := [], started := false } } : State).replied e.src e.dir.kind e.tag a.status a.body

theorem reply_only (hq : s.mgmt.queue = [e]) (a : Answer) : reply a s = s.headReplied e a := by
  unfold reply
  rw [hq]
  rfl

/-- Nothing is left to do once the only directive of an engine without other work is answered. -/
theorem finish_finishOp (hs : s.Between) (h : KeepsWork s t) (hq : s.mgmt.queue = [e]) (hi : s.adm.items = [])
    (hst : s.adm.sweep.stride = none) (a : Answer) : finish (finishOp a t) = (t.freed.headReplied e a).ended := by
  have hanswered : finishOp a t = (t.freed.headReplied e a).lookForSlot := by
    have hq' : (endOp t).mgmt.queue = [e] := (congrArg Mgmt.queue h.calm.mgmt).trans hq
    unfold finishOp
    rw [reply_only hq']
    rfl
  have hcalm : Calm { s with mgmt := (t.freed.headReplied e a).mgmt } (t.freed.headReplied e a) :=
    ⟨h.calm.room, h.calm.look, h.calm.defr, rfl, h.calm.busy, h.calm.cfgs, h.calm.ask⟩
  rw [hanswered]
  exact finish_look (s := { s with mgmt := (t.freed.headReplied e a).mgmt }) hs.1 hcalm (.inl rfl) (h.items.trans hi) rfl
    (h.stride.trans hst)

/-- The operation waits for its write-back with the job, and the write-back is sent (R94). -/
def State.opWriting (s : State) (o : CredOp) (p : Nat) (c : Cred) (job : CredJob) : State :=
  { s with
    adm := { s.adm with op := some { o with job := job, stage := .writing } }
    mem := s.mem.send (.writeBack p c .op) }

theorem writeOp_eq (ho : s.adm.op = some o) (p : Nat) (c : Cred) (job : CredJob) :
    writeOp p c job s = s.freed.opWriting o p c job := by
  have hop : s.adm.op.map (fun o => { o with job := job, stage := .writing })
      = some { o with job := job, stage := .writing } := by
    rw [ho]
    rfl
  unfold writeOp State.modAdm
  simp only [hop]
  rfl

theorem finish_writeOp (hs : s.Between) (h : KeepsWork s t) (ho : s.adm.op = some o) (p : Nat) (c : Cred) (job : CredJob) :
    finish (writeOp p c job t) = (t.freed.opWriting o p c job).ended := by
  rw [writeOp_eq (h.op.trans ho)]
  exact finish_calm hs.1 (h.calm.trans (calm_of_fields rfl rfl rfl rfl)) hs.2

/-! ### The decisions -/

section
variable {b w : Nat} {code : Word64}

theorem state_of_found (h : s.matchCode b code = .found w) : (s.entry (b * 4 + w)).state ≠ .free := by
  unfold State.matchCode at h
  dsimp only at h
  split at h
  · next v hv =>
    obtain rfl : v = w := Match.found.inj h
    have hfound := List.find?_some hv
    simp only [Bool.and_eq_true, decide_eq_true_eq] at hfound
    exact hfound.1.1
  · split at h <;> exact absurd h (by simp)

theorem freeWay_eq_none (h : ∀ w, w < 4 → (s.entry (b * 4 + w)).state ≠ .free) : s.freeWay b = none := by
  refine List.find?_eq_none.2 (fun w hw => ?_)
  have : w < 4 := by
    simp only [List.mem_cons, List.not_mem_nil, or_false] at hw
    omega
  exact decide_eq_true_iff.not.2 (h w this)

theorem freeWay_eq_some (hw : w < 4) (he : (s.entry (b * 4 + w)).state = .free)
    (hlow : ∀ v, v < w → (s.entry (b * 4 + v)).state ≠ .free) : s.freeWay b = some w := by
  have hcut : [0, 1, 2, 3] = List.range w ++ w :: (List.range (3 - w)).map (fun k => w + 1 + k) := by
    clear he hlow
    revert w
    decide
  exact List.find?_eq_some_iff_append.2 ⟨decide_eq_true he, _, _, hcut, fun v hv => by
    rw [decide_eq_false (p := (s.entry (posOf b v)).state = .free) (hlow v (List.mem_range.1 hv))]
    rfl⟩

theorem decideVoid_fault (hm : s.matchCode b code = .fault) : decideVoid b code s = finishOp ⟨.done, [4, 0, 0, 0, 0]⟩ s := by
  unfold decideVoid
  rw [hm]
  rfl

theorem decideVoid_unknown (hm : s.matchCode b code = .unknown) :
    decideVoid b code s = finishOp ⟨.done, [5, 0, 0, 0, 0]⟩ s := by
  unfold decideVoid
  rw [hm]
  rfl

/-- The answer of a CRED_VOID of a credential found (R97). -/
def voidAnswer (status : Byte) (p : Nat) : Answer := ⟨.done, status :: placeBytes (some p)⟩

/-- The voids counter counts an entry made VOID (R97). -/
def State.countVoid (s : State) : State := s.modAdmCtrs (fun k => { k with voids := bump k.voids })

variable (hm : s.matchCode b code = .found w)
include hm

theorem decideVoid_already (he : (s.entry (b * 4 + w)).state = .void) :
    decideVoid b code s = finishOp (voidAnswer 3 (b * 4 + w)) s := by
  unfold decideVoid
  rw [hm]
  simp only [posOf, he]
  rfl

theorem decideVoid_outside (he : (s.entry (b * 4 + w)).state = .issued ∨ (s.entry (b * 4 + w)).state = .exited) :
    decideVoid b code s = finishOp (voidAnswer 1 (b * 4 + w))
      (s.countVoid.setEntry (b * 4 + w) { s.entry (b * 4 + w) with state := .void }) := by
  have hout : (s.countVoid.entry (b * 4 + w)).state ≠ .admitted := fun hc =>
    he.elim (fun h => absurd (h.symm.trans hc) (by simp)) (fun h => absurd (h.symm.trans hc) (by simp))
  have hdec : decideVoid b code s = finishOp (voidAnswer 1 (b * 4 + w)) (voidEntry (b * 4 + w) s.countVoid) := by
    unfold decideVoid
    rw [hm]
    rcases he with he | he <;> simp only [posOf, he] <;> rfl
  rw [hdec, voidEntry_outside hout]
  rfl

theorem decideVoid_inside (he : (s.entry (b * 4 + w)).state = .admitted) (hb : (s.entry (b * 4 + w)).bound = none) :
    decideVoid b code s = finishOp (voidAnswer 2 (b * 4 + w)) (s.countVoid.lowered (b * 4 + w) .void) := by
  have hdec : decideVoid b code s = finishOp (voidAnswer 2 (b * 4 + w)) (voidEntry (b * 4 + w) s.countVoid) := by
    unfold decideVoid
    rw [hm]
    simp only [posOf, he]
    rfl
  rw [hdec, voidEntry_inside (s := s.countVoid) he, leaveAdmitted_unbound (s := s.countVoid) (.inl (by simp)) hb,
    left_of_unbound (s := s.countVoid) hb]
end

section
variable {b w : Nat} {r : LoadRec} {rest : List LoadRec} {past : List (LoadStatus × Option Nat)}

/-- The status of a load record is counted (R95). -/
def State.countLoad (s : State) (st : LoadStatus) : State := s.modAdmCtrs (fun k => k.loadStatus st)

theorem decideLoad_fault (hm : s.matchCode b r.code = .fault) :
    decideLoad b r rest past s = nextLoad rest (past ++ [(.fault, none)]) (s.countLoad .fault) := by
  unfold decideLoad
  rw [hm]
  rfl

theorem decideLoad_full (hm : s.matchCode b r.code = .unknown) (hf : s.freeWay b = none) :
    decideLoad b r rest past s = nextLoad rest (past ++ [(.bucketFull, none)]) (s.countLoad .bucketFull) := by
  unfold decideLoad
  rw [hm]
  simp only [hf]
  rfl

theorem decideLoad_fresh (hm : s.matchCode b r.code = .unknown) (hf : s.freeWay b = some w) : decideLoad b r rest past s
    = writeOp (b * 4 + w) r.fresh (.load r rest (past ++ [(.loaded, some (b * 4 + w))]))
      ((s.countLoad .loaded).setEntry (b * 4 + w) { state := .issued, home := r.home.toNat }) := by
  unfold decideLoad
  rw [hm]
  simp only [hf]
  rfl

theorem updateBinding_unheld {p : Nat} (h : s.holder p = none) (c : Cred) : updateBinding p c s = s := by
  unfold updateBinding
  rw [h]

theorem moveHome_eq (p home : Nat) (s : State) : moveHome p home s
    = if (s.entry p).state = .admitted then raiseOccupancy home (lowerOccupancy (s.entry p).home
        (s.setEntry p { s.entry p with home := home }))
      else s.setEntry p { s.entry p with home := home } := rfl

theorem holder_moveHome {p home : Nat} (he : (s.entry p).state ≠ .free) (hb : (s.entry p).bound = none) :
    (moveHome p home s).holder p = none := by
  have hentry : (moveHome p home s).entry p = { s.entry p with home := home } := by
    have hset := entry_setEntry (s := s) (p := p) (e := { s.entry p with home := home }) (.inl (entry_ne_of_state he))
    rw [moveHome_eq]
    split <;> exact hset
  exact holder_unbound (by rw [hentry]; exact hb)

theorem decideLoad_found (hm : s.matchCode b r.code = .found w) (hb : (s.entry (b * 4 + w)).bound = none) :
    decideLoad b r rest past s = writeOp (b * 4 + w) (r.update (s.cred (b * 4 + w)))
      (.load r rest (past ++ [(.updated, some (b * 4 + w))])) (moveHome (b * 4 + w) r.home.toNat (s.countLoad .updated)) := by
  have hmove := holder_moveHome (s := s.countLoad .updated) (home := r.home.toNat) (state_of_found hm) hb
  have hdec : decideLoad b r rest past s = writeOp (b * 4 + w) (r.update (s.cred (b * 4 + w)))
      (.load r rest (past ++ [(.updated, some (b * 4 + w))]))
      (updateBinding (b * 4 + w) (r.update (s.cred (b * 4 + w))) (moveHome (b * 4 + w) r.home.toNat (s.countLoad .updated))) := by
    unfold decideLoad
    rw [hm]
    rfl
  rw [hdec, updateBinding_unheld hmove]

theorem keepsWork_refl (s : State) : KeepsWork s s := ⟨Calm.refl s, rfl, rfl, rfl⟩

theorem keepsWork_lowered (s : State) (p : Nat) (new : EntryState) : KeepsWork s (s.lowered p new) :=
  ⟨calm_of_fields rfl rfl rfl rfl, rfl, rfl, rfl⟩

theorem keepsWork_moveHome (s : State) (p home : Nat) : KeepsWork s (moveHome p home s) := by
  rw [moveHome_eq]
  split <;> exact ⟨calm_of_fields rfl rfl rfl rfl, rfl, rfl, rfl⟩
end

/-! ### Its completions -/

/-- What the directive operation does once its fetch's checks are applied (R95 to R97). -/
def opDecided (o : CredOp) (s : State) : State :=
  match o.job with
  | .load r rest done => decideLoad o.bucket r rest done s
  | .readCode code => finishOp (readCodeAnswer o.bucket code s) s
  | .readPos way => finishOp (readPosAnswer (posOf o.bucket way) s) s
  | .void code => decideVoid o.bucket code s
  | .erase way => eraseWay (posOf o.bucket way) s

theorem opFetched_checked (hd : s.ev.deferring = false) (ho : s.adm.op = some o) (check : List Nat) :
    opFetched check s = opDecided o (s.checked check) := by
  unfold opFetched
  rw [ho, ← applyChecks_checked hd]
  rfl

section
variable {b : Nat} {check : List Nat} (ht : s.mem.transfer = some ⟨.fetch b check .op, false⟩) (hs : s.Between)
  (ho : s.adm.op = some o)
include ht hs ho

theorem exec_opFetched : exec (.credentialFetchCompletion []) s = .next (finish (opDecided o (s.readDone check))) := by
  have hdec := opFetched_checked (s := { s with mem := ({ s.mem with transfer := none } : RecMem).grant })
    (quiet_deferring hs.1) ho check
  exact (exec_fetchCompletion ht).trans (congrArg (fun u => Host.Outcome.next (finish u)) hdec)

theorem exec_opAnswered {a : Answer} (hq : s.mgmt.queue = [e]) (hi : s.adm.items = []) (hst : s.adm.sweep.stride = none)
    (hdec : opDecided o (s.readDone check) = finishOp a t) (hkept : KeepsWork (s.readDone check) t) :
    exec (.credentialFetchCompletion []) s = .next (t.freed.headReplied e a).ended := by
  rw [exec_opFetched ht hs ho, hdec, finish_finishOp hs ((keepsWork_readDone s check).trans hkept) hq hi hst]

theorem exec_opWrites {p : Nat} {c : Cred} {job : CredJob} (hdec : opDecided o (s.readDone check) = writeOp p c job t)
    (hkept : KeepsWork (s.readDone check) t) :
    exec (.credentialFetchCompletion []) s = .next (t.freed.opWriting o p c job).ended := by
  rw [exec_opFetched ht hs ho, hdec, finish_writeOp hs ((keepsWork_readDone s check).trans hkept) ho]
end

section
variable {r : LoadRec} {d : LoadStatus × Option Nat} (hs : s.Between) (hq : s.mgmt.queue = [e])
  (hi : s.adm.items = []) (hst : s.adm.sweep.stride = none) (ho : s.adm.op = some o) (hj : o.job = .load r [] [d])
include hs hq hi hst ho hj

/-- The write-back of the last load record ends the directive. -/
theorem finish_opWritten (m : RecMem) : finish (opWritten { s with mem := m })
    = (({ s.freed with mem := m } : State).headReplied e (loadReply [d])).ended := by
  obtain ⟨serial, bucket, job, stage⟩ := o
  subst hj
  have hwritten : opWritten { s with mem := m } = finishOp (loadReply [d]) { s with mem := m } := by
    unfold opWritten
    rw [show ({ s with mem := m } : State).adm.op = _ from ho]
    rfl
  have hkept : KeepsWork s { s with mem := m } := ⟨calm_of_fields rfl rfl rfl rfl, rfl, rfl, rfl⟩
  rw [hwritten]
  exact finish_finishOp hs hkept hq hi hst _

theorem exec_loadWritten {p : Nat} {c : Cred} (ht : s.mem.transfer = some ⟨.writeBack p c .op, false⟩) :
    exec .credentialWriteBackCompletion s = .next (({ s.freed with
      mem := { ({ s.mem with transfer := none } : RecMem).grant with cred := Memory.writeBytes s.mem.cred (p * 64) c.bytes } }
        : State).headReplied e (loadReply [d])).ended :=
  (exec_writeBackCompletion ht).trans (congrArg Host.Outcome.next (finish_opWritten hs hq hi hst ho hj _))
end

end Sys2Proof.Machine

open Sys2Proof.Machine

/-- Settles O57: a check-in's decision is a case of `decideCheckin` on the state its fetch's checks leave, and an accepted one
binds by `bindStation_eq` what the takeover and the old position's release leave; a directive's fetch is a case of `opDecided`. -/
theorem checkinsAndCredentialDirectivesDecide : Obligations.CheckinsAndCredentialDirectivesDecide := by
  unfold Obligations.CheckinsAndCredentialDirectivesDecide
  refine ⟨fun s b h slot check i hs hb hi ho hst hk hib hstage ht => ?_, fun s p h st he hn hs hsub => ?_,
    fun s e o check hs hq hi hst ho => ?_⟩
  · subst hib
    intro read base run answer
    have hrun : run = exec (.credentialFetchCompletion []) s := rfl
    have hreadeq : read = s.readDone check := rfl
    have hbase : base = (s.readDone check).noItems := rfl
    have hanswer (r : CheckinResult) (x : State) :
        answer r.code (x.modAdmCtrs (fun k => k.checkinResult r)) = .next (sendCheckinReply i.radio i.station r x).ended := rfl
    clear_value answer run base
    clear_value read
    subst hrun hbase hreadeq
    refine ⟨exec_checkinGone hs ht hi ho hst hk, fun st hst' ha => ?_⟩
    have hread : (s.readDone check).station h = some st := by
      unfold State.station
      rw [readDone_stations]
      exact hst'
    have haddr : ((s.readDone check).station h).map Station.addr = some i.station := by rw [hread, Option.map_some, ha]
    have answered {r : CheckinResult} (hdec : decideCheckin i h (s.readDone check)
          = completeItem i.serial (sendCheckinReply i.radio i.station r (s.readDone check))) :
        exec (.credentialFetchCompletion []) s
          = answer r.code ((s.readDone check).noItems.modAdmCtrs (fun k => k.checkinResult r)) :=
      (exec_checkinAnswered hs ht hi ho hst hk hb hdec (keepsWork_readDone s check)).trans (hanswer r _).symm
    refine ⟨fun hm => answered (decideCheckin_fault haddr hm), fun hm => answered (decideCheckin_unknown haddr hm),
      fun w hm => ?_⟩
    intro p e c
    refine ⟨fun he => answered (decideCheckin_notInside haddr hm he), fun h' st' he hn hne hst'' hun => ?_, fun he hsub => ?_⟩
    · refine answered (decideCheckin_elsewhere haddr hm he ?_)
      rw [heldElsewhere_other hn hne (by unfold State.station; rw [readDone_stations]; exact hst'')]
      exact decide_eq_true hun
    · intro accepted made
      have bound {t : State} {x : Bool} (hh : (s.readDone check).heldElsewhere h p = false)
          (ht' : dropOldBound h p (takeOver h p (s.readDone check)) = t) (hkept : KeepsWork s t) (hst' : t.station h = some st)
          (hx : decide ((s.readDone check).holder p = some h) = x) (hte : t.entry p = e)
          (htg : ∀ v, t.standingOf v = (s.readDone check).standingOf v) : exec (.credentialFetchCompletion []) s
          = accepted (if x then id else made) t.noItems := by
        rw [exec_checkinBound hs ht hi ho hst hk hb hread ha hm he hh hsub ht' hkept hst', ← hanswer .accepted, hx]
        unfold State.boundTo
        rw [hte, htg]
        cases x <;> rfl
      have hkept := keepsWork_readDone s check
      refine ⟨fun hn hbn => ?_, fun hn => ?_, fun x hn hx hq => ?_, fun h' st' hn hne hbn hst'' hun hsub' => ?_⟩
      · refine bound (x := false) (heldElsewhere_of_none hn) ?_ hkept hread (by simp [hn]) rfl (fun _ => rfl)
        rw [takeOver_none hn, dropOldBound_none hread hbn]
      · refine bound (x := true) (heldElsewhere_self hn) ?_ hkept hread (by simp [hn]) rfl (fun _ => rfl)
        rw [takeOver_self hn, dropOldBound_holder hn]
      · intro q
        by_cases hold : ((s.readDone check).entry q).bound = some h
        · rw [if_pos hold, ← noItems_setEntry]
          refine bound (x := false) (heldElsewhere_of_none hn) ?_ (hkept.trans (keepsWork_setEntry _ q _)) hread (by simp [hn])
            (entry_setEntry_ne (Ne.symm hq) _) (fun _ => rfl)
          rw [takeOver_none hn, dropOldBound_some hread hx, if_pos ⟨hq, hold⟩]
        · rw [if_neg hold]
          refine bound (x := false) (heldElsewhere_of_none hn) ?_ hkept hread (by simp [hn]) rfl (fun _ => rfl)
          rw [takeOver_none hn, dropOldBound_some hread hx, if_neg (fun hc => hold hc.2)]
      · have hother : (s.readDone check).station h' = some st' := by
          unfold State.station
          rw [readDone_stations]
          exact hst''
        have hstill : (((s.readDone check).setStation h' st'.unbound).modAdmCtrs
            (fun k => { k with unbinds := bump k.unbinds, takeovers := bump k.takeovers })).station h = some st := by
          rw [← hread]
          exact (station_setStation _ _ _ _).trans (if_neg (Ne.symm hne))
        have hheld : (s.readDone check).heldElsewhere h p = false := by
          rw [heldElsewhere_other hn hne hother, hun]
          simp
        have htaken := takeOver_other hn hne hother hsub'
        have hmade := bound (x := false) hheld (by rw [htaken, dropOldBound_none hstill hbn])
          ((hkept.trans (keepsWork_setStation _ h' st'.unbound)).trans (keepsWork_modAdmCtrs _ _)) hstill (by simp [hn, hne]) rfl
          (fun _ => rfl)
        exact hmade
  · intro e left
    obtain ⟨hb, hh⟩ := holder_eq_some.1 hn
    have leaves (new : EntryState) (hnew : new ≠ .free) : leaveAdmitted p new s = left new :=
      leaveAdmitted_releases (.inl hnew) hb hh hs hsub
    refine ⟨fun g => ?_, (voidEntry_inside he).trans (leaves .void (by simp))⟩
    rw [evaluateExit_admitted he]
    exact leaves .exited (by simp)
  · intro b done place
    have hdone (body : List Byte) (t : State) : done body t = .next (t.headReplied e ⟨.done, body⟩).ended := rfl
    clear_value done
    refine ⟨fun ht => ?_, fun r p c st hj ht => ?_⟩
    · intro read freed run
      have hread : read = s.readDone check := rfl
      have hfreed : freed = (s.readDone check).freed := rfl
      have hrun : run = exec (.credentialFetchCompletion []) s := rfl
      clear_value freed run
      clear_value read
      subst hread hfreed hrun
      obtain ⟨serial, b', job, stage⟩ := o
      have answered {body : List Byte} {t : State}
          (hdec : opDecided ⟨serial, b', job, stage⟩ (s.readDone check) = finishOp ⟨.done, body⟩ t)
          (hkept : KeepsWork (s.readDone check) t) : exec (.credentialFetchCompletion []) s = done body t.freed :=
        (exec_opAnswered ht hs ho hq hi hst hdec hkept).trans (hdone _ _).symm
      have hsame := keepsWork_refl (s.readDone check)
      refine ⟨fun code hj => ?_, fun w hj => ?_, fun code hj => ?_, fun r rest past hj => ?_⟩
      · obtain rfl : job = _ := hj
        have read {a : Answer} (ha : readCodeAnswer b code (s.readDone check) = a) (hst : a.status = .done) :
            exec (.credentialFetchCompletion []) s = done a.body (s.readDone check).freed := by
          obtain ⟨st, body⟩ := a
          obtain rfl : st = .done := hst
          exact answered (congrArg (fun a => finishOp a (s.readDone check)) ha) hsame
        refine ⟨fun w hm => ?_, fun hm => ?_, fun hm => ?_⟩
        · exact read (by unfold readCodeAnswer; rw [hm]) rfl
        · exact read (by unfold readCodeAnswer; rw [hm]) rfl
        · exact read (by unfold readCodeAnswer; rw [hm]) rfl
      · obtain rfl : job = _ := hj
        intro p
        refine answered (congrArg (fun a => finishOp a (s.readDone check)) ?_) hsame
        show readPosAnswer p (s.readDone check) = _
        unfold readPosAnswer
        by_cases hfree : ((s.readDone check).entry p).state = .free ∨ ((s.readDone check).entry p).faulty = true
        · rw [if_pos hfree, if_pos hfree]
        · rw [if_neg hfree, if_neg hfree, List.append_assoc]
          rfl
      · obtain rfl : job = _ := hj
        intro voids
        refine ⟨fun hm => answered (decideVoid_fault hm) hsame, fun hm => answered (decideVoid_unknown hm) hsame,
          fun w hm => ?_⟩
        intro p
        exact ⟨fun he => answered (decideVoid_already hm he) hsame,
          fun he => answered (decideVoid_outside hm he) ((keepsWork_modAdmCtrs _ _).trans (keepsWork_setEntry _ _ _)),
          fun he hb => answered (decideVoid_inside hm he hb) ((keepsWork_modAdmCtrs _ _).trans (keepsWork_lowered _ _ _))⟩
      · obtain rfl : job = _ := hj
        intro writes
        have written {p : Nat} {c : Cred} {st : LoadStatus} {t : State}
            (hdec : decideLoad b r rest past (s.readDone check) = writeOp p c (.load r rest (past ++ [(st, some p)])) t)
            (hkept : KeepsWork (s.readDone check) t) : exec (.credentialFetchCompletion []) s = writes p c st t.freed :=
          exec_opWrites ht hs ho hdec hkept
        refine ⟨fun hrest hpast => ?_, fun w hm hw he hlow => ?_, fun w hm hb => ?_⟩
        · subst hrest hpast
          exact ⟨fun hm => answered (decideLoad_fault hm) (keepsWork_modAdmCtrs _ _),
            fun hm hfull => answered (decideLoad_full hm (freeWay_eq_none hfull)) (keepsWork_modAdmCtrs _ _)⟩
        · exact written (decideLoad_fresh hm (freeWay_eq_some hw he hlow))
            ((keepsWork_modAdmCtrs _ _).trans (keepsWork_setEntry _ _ _))
        · intro p x
          have hwrites := written (decideLoad_found hm hb) ((keepsWork_modAdmCtrs _ _).trans (keepsWork_moveHome _ _ _))
          rw [moveHome_eq] at hwrites
          by_cases he : ((s.readDone check).entry p).state = .admitted
          · rw [if_pos he]
            exact hwrites.trans (by rw [if_pos (by exact he)]; rfl)
          · rw [if_neg he]
            exact hwrites.trans (by rw [if_neg (by exact he)]; rfl)
    · intro freed
      rw [exec_loadWritten hs hq hi hst ho hj ht, hdone]
      have hbody : loadReply [(st, some p)] = ⟨.done, be 1 1 ++ be 1 st.code ++ place p⟩ := by
        simp [loadReply, placeBytes, place]
      rw [hbody]
      rfl
end

section
/-! The void sweep's way by way work and what follows a stride (R109, R110, R112). -/

-- One proof at a time: the threads of the default would not fit the memory the check allows.
set_option Elab.async false

open Sys2Proof

namespace Sys2Proof.Machine

variable {s t u : State} {p : Nat}

/-! ### One way of a stride (R109) -/

/-- A selector picks a way whose entry is not faulty. -/
theorem selector_matches_iff {sel : Option Selector} {e : MapEntry} {tier : Tier} :
    Selector.matches sel e tier = true ↔ (match sel with
    | some (.zone z) => e.home = z
    | some (.tier t) => tier = t
    | some .all => True
    | none => False) := by
  unfold Selector.matches
  rcases sel with _ | (z | t | _) <;> simp

theorem swept_iff {x : EntryState} : x.swept = true ↔ x ≠ .free ∧ x ≠ .void := by cases x <;> simp [EntryState.swept]

/-- A way voided is counted (R109). -/
def State.countVoided (s : State) (inside : Nat) : State :=
  s.modSweep (fun w => { w with voided := w.voided + 1, voidedInside := w.voidedInside + inside })

theorem sweepWay_passed (h : (s.entry p).state = .free ∨ (s.entry p).state = .void) : sweepWay p s = s := by
  have hnot : (s.entry p).state.swept = false := by rcases h with h | h <;> rw [h] <;> rfl
  exact if_pos (by simp [hnot])

theorem sweepWay_faulty (h : (s.entry p).state.swept = true) (hf : (s.entry p).faulty = true) :
    sweepWay p s = s.modSweep (fun w => { w with faultyPassed := w.faultyPassed + 1 }) :=
  (if_neg (by simp [h])).trans (if_pos hf)

theorem sweepWay_left (hf : (s.entry p).faulty = false)
    (hp : Selector.matches s.adm.sweep.selector (s.entry p) (s.cred p).tier = false) : sweepWay p s = s := by
  unfold sweepWay
  simp only [hf, hp, Bool.false_eq_true, if_false, ite_self]

theorem sweepWay_picked (h : (s.entry p).state.swept = true) (hf : (s.entry p).faulty = false)
    (hp : Selector.matches s.adm.sweep.selector (s.entry p) (s.cred p).tier = true) :
    sweepWay p s = (voidEntry p s).countVoided (if (s.entry p).state = .admitted then 1 else 0) := by
  refine (if_neg (by simp [h])).trans ((if_neg (by simp [hf])).trans ((if_pos hp).trans ?_))
  unfold State.countVoided
  split <;> rfl

/-! ### What sweeping leaves unchanged -/

/-- What sweeping ways leaves unchanged, where no subscription is held. -/
structure Swept (s t : State) : Prop where
  only : ∃ l m o k v i f, t = { s with
    stations := l
    adm := { s.adm with
      map := m, occupancy := o, ctrs := k
      sweep := { s.adm.sweep with voided := v, voidedInside := i, faultyPassed := f } } }
  subs : (∀ e ∈ s.stations, e.2.sub = none) → ∀ e ∈ t.stations, e.2.sub = none

theorem Swept.refl (s : State) : Swept s s := ⟨⟨_, _, _, _, _, _, _, rfl⟩, id⟩

theorem Swept.trans (h : Swept s t) (k : Swept t u) : Swept s u := by
  obtain ⟨l, m, o, c, v, i, f, ht⟩ := h.only
  obtain ⟨l', m', o', c', v', i', f', hu⟩ := k.only
  refine ⟨⟨l', m', o', c', v', i', f', ?_⟩, fun hs => k.subs (h.subs hs)⟩
  rw [hu, ht]

theorem leaveAdmitted_swept (hsub : ∀ e ∈ s.stations, e.2.sub = none) : Swept s (leaveAdmitted p .void s) := by
  have hnew : EntryState.void ≠ .free ∨ s.adm.map.sorted = true := .inl (by simp)
  have hleft (f : AdmCtrs → AdmCtrs) : Swept s ((s.left p .void).modAdmCtrs f) := ⟨⟨_, _, _, _, _, _, _, rfl⟩, id⟩
  cases hb : (s.entry p).bound with
  | none =>
    rw [leaveAdmitted_unbound hnew hb]
    exact ⟨⟨_, _, _, _, _, _, _, rfl⟩, id⟩
  | some k =>
    cases hh : s.holds k (p / 4) (p % 4) with
    | false =>
      rw [leaveAdmitted_noEffect hnew hb hh]
      exact hleft _
    | true =>
      obtain ⟨st, x, hst, hx, _⟩ := holds_iff.1 hh
      have hnone : st.sub = none := hsub _ (Table.mem_of_find hst)
      rw [leaveAdmitted_releases hnew hb hh hst hnone]
      refine ⟨⟨_, _, _, _, _, _, _, rfl⟩, fun _ e he => ?_⟩
      rcases Table.mem_put he with rfl | he
      · exact (rederive_sub _).trans hnone
      · exact hsub e he

theorem voidEntry_swept (hsub : ∀ e ∈ s.stations, e.2.sub = none) : Swept s (voidEntry p s) := by
  by_cases he : (s.entry p).state = .admitted
  · rw [voidEntry_inside he]
    exact leaveAdmitted_swept hsub
  · rw [voidEntry_outside he]
    exact ⟨⟨_, _, _, _, _, _, _, rfl⟩, id⟩

theorem sweepWay_swept (hsub : ∀ e ∈ s.stations, e.2.sub = none) (p : Nat) : Swept s (sweepWay p s) := by
  by_cases hp : (s.entry p).state = .free ∨ (s.entry p).state = .void
  · rw [sweepWay_passed hp]
    exact .refl s
  have hsw : (s.entry p).state.swept = true := swept_iff.2 (not_or.1 hp)
  cases hf : (s.entry p).faulty with
  | true =>
    rw [sweepWay_faulty hsw hf]
    exact ⟨⟨_, _, _, _, _, _, _, rfl⟩, id⟩
  | false =>
    cases hm : Selector.matches s.adm.sweep.selector (s.entry p) (s.cred p).tier with
    | false =>
      rw [sweepWay_left hf hm]
      exact .refl s
    | true =>
      rw [sweepWay_picked hsw hf hm]
      exact (voidEntry_swept hsub).trans ⟨⟨_, _, _, _, _, _, _, rfl⟩, id⟩

theorem foldl_sweepWay_swept (hsub : ∀ e ∈ s.stations, e.2.sub = none) (l : List Nat) :
    Swept s (l.foldl (fun s p => sweepWay p s) s) := by
  induction l generalizing s with
  | nil => exact .refl s
  | cons p l ih =>
    have hway := sweepWay_swept hsub p
    exact hway.trans (ih (hway.subs hsub))

end Sys2Proof.Machine
end

section
/-! What follows a stride (R109, R110, R112). -/

-- One proof at a time: the threads of the default would not fit the memory the check allows.
set_option Elab.async false

open Sys2Proof

namespace Sys2Proof.Machine

variable {s t u : State} {p : Nat}

/-! ### A stride's completion -/

/-- An event whose operation looks for what can go on ends with what goes on (R92, R108). -/
theorem finish_goOn (ht : t.Quiet) (hgo : goOn t = u) (hu : u.ev = t.ev) (hset : u.Settled) : finish t.lookForSlot = u.ended := by
  have hquiet : u.Quiet := by
    unfold State.Quiet at *
    rw [hu]
    exact ht
  have hflush : flush t.lookForSlot = u := by
    have hroom : t.ev.roomFreed = false := quiet_room ht
    unfold flush
    rw [announce_none (s := t.lookForSlot) hroom, settle_lookForSlot (quiet_look ht), hgo,
      runArbiters_none (quiet_ask hquiet)]
  unfold finish
  rw [hflush, runQueue_settled hset]
  rfl

/-- At an engine with no stride, items or operation, nothing goes on. -/
theorem goOn_nothing (hst : s.adm.sweep.stride = none) (hi : s.adm.items = []) (ho : s.adm.op = none) : goOn s = s := by
  refine goOn_none (sendStride_none (by simp [hst])) (fun i h => ?_) (fun o h => ?_)
  · exact absurd (hi ▸ h) List.not_mem_nil
  · exact absurd (ho.symm.trans h) (by simp)

theorem notice_lookForSlot (k : NoticeKind) (b : List Byte) (s : State) :
    notice k b s.lookForSlot = (notice k b s).lookForSlot := by
  unfold notice
  by_cases he : (s.noticeEntry (s.noticeEntryOf k)).enable = false
  · rw [if_pos he, if_pos (by exact he)]
    rfl
  · by_cases hm : (s.noticeEntry (s.noticeEntryOf k)).mask = true
    · rw [if_neg he, if_neg (by exact he), if_pos hm, if_pos (by exact hm)]
      rfl
    · rw [if_neg he, if_neg (by exact he), if_neg hm, if_neg (by exact hm)]
      rfl

theorem sweepDone_lookForSlot (s : State) : sweepDone s.lookForSlot = (sweepDone s).lookForSlot := notice_lookForSlot _ _ s

/-- A controller with no other request grants nothing. -/
theorem grant_empty {m : RecMem} (hf : m.fetchQ = []) (hw : m.writeQ = []) (hc : m.chunkQ = []) (hs : m.strideQ = [])
    (hi : m.ingestQ = []) : m.grant = m := by
  have hnone : m.choice = none := by simp [RecMem.choice, hf, hw, hc, hs, hi]
  unfold RecMem.grant
  rw [hnone]
  cases m.transfer <;> rfl

/-- The sweep after the ways of a stride: no stride, the pointer 64 buckets on, the stride counted (R109). -/
def State.strideSwept (s : State) : State :=
  (s.modSweep (fun w => { w with stride := none, pointer := w.pointer + 64 })).modAdmCtrs
    (fun k => { k with strides := bump k.strides })

/-- A sweep that has a suspend waiting is suspended (R112). -/
def State.suspended (s : State) : State := s.modSweep (fun w => { w with state := .suspended, suspendRequested := false })

/-- A sweep past the last bucket is IDLE, with its end counted (R110). -/
def State.sweepOver (s : State) : State :=
  (s.modSweep (fun w => { w with state := .idle, endTime := some s.venueTime, suspendRequested := false })).modAdmCtrs
    (fun k => { k with sweepsCompleted := bump k.sweepsCompleted })

theorem afterStride_next (hp : s.adm.sweep.pointer ≠ 16384) (hr : s.adm.sweep.suspendRequested = false) :
    afterStride s = (s.modSweep (fun w => { w with stride := some .claimed })).lookForSlot :=
  (if_neg hp).trans (if_neg (by simp [hr]))

theorem afterStride_suspends {e : MgmtEntry} (hp : s.adm.sweep.pointer ≠ 16384) (hr : s.adm.sweep.suspendRequested = true)
    (hq : s.mgmt.queue = [e]) : afterStride s = s.suspended.headReplied e ⟨.done, s.suspended.adm.sweep.suspendBody⟩ :=
  (if_neg hp).trans ((if_pos hr).trans (reply_only (s := s.suspended) hq _))

theorem afterStride_ends (hp : s.adm.sweep.pointer = 16384) (hr : s.adm.sweep.suspendRequested = false) :
    afterStride s = sweepDone s.sweepOver := (if_pos hp).trans (if_neg (by simp [hr]))

theorem afterStride_endsSuspended {e : MgmtEntry} (hp : s.adm.sweep.pointer = 16384) (hr : s.adm.sweep.suspendRequested = true)
    (hq : s.mgmt.queue = [e]) : afterStride s
      = (sweepDone s.sweepOver).headReplied e ⟨.state, s.sweepOver.adm.sweep.suspendBody⟩ := by
  obtain ⟨tx, es, hn⟩ : ∃ tx es, sweepDone s.sweepOver = { s.sweepOver with
    uplink := { s.sweepOver.uplink with tx := tx }, err := { s.sweepOver.err with entries := es } } := notice_only _ _ _
  have hq' : (sweepDone s.sweepOver).mgmt.queue = [e] := by
    rw [hn]
    exact hq
  have hbody : (sweepDone s.sweepOver).adm.sweep.suspendBody = s.sweepOver.adm.sweep.suspendBody := by rw [hn]
  have hstep : afterStride s = reply ⟨.state, (sweepDone s.sweepOver).adm.sweep.suspendBody⟩ (sweepDone s.sweepOver) :=
    (if_pos hp).trans (if_pos hr)
  rw [hstep, reply_only hq', hbody]

theorem strideRead_eq {b : Nat} {check : List Nat}
    (h : (positionsFrom b 64).foldl (fun s p => sweepWay p s) (applyChecks check s) = t) :
    strideRead b check s = afterStride t.strideSwept.lookForSlot := by
  unfold strideRead
  rw [h]
  rfl

theorem strideCompleted_unmarked (b : Nat) (check : List Nat) (m : RecMem) (s : State) :
    strideCompleted ⟨.stride b check, false⟩ { s with mem := (m.disturb []).written (.stride b check) }
      = strideRead b check { s with mem := m } := by
  have hm : (m.disturb []).written (.stride b check) = m := rfl
  rw [hm]
  exact if_neg Bool.false_ne_true

/-- What the sweeping of a stride's ways leaves, at an engine without other work. -/
structure StrideKept (s t : State) : Prop where
  ev : t.ev = s.ev
  mgmt : t.mgmt = s.mgmt
  time : t.venueTime = s.venueTime
  items : t.adm.items = s.adm.items
  op : t.adm.op = s.adm.op
  pointer : t.adm.sweep.pointer = s.adm.sweep.pointer
  requests : t.mem.all = []

section
variable {b : Nat} {check : List Nat} (hf : s.mem.fetchQ = []) (hw : s.mem.writeQ = []) (hc : s.mem.chunkQ = [])
  (hst : s.mem.strideQ = []) (hin : s.mem.ingestQ = [])
include hf hw hc hst hin

theorem strideKept (hsub : ∀ e ∈ s.stations, e.2.sub = none)
    (hsw : (positionsFrom b 64).foldl (fun s p => sweepWay p s)
      (State.checked { s with mem := { s.mem with transfer := none } } check) = t) : StrideKept s t := by
  obtain ⟨map, k, m, e, tx, hread⟩ := checked_only { s with mem := { s.mem with transfer := none } } check
  rw [hread] at hsw
  have hswept := foldl_sweepWay_swept (s := { s with
    adm := { s.adm with map := map, ctrs := k }, mem := { s.mem with transfer := none, ctrs := m }
    err := e, uplink := { s.uplink with tx := tx } }) hsub (positionsFrom b 64)
  obtain ⟨l, map', o, k', v, i, f, ht'⟩ := hswept.only
  rw [ht'] at hsw
  subst hsw
  refine ⟨rfl, rfl, rfl, rfl, rfl, rfl, ?_⟩
  simp [RecMem.all, hf, hw, hc, hst, hin]

/-- The ways of the stride are swept, and what follows is the sweep's next step (R109). -/
theorem exec_strideCompletion (hs : s.Between) (ht : s.mem.transfer = some ⟨.stride b check, false⟩)
    (hsw : (positionsFrom b 64).foldl (fun s p => sweepWay p s)
      (State.checked { s with mem := { s.mem with transfer := none } } check) = t) :
    exec (.sweepStrideCompletion []) s = .next (finish (afterStride t.strideSwept.lookForSlot)) := by
  have hgrant : ({ s.mem with transfer := none } : RecMem).grant = { s.mem with transfer := none } := grant_empty hf hw hc hst hin
  have hrule := completeTransfer_eq (k := .stride) ht rfl [] strideCompleted
  rw [hgrant, strideCompleted_unmarked] at hrule
  rw [← applyChecks_checked (s := { s with mem := { s.mem with transfer := none } }) (quiet_deferring hs.1)] at hsw
  exact congrArg (fun u => Host.Outcome.next (finish u)) (hrule.trans (strideRead_eq hsw))
end

theorem quiet_of_ev (hs : s.Between) (hk : StrideKept s t) (hu : u.ev = t.ev) : u.Quiet := by
  have hq := hs.1
  unfold State.Quiet at *
  rw [hu, hk.ev]
  exact hq

theorem settled_of_mgmt (hs : s.Between) (hk : StrideKept s t) (hu : u.mgmt = t.mgmt) : u.Settled := by
  have hset := hs.2
  unfold State.Settled at *
  rw [hu, hk.mgmt]
  exact hset

section
variable (hs : s.Between) (hi : s.adm.items = []) (ho : s.adm.op = none) (hk : StrideKept s t)
include hs hi ho hk

/-- The next stride's read is sent (R109 step 5, R108). -/
theorem finish_strideNext (hp : s.adm.sweep.pointer + 64 ≠ 16384) (hr : t.adm.sweep.suspendRequested = false) :
    finish (afterStride t.strideSwept.lookForSlot)
      = ({ t.strideSwept.modSweep (fun w => { w with stride := some .reading }) with
          mem := t.mem.send (.stride (s.adm.sweep.pointer + 64)
            (t.checkSet (positionsFrom (s.adm.sweep.pointer + 64) 64))) } : State).ended := by
  rw [← hk.pointer] at hp ⊢
  have hgo := goOn_stride (s := t.strideSwept.modSweep (fun w => { w with stride := some .claimed })) rfl (hk.items.trans hi)
    (hk.op.trans ho) (by
      rw [show (t.strideSwept.modSweep (fun w => { w with stride := some .claimed })).mem.all = [] from hk.requests]
      rfl)
  rw [afterStride_next (s := t.strideSwept.lookForSlot) hp hr]
  exact finish_goOn (t := t.strideSwept.modSweep (fun w => { w with stride := some .claimed })) (quiet_of_ev hs hk rfl) hgo rfl
    (settled_of_mgmt hs hk rfl)

/-- At the end of a sweep step without a stride, what is left is the state as it is. -/
theorem finish_strideOver {e : MgmtEntry} {st : Status} {body : List Byte} (hu : u.ev = t.ev) (hui : u.adm.items = t.adm.items)
    (huo : u.adm.op = t.adm.op) (hust : u.adm.sweep.stride = none) :
    finish (u.headReplied e ⟨st, body⟩).lookForSlot = (u.headReplied e ⟨st, body⟩).ended :=
  finish_goOn (quiet_of_ev hs hk hu) (goOn_nothing hust (hui.trans (hk.items.trans hi)) (huo.trans (hk.op.trans ho))) rfl
    (.inl rfl)

theorem finish_strideSuspended {e : MgmtEntry} (hp : s.adm.sweep.pointer + 64 ≠ 16384)
    (hr : t.adm.sweep.suspendRequested = true) (hq : s.mgmt.queue = [e]) :
    finish (afterStride t.strideSwept.lookForSlot) = (t.strideSwept.suspended.headReplied e
      ⟨.done, t.strideSwept.suspended.adm.sweep.suspendBody⟩).ended := by
  rw [← hk.pointer] at hp
  rw [afterStride_suspends (s := t.strideSwept.lookForSlot) hp hr ((congrArg Mgmt.queue hk.mgmt).trans hq)]
  exact finish_strideOver (u := t.strideSwept.suspended) hs hi ho hk rfl rfl rfl rfl

/-- The sweep ends (R110). -/
theorem finish_strideEnds (hp : s.adm.sweep.pointer + 64 = 16384) (hr : t.adm.sweep.suspendRequested = false) :
    finish (afterStride t.strideSwept.lookForSlot) = (sweepDone t.strideSwept.sweepOver).ended := by
  obtain ⟨tx, es, hn⟩ : ∃ tx es, sweepDone t.strideSwept.sweepOver = { t.strideSwept.sweepOver with
    uplink := { t.strideSwept.sweepOver.uplink with tx := tx }
    err := { t.strideSwept.sweepOver.err with entries := es } } := notice_only _ _ _
  have hover : t.strideSwept.lookForSlot.sweepOver = t.strideSwept.sweepOver.lookForSlot := rfl
  rw [← hk.pointer] at hp
  rw [afterStride_ends (s := t.strideSwept.lookForSlot) hp hr, hover, sweepDone_lookForSlot, hn]
  exact finish_goOn (quiet_of_ev hs hk rfl) (goOn_nothing rfl (hk.items.trans hi) (hk.op.trans ho)) rfl
    (settled_of_mgmt hs hk rfl)

theorem finish_strideEndsSuspended {e : MgmtEntry} (hp : s.adm.sweep.pointer + 64 = 16384)
    (hr : t.adm.sweep.suspendRequested = true) (hq : s.mgmt.queue = [e]) :
    finish (afterStride t.strideSwept.lookForSlot) = ((sweepDone t.strideSwept.sweepOver).headReplied e
      ⟨.state, t.strideSwept.sweepOver.adm.sweep.suspendBody⟩).ended := by
  obtain ⟨tx, es, hn⟩ : ∃ tx es, sweepDone t.strideSwept.sweepOver = { t.strideSwept.sweepOver with
    uplink := { t.strideSwept.sweepOver.uplink with tx := tx }
    err := { t.strideSwept.sweepOver.err with entries := es } } := notice_only _ _ _
  have hover : t.strideSwept.lookForSlot.sweepOver = t.strideSwept.sweepOver.lookForSlot := rfl
  rw [← hk.pointer] at hp
  rw [afterStride_endsSuspended (s := t.strideSwept.lookForSlot) hp hr ((congrArg Mgmt.queue hk.mgmt).trans hq),
    hover, sweepDone_lookForSlot, hn]
  exact finish_strideOver (u := { t.strideSwept.sweepOver with
    uplink := { t.strideSwept.sweepOver.uplink with tx := tx }
    err := { t.strideSwept.sweepOver.err with entries := es } }) hs hi ho hk rfl rfl rfl rfl
end

end Sys2Proof.Machine

open Sys2Proof.Machine

/-- Settles O58: one way by the equations of `sweepWay`; a stride's completion by what sweeping its ways keeps, and the next
step of the sweep by the cases of `afterStride`. -/
theorem sweepStridesVoidAndMove : Obligations.SweepStridesVoidAndMove := by
  unfold Obligations.SweepStridesVoidAndMove
  refine ⟨fun s p hb => ?_, fun s b check hs ht hf hw hc hst hin hi ho hstride hptr hsub => ?_⟩
  · intro e voided picked
    have hpicked : Selector.matches s.adm.sweep.selector e (s.cred p).tier = true ↔ picked := selector_matches_iff
    refine ⟨sweepWay_passed, fun hfree hvoid hf => sweepWay_faulty (swept_iff.2 ⟨hfree, hvoid⟩) hf,
      fun hf hp => sweepWay_left hf (Bool.eq_false_iff.2 (fun h => hp (hpicked.1 h))), fun hf hp he => ?_, fun hf hp he => ?_⟩
    · have hsw : e.state.swept = true := by rcases he with he | he <;> rw [he] <;> rfl
      have hout : e.state ≠ .admitted := by rcases he with he | he <;> rw [he] <;> simp
      rw [sweepWay_picked hsw hf (hpicked.2 hp), voidEntry_outside hout, if_neg (by exact hout)]
      rfl
    · have hsw : e.state.swept = true := by rw [he]; rfl
      rw [sweepWay_picked hsw hf (hpicked.2 hp), voidEntry_inside he, leaveAdmitted_unbound (.inl (by simp)) hb,
        left_of_unbound hb, if_pos (by exact he)]
      rfl
  · intro read swept w counts run moved replies
    subst hptr
    have hk : StrideKept s swept := strideKept hf hw hc hst hin hsub rfl
    have hrun : run = .next (finish (afterStride swept.strideSwept.lookForSlot)) :=
      exec_strideCompletion hf hw hc hst hin hs ht rfl
    clear_value run swept
    subst hrun
    refine ⟨fun hp => ⟨fun hr => ?_, fun e hr hq => ?_⟩, fun hp sel hsel => ?_⟩
    · rw [finish_strideNext hs hi ho hk hp hr, ← hk.pointer]
      rfl
    · rw [finish_strideSuspended hs hi ho hk hp hr hq, ← hk.pointer]
      rfl
    · have hover : swept.strideSwept.sweepOver = moved { w with
          state := .idle, pointer := 16384, stride := none, suspendRequested := false, endTime := some s.venueTime }
          (fun k => { k with sweepsCompleted := bump k.sweepsCompleted }) := by
        rw [← hp, ← hk.pointer, ← hk.time]
        rfl
      intro ended
      have hended : sweepDone swept.strideSwept.sweepOver = ended := by
        show notice .sweepDone (((w.selector.map Selector.bytes).getD [0, 0]) ++ counts ++ be 6 w.startTime.toNat
          ++ be 6 swept.venueTime.toNat) swept.strideSwept.sweepOver = ended
        rw [hsel, hk.time, hover]
        rfl
      clear_value ended
      refine ⟨fun hr => ?_, fun e hr hq => ?_⟩
      · rw [finish_strideEnds hs hi ho hk hp hr, hended]
      · rw [finish_strideEndsSuspended hs hi ho hk hp hr hq, hended, hover]
        rfl
end

section
/-! The credential directives at an idle engine: the operation takes its bucket as it starts (R94 to R97). -/

-- One proof at a time: the threads of the default would not fit the memory the check allows.
set_option Elab.async false

open Sys2Proof

namespace Sys2Proof.Machine

variable {s t u v : State} {e : MgmtEntry} {b : Nat} {job : CredJob}

/-! ### A directive's first operation -/

/-- A directive has arrived at an empty queue and stands at its head, its first operation waiting for its bucket (R94). -/
def State.opWaiting (s : State) (e : MgmtEntry) (b : Nat) (job : CredJob) : State :=
  { s.queued e with
    mgmt := { (s.queued e).mgmt with started := true }
    adm := { s.adm with op := some ⟨s.adm.serial, b, job, .waiting⟩, serial := s.adm.serial + 1 } }

/-- A directive that starts an operation ends its event with what the operation at once does. -/
theorem exec_opStarts {i : Instr} (hs : s.Ready e.src) (hd : i.directive = some e) (hw : i.wf = true)
    (hrun : runDirective e.dir (s.queued e) = (none, startOp b job (s.queued e))) (hgo : goOn (s.opWaiting e b job) = u)
    (hask : u.ev.ask = []) (hset : u.Settled) : exec i s = .next (closeEvent u) := by
  have hstart : startHead (s.queued e) = (s.opWaiting e b job).lookForSlot := by
    unfold startHead
    simp only [State.queued]
    simp only [State.queued] at hrun
    rw [hrun]
    rfl
  have hquiet : (s.opWaiting e b job).Quiet := hs.1
  have hflush : flush (s.opWaiting e b job).lookForSlot = u := by
    have hroom : (s.opWaiting e b job).ev.roomFreed = false := quiet_room hquiet
    unfold flush
    rw [announce_none (s := (s.opWaiting e b job).lookForSlot) hroom, settle_lookForSlot (quiet_look hquiet), hgo,
      runArbiters_none hask]
  have hgoes : ¬ ((s.queued e).mgmt.queue = [] ∨ (s.queued e).mgmt.started = true) := by
    have hst : (s.queued e).mgmt.started = s.mgmt.started := rfl
    rw [hst, hs.2.2.2]
    simp [State.queued]
  rw [exec_directive hd hw]
  unfold event finish
  rw [directiveArrives_queued e.tag e.dir hs.2, flush_quiet (show (s.queued e).Quiet from hs.1)]
  unfold runQueue
  rw [if_neg hgoes, hstart, hflush, runQueue_settled hset]

section
variable (hidle : s.AdmissionIdle)
include hidle

/-- At an idle engine the waiting operation may take its bucket (R92, R94). -/
theorem opWaiting_mayTake (e : MgmtEntry) (b : Nat) (job : CredJob) : (s.opWaiting e b job).adm.pendingHead b = some s.adm.serial
    ∧ (s.opWaiting e b job).bucketBusy b = false := by
  obtain ⟨hi, ho, hst, hm⟩ := hidle
  constructor
  · simp [Admission.pendingHead, State.opWaiting, hi, minOf]
  · have hmem : s.mem.all.any (fun t => t.marked && t.req.covers b) = false := by
      refine List.any_eq_false.2 (fun t ht => ?_)
      have := List.all_eq_true.1 hm t ht
      simp only [Bool.not_eq_true'] at this
      simp [this]
    have hreq : (s.opWaiting e b job).mem.all.any (fun t => t.marked && t.req.covers b) = false := hmem
    unfold State.bucketBusy
    rw [hreq]
    simp [Admission.holdsBucket, Sweep.covers, State.opWaiting, hi, hst]

theorem goOn_opWaiting (hu : takeBucket (s.opWaiting e b job) = u) (hi : u.adm.items = []) : goOn (s.opWaiting e b job) = u := by
  obtain ⟨_, _, hst, _⟩ := hidle
  have hstride : sendStride (s.opWaiting e b job) = s.opWaiting e b job := sendStride_none (by
    rw [show (s.opWaiting e b job).adm.sweep.stride = none from hst]
    simp)
  unfold goOn
  rw [hstride, hu, grantSlots_none (fun i h => absurd (hi ▸ h) List.not_mem_nil)]

/-- An operation other than an erase sends its fetch (R94). -/
theorem goOn_opFetches (hj : ∀ way, job ≠ .erase way) : goOn (s.opWaiting e b job) = { s.opWaiting e b job with
    adm := { s.adm with op := some ⟨s.adm.serial, b, job, .fetching⟩, serial := s.adm.serial + 1 }
    mem := s.mem.send (.fetch b (s.checkSet (positionsFrom b 1)) .op) } := by
  refine goOn_opWaiting hidle ((if_pos ⟨rfl, opWaiting_mayTake hidle e b job⟩).trans ?_) hidle.1
  cases job with
  | erase way => exact absurd rfl (hj way)
  | _ => rfl

/-- An erase ends as it takes its bucket (R97). -/
theorem goOn_opErases {way : Nat} (hu : eraseWay (b * 4 + way) (s.opWaiting e b (.erase way)) = u) (hi : u.adm.items = []) :
    goOn (s.opWaiting e b (.erase way)) = u :=
  goOn_opWaiting hidle ((if_pos ⟨rfl, opWaiting_mayTake hidle e b _⟩).trans hu) hi

/-- A directive other than an erase stays at the head of the queue, its fetch sent (R94 to R97). -/
theorem exec_opFetches {i : Instr} (hs : s.Ready e.src) (hd : i.directive = some e) (hw : i.wf = true)
    (hrun : runDirective e.dir (s.queued e) = (none, startOp b job (s.queued e))) (hj : ∀ way, job ≠ .erase way) :
    exec i s = .next { (s.queued e).ended with
      mgmt := { (s.queued e).mgmt with started := true }
      adm := { s.adm with op := some ⟨s.adm.serial, b, job, .fetching⟩, serial := s.adm.serial + 1 }
      mem := s.mem.send (.fetch b (s.checkSet (positionsFrom b 1)) .op) } :=
  exec_opStarts hs hd hw hrun (goOn_opFetches hidle hj) (quiet_ask (s := s) hs.1) (.inr rfl)

/-- An erase is answered as it takes its bucket (R97). -/
theorem exec_opErases {i : Instr} {way : Nat} {a : Answer} (hs : s.Ready e.src) (hd : i.directive = some e) (hw : i.wf = true)
    (hrun : runDirective e.dir (s.queued e) = (none, startOp b (.erase way) (s.queued e)))
    (hends : eraseWay (b * 4 + way) (s.opWaiting e b (.erase way)) = finishOp a (t.opWaiting e b (.erase way)))
    (hev : t.ev = s.ev) (hm : t.mgmt = s.mgmt) (hi : t.adm.items = []) (ho : t.adm.op = none) :
    exec i s = .next (({ t with adm := { t.adm with serial := t.adm.serial + 1 } } : State).concluded
      e.src e.dir.kind e.tag a.status a.body) := by
  have hfreed : (t.opWaiting e b (.erase way)).freed = { t.queued e with
      mgmt := { (t.queued e).mgmt with started := true }, adm := { t.adm with serial := t.adm.serial + 1 } } := by
    unfold State.freed
    rw [← ho]
    rfl
  have hreply : finishOp a (t.opWaiting e b (.erase way))
      = ((t.opWaiting e b (.erase way)).freed.headReplied e a).lookForSlot := by
    unfold finishOp
    rw [reply_only (e := e) rfl]
    rfl
  have hask : t.ev.ask = [] := by
    rw [hev]
    exact quiet_ask hs.1
  rw [exec_opStarts hs hd hw hrun (goOn_opErases hidle (hends.trans hreply) hi) hask (.inl rfl), hfreed]
  unfold closeEvent State.concluded State.ended State.headReplied State.replied State.lookForSlot
  simp only [State.queued, State.arrived, hm, hs.2.2.1, hs.2.2.2]
end

/-! ### CRED_ERASE_WAY (R97) -/

section
variable {p way : Nat}

/-- The entry of a position is FREE again, and the erase is counted (R97). -/
def State.erased (s : State) (p : Nat) : State := (s.setEntry p {}).modAdmCtrs (fun k => { k with erases := bump k.erases })

theorem eraseWay_outside (he : (s.entry p).state ≠ .admitted) :
    eraseWay p (s.opWaiting e b job) = finishOp ⟨.done, (s.entry p).bytes⟩ ((s.erased p).opWaiting e b job) := by
  have hout : ((s.opWaiting e b job).entry p).state ≠ .admitted := he
  unfold eraseWay
  simp only [if_neg hout]
  rfl

theorem eraseWay_inside (he : (s.entry p).state = .admitted)
    (hl : leaveAdmitted p .free (s.opWaiting e b job) = t.opWaiting e b job) :
    eraseWay p (s.opWaiting e b job) = finishOp ⟨.done, (s.entry p).bytes⟩ ((t.erased p).opWaiting e b job) := by
  have hin : ((s.opWaiting e b job).entry p).state = .admitted := he
  unfold eraseWay
  simp only [if_pos hin, hl]
  rfl

theorem opWaiting_left (s : State) (e : MgmtEntry) (b : Nat) (job : CredJob) (p : Nat) (new : EntryState) :
    (s.opWaiting e b job).left p new = (s.left p new).opWaiting e b job := rfl

theorem opWaiting_setStation (s : State) (e : MgmtEntry) (b : Nat) (job : CredJob) (h : Nat) (v : Station) :
    (s.opWaiting e b job).setStation h v = (s.setStation h v).opWaiting e b job := rfl

theorem opWaiting_modAdmCtrs (s : State) (e : MgmtEntry) (b : Nat) (job : CredJob) (f : AdmCtrs → AdmCtrs) :
    (s.opWaiting e b job).modAdmCtrs f = (s.modAdmCtrs f).opWaiting e b job := rfl

theorem setEntry_left (hs : s.adm.map.sorted = true) (new : EntryState) : (s.left p new).setEntry p {}
    = (s.setEntry p {}).setOccupancy (s.entry p).home (s.occupancy (s.entry p).home - 1) := by
  have hset := setEntry_setEntry (s := s) (p := p) (e := { s.entry p with state := new, bound := none }) (e' := {}) (.inr hs)
  exact congrArg (fun t : State => t.setOccupancy (s.entry p).home (s.occupancy (s.entry p).home - 1)) hset
end

end Sys2Proof.Machine

open Sys2Proof.Machine

/-- Settles O33: at an idle engine the operation takes its bucket in the look that follows its start; an erase ends there. -/
theorem credentialDirectivesTakeTheirBucket : Obligations.CredentialDirectivesTakeTheirBucket := by
  unfold Obligations.CredentialDirectivesTakeTheirBucket
  refine ⟨fun s src tag hs hidle => ?_, fun s src tag b w hs hidle hb hw => ?_⟩
  · intro waits
    refine ⟨fun r rs hrun hlen hval => ?_, fun c => ?_, fun b w hb hw => ?_, fun c => ?_⟩
    · refine exec_opFetches hidle hs rfl (decide_eq_true (by simp only [List.length_cons]; omega)) ?_ (by simp)
      have hshort : ¬ (16 < (r :: rs).length ∨ (!(r :: rs).all LoadRec.valid) = true) := by
        simp only [not_or, List.length_cons, Bool.not_eq_true', Bool.not_eq_false]
        exact ⟨by omega, List.all_eq_true.2 hval⟩
      exact (if_neg hrun).trans (if_neg hshort)
    · exact exec_opFetches hidle hs rfl rfl rfl (by simp)
    · refine exec_opFetches hidle hs rfl rfl ?_ (by simp)
      exact if_pos (decide_eq_true ⟨hb, hw⟩)
    · exact exec_opFetches hidle hs rfl rfl rfl (by simp)
  · intro p e ends k hallowed
    have hrun : runCredEraseWay b w (s.queued ⟨src, tag, .credEraseWay b w⟩)
        = (none, startOp b.toNat (.erase w.toNat) (s.queued ⟨src, tag, .credEraseWay b w⟩)) := by
      refine (if_neg (by simp [placeInRange, hb, hw])).trans (if_neg (fun hc => ?_))
      rcases hallowed with hfrozen | hfaulty
      · exact absurd (hfrozen.symm.trans hc.1) (by simp)
      · exact absurd (hfaulty.symm.trans hc.2) (by simp)
    have erases {t : State} (ht : eraseWay p (s.opWaiting ⟨src, tag, .credEraseWay b w⟩ b.toNat (.erase w.toNat))
        = finishOp ⟨.done, e.bytes⟩ (t.opWaiting ⟨src, tag, .credEraseWay b w⟩ b.toNat (.erase w.toNat)))
        (hev : t.ev = s.ev) (hm : t.mgmt = s.mgmt) (hi : t.adm.items = s.adm.items) (ho : t.adm.op = s.adm.op) :
        exec (.credEraseWay src tag b w) s = .next (({ t with adm := { t.adm with serial := t.adm.serial + 1 } }
          : State).concluded src 17 tag .done e.bytes) :=
      exec_opErases (e := ⟨src, tag, .credEraseWay b w⟩) hidle hs rfl rfl hrun ht hev hm (hi.trans hidle.1)
        (ho.trans hidle.2.1)
    refine ⟨fun he => erases (eraseWay_outside he) rfl rfl rfl rfl, fun he hsorted => ?_⟩
    have hset := setEntry_left (p := p) hsorted .free
    have hplace : p / 4 = b.toNat ∧ p % 4 = w.toNat := by omega
    intro left
    have leaves {t u : State}
        (hl : leaveAdmitted p .free (s.opWaiting ⟨src, tag, .credEraseWay b w⟩ b.toNat (.erase w.toNat))
          = t.opWaiting ⟨src, tag, .credEraseWay b w⟩ b.toNat (.erase w.toNat)) (ht : t.setEntry p {} = u)
        (hev : u.ev = s.ev) (hm : u.mgmt = s.mgmt) (hi : u.adm.items = s.adm.items) (ho : u.adm.op = s.adm.op) :
        exec (.credEraseWay src tag b w) s = .next (({ u with adm := { u.adm with
          serial := u.adm.serial + 1, ctrs := { u.adm.ctrs with erases := bump u.adm.ctrs.erases } } }
            : State).concluded src 17 tag .done e.bytes) := by
      subst ht
      exact erases (eraseWay_inside he hl) hev hm hi ho
    refine ⟨fun hbound => ?_, fun h hbound hnone => ?_, fun h st x hbound hst hx hxb hxw hsub => ?_⟩
    · exact leaves (t := s.left p .free) (leaveAdmitted_unbound (.inr hsorted) hbound) hset rfl rfl rfl rfl
    · have hh : s.holds h (p / 4) (p % 4) = false := Bool.eq_false_iff.2 (fun hc => by
        obtain ⟨st, x, hst, hx, hxb, hxw⟩ := holds_iff.1 hc
        exact hnone st x hst hx ⟨hxb.trans hplace.1, hxw.trans hplace.2⟩)
      exact leaves (t := (s.left p .free).modAdmCtrs (fun k => { k with unbindsNoEffect := bump k.unbindsNoEffect }))
        (leaveAdmitted_noEffect (.inr hsorted) hbound hh)
        (congrArg (fun t : State => t.modAdmCtrs (fun k => { k with unbindsNoEffect := bump k.unbindsNoEffect })) hset)
        rfl rfl rfl rfl
    · have hh : s.holds h (p / 4) (p % 4) = true :=
        holds_iff.2 ⟨st, x, hst, hx, hxb.trans hplace.1.symm, hxw.trans hplace.2.symm⟩
      exact leaves
        (t := ((s.left p .free).setStation h st.unbound).modAdmCtrs (fun k => { k with unbinds := bump k.unbinds }))
        (by rw [leaveAdmitted_releases (s := s.opWaiting ⟨src, tag, .credEraseWay b w⟩ b.toNat (.erase w.toNat))
          (.inr hsorted) hbound hh hst hsub, opWaiting_left, opWaiting_setStation, opWaiting_modAdmCtrs])
        (congrArg (fun t : State => (t.setStation h st.unbound).modAdmCtrs (fun k => { k with unbinds := bump k.unbinds })) hset)
        rfl rfl rfl rfl
end

section
/-! The arrival of scans and check-ins (R93, R117): what is dropped, what is answered at once, and the item that joins the scan
queue and sends its fetch (R90, R92). -/

-- One proof at a time: the threads of the default would not fit the memory the check allows.
set_option Elab.async false

open Sys2Proof

namespace Sys2Proof.Machine

variable {s t : State} {r : Nat} {a : Addr} {code : Word64} {frame : List Byte}

/-- A scan that passes its form is counted (R93). -/
def State.countScan (s : State) : State := s.modAdmCtrs (fun k => { k with scans := bump k.scans })

/-- A check-in that passes its form is counted (R117). -/
def State.countCheckin (s : State) : State := s.modAdmCtrs (fun k => { k with checkins := bump k.checkins })

theorem countScan_calm (s : State) : Calm s s.countScan := modAdmCtrs_calm s _

theorem countCheckin_calm (s : State) : Calm s s.countCheckin := modAdmCtrs_calm s _

/-! ### Scans (R93) -/

section
variable {dir scanner : Byte} {d : Direction}

theorem directionOf_none (h1 : dir ≠ 1) (h2 : dir ≠ 2) : directionOf dir = none := by
  unfold directionOf
  split
  · next h => exact absurd (BitVec.eq_of_toNat_eq h) h1
  · next h => exact absurd (BitVec.eq_of_toNat_eq h) h2
  · rfl

theorem takeScanMsg_malformed (h : code = 0 ∨ (dir ≠ 1 ∧ dir ≠ 2)) :
    takeScanMsg r a code dir scanner frame s = carrierMalformed (some r) frame s := by
  unfold takeScanMsg
  cases hd : directionOf dir with
  | none => rfl
  | some d =>
    refine if_pos (h.resolve_right (fun hdir => ?_))
    rw [directionOf_none hdir.1 hdir.2] at hd
    exact absurd hd (by simp)

theorem takeScanMsg_counted (hd : directionOf dir = some d) (hc : code ≠ 0) : takeScanMsg r a code dir scanner frame s
    = takeScan r a code d scanner frame s.countScan := by
  unfold takeScanMsg
  rw [hd]
  exact if_neg hc

theorem roleAllows_of_cfg {c : RadioCfg} (h : (s.radio r).cfg = some c) : s.roleAllows r d = c.role.allows d := by
  unfold State.roleAllows
  rw [h]

theorem takeScan_role (h : s.roleAllows r d = false) :
    takeScan r a code d scanner frame s = raiseError (anError .gateRole (some r) frame) s := if_pos (by simp [h])

variable (hrole : s.roleAllows r d = true)
include hrole

theorem takeScan_closed (hd : d = .entry) (hc : s.adm.closed = true) :
    takeScan r a code d scanner frame s = sendVerdict r a scanner code .closed none s :=
  (if_neg (by simp [hrole])).trans (if_pos ⟨hd, hc⟩)

variable (hopen : d = .exit ∨ s.adm.closed = false)
include hopen

theorem takeScan_open : takeScan r a code d scanner frame s = if 64 ≤ s.adm.items.length then
      sendVerdict r a scanner code .retry none (s.modAdmCtrs (fun k => { k with queueFull := bump k.queueFull }))
    else addItem (.scan d scanner) code r a s := by
  refine (if_neg (by simp [hrole])).trans (if_neg ?_)
  rcases hopen with rfl | hc
  · simp
  · simp [hc]

theorem takeScan_full (hfull : 64 ≤ s.adm.items.length) : takeScan r a code d scanner frame s
    = sendVerdict r a scanner code .retry none (s.modAdmCtrs (fun k => { k with queueFull := bump k.queueFull })) :=
  (takeScan_open hrole hopen).trans (if_pos hfull)

theorem takeScan_joins (hidle : s.AdmissionIdle) :
    takeScan r a code d scanner frame s = addItem (.scan d scanner) code r a s := by
  refine (takeScan_open hrole hopen).trans (if_neg ?_)
  rw [hidle.1]
  simp
end

/-! ### Check-ins (R117) -/

section
variable {h : Nat} {st : Station}

theorem takeCheckinMsg_malformed (hc : code = 0 ∨ noStation a = true) :
    takeCheckinMsg r a code frame s = carrierMalformed (some r) frame s := if_pos hc

variable (hc : code ≠ 0) (ha : noStation a = false)
include hc ha

theorem takeCheckinMsg_stray (hl : s.lookup a = none) : takeCheckinMsg r a code frame s = strayService s.countCheckin := by
  have hlook (f : AdmCtrs → AdmCtrs) : (s.modAdmCtrs f).lookup a = none := hl
  refine (if_neg (not_or.2 ⟨hc, by simp [ha]⟩)).trans ?_
  simp only [hlook]
  rfl

section
variable (hl : s.lookup a = some h) (hs : s.station h = some st)
include hl hs

theorem takeCheckinMsg_unexpected (hon : st.current ≠ some r ∧ st.target ≠ some r) :
    takeCheckinMsg r a code frame s = serviceUnexpected r frame s.countCheckin := by
  have hlook (f : AdmCtrs → AdmCtrs) : (s.modAdmCtrs f).lookup a = some h := hl
  have hrecord (f : AdmCtrs → AdmCtrs) : (s.modAdmCtrs f).station h = some st := hs
  refine (if_neg (not_or.2 ⟨hc, by simp [ha]⟩)).trans ?_
  simp only [hlook, hrecord]
  exact if_neg (by simp [Station.isOn, hon])

theorem takeCheckinMsg_expected (hon : st.current = some r ∨ st.target = some r) :
    takeCheckinMsg r a code frame s = takeCheckin r h a code s.countCheckin := by
  have hlook (f : AdmCtrs → AdmCtrs) : (s.modAdmCtrs f).lookup a = some h := hl
  have hrecord (f : AdmCtrs → AdmCtrs) : (s.modAdmCtrs f).station h = some st := hs
  refine (if_neg (not_or.2 ⟨hc, by simp [ha]⟩)).trans ?_
  simp only [hlook, hrecord]
  exact if_pos (by simp [Station.isOn, hon])
end
end

theorem takeCheckin_full {h : Nat} (hfull : 64 ≤ s.adm.items.length) : takeCheckin r h a code s
    = sendCheckinReply r a .retry (s.modAdmCtrs (fun k => { k with checkinsFull := bump k.checkinsFull })) := if_pos hfull

theorem takeCheckin_joins {h : Nat} (hidle : s.AdmissionIdle) : takeCheckin r h a code s = addItem (.checkin h) code r a s := by
  refine if_neg ?_
  rw [hidle.1]
  simp

/-! ### The item that joins the queue (R90, R92) -/

/-- The item a scan or a check-in makes. -/
def newItem (s : State) (kind : ItemKind) (code : Word64) (r : Nat) (c : RadioCfg) (a : Addr) (stage : ItemStage) : WorkItem :=
  { serial := s.adm.serial, kind := kind, code := code, bucket := credBucket code, radio := r, zone := c.zone, station := a,
    time := s.venueTime, stage := stage }

/-- An item that joins the queue of an idle engine takes fetch slot 0 and sends its fetch. -/
theorem finish_addItem {c : RadioCfg} {kind : ItemKind} (hs : s.Between) (hidle : s.AdmissionIdle)
    (hc : (s.radio r).cfg = some c) :
    finish (addItem kind code r a s) = { s.ended with
      adm := { s.adm with
        items := [newItem s kind code r c a (.fetching 0)]
        serial := s.adm.serial + 1
        ctrs := { s.adm.ctrs with fetches := bump s.adm.ctrs.fetches } }
      mem := s.mem.send (.fetch (credBucket code) (s.checkSet (positionsFrom (credBucket code) 1)) (.item s.adm.serial)) } := by
  obtain ⟨hi, ho, hst, hm⟩ := hidle
  have hjoined : addItem kind code r a s = (s.modAdm (fun x => { x with
      items := [newItem s kind code r c a .waiting], serial := x.serial + 1 })).lookForSlot := by
    unfold addItem State.modAdm
    simp only [hi, hc]
    rfl
  have hgo := goOn_only (s := s.modAdm (fun x => { x with
    items := [newItem s kind code r c a .waiting], serial := x.serial + 1 })) (pre := []) (post := [])
    (i := newItem s kind code r c a .waiting) (n := 0) rfl ho hst hm (by simp) rfl (by omega) (by simp) (by omega)
  rw [hjoined, finish_goOn (by exact hs.1) hgo rfl hs.2]
  rfl

section
variable {i : Instr} {p : Fin 4} {radio : Byte} {m : CarrierMsg} (hc : i.carrier = some (p, ⟨radio, a, m⟩)) (hw : i.wf = true)
  (hb : s.Between) (hp : s.Passes p.val radio.toNat)
include hc hw hb hp

/-- The event of a message whose item joins the queue of an idle engine. -/
theorem exec_addsItem {c : RadioCfg} {kind : ItemKind} {f : AdmCtrs → AdmCtrs} (hidle : s.AdmissionIdle)
    (hcfg : (s.radio radio.toNat).cfg = some c)
    (hrun : takeCarrierMsg p.val radio.toNat a m (CarrierFrame.bytes ⟨radio, a, m⟩) (s.portHeard p.val)
      = addItem kind code radio.toNat a ((s.portHeard p.val).modAdmCtrs f)) :
    exec i s = .next { (s.portHeard p.val).ended with
      adm := { s.adm with
        items := [newItem s kind code radio.toNat c a (.fetching 0)]
        serial := s.adm.serial + 1
        ctrs := { f s.adm.ctrs with fetches := bump (f s.adm.ctrs).fetches } }
      mem := s.mem.send (.fetch (credBucket code) (s.checkSet (positionsFrom (credBucket code) 1)) (.item s.adm.serial)) } := by
  have harr := (arrive_passes a m hp).trans hrun
  have hadd := finish_addItem (s := (s.portHeard p.val).modAdmCtrs f) (r := radio.toNat) (a := a) (code := code) (kind := kind)
    hb hidle hcfg
  rw [exec_carrier_checks hc hw]
  exact congrArg Host.Outcome.next ((congrArg finish harr).trans hadd)
end

end Sys2Proof.Machine

open Sys2Proof.Machine

/-- Settles O48: each message comes to the rule its content calls for; an item that joins the idle queue takes slot 0 in the look
that follows. -/
theorem scansAndCheckinsFetchTheirBucket : Obligations.ScansAndCheckinsFetchTheirBucket := by
  unfold Obligations.ScansAndCheckinsFetchTheirBucket
  refine ⟨fun role d => by cases role <;> cases d <;> simp [Role.allows], fun s p radio a code c hb hp hcfg => ?_⟩
  intro r b heard k queued counted error answer
  have hdef : heard.ev.deferring = false := heard_deferring hb p.val
  refine ⟨fun dir scanner => ?_, ?_⟩
  · intro scan body k1 verdict
    have hscan {t : State} (hrun : takeScanMsg r a code dir scanner (serviceBytes r a 0x05 body) heard = t) (ht : Calm heard t) :
        scan = .next t.ended :=
      exec_message (i := .scan p radio a code dir scanner) (a := a) (m := .scan code dir scanner) rfl rfl hb hp hrun ht rfl
    refine ⟨fun hbad hq => ?_, fun d hd hcode => ?_⟩
    · exact hscan ((takeScanMsg_malformed hbad).trans (carrierMalformed_faulted hdef hq _)) (charged_calm _ _ _)
    have hdir : directionOf dir = some d := by
      rcases hd with ⟨rfl, rfl⟩ | ⟨rfl, rfl⟩ <;> rfl
    have hcount := takeScanMsg_counted (r := r) (a := a) (scanner := scanner) (frame := serviceBytes r a 0x05 body) (s := heard)
      hdir hcode
    have hrole : heard.countScan.roleAllows r d = c.role.allows d :=
      roleAllows_of_cfg hcfg
    have hcalm := countScan_calm heard
    have answered (v : Verdict) {x y : State} (hy : x.modAdmCtrs (fun k => { k with verdicts := k.verdicts.raised v }) = y)
        (hx : Calm heard x) (hport : s.portBusy r = true)
        (hrun : takeScan r a code d scanner (serviceBytes r a 0x05 body) heard.countScan
          = sendVerdict r a scanner code v none x) :
        scan = .next (verdict v.code y) := by
      subst hy
      exact hscan (t := sendVerdict r a scanner code v none x) (hcount.trans hrun)
        (hx.trans (sendVerdict_calm (hx.defr.trans hdef) ((((heard_calm s p.val).trans hx).portBusy r).trans hport) _ _ _ _ _))
    refine ⟨fun hno hq => ?_, fun hyes => ⟨fun hentry hclosed hport => ?_,
      fun hopen => ⟨fun hfull hport => ?_, fun hidle => ?_⟩⟩⟩
    · have hrun := (takeScan_role (a := a) (code := code) (scanner := scanner) (frame := serviceBytes r a 0x05 body)
        (hrole.trans hno)).trans (raiseError_faulted hdef rfl hq)
      exact hscan (hcount.trans hrun) (hcalm.trans (charged_calm _ _ _))
    · exact answered .closed rfl hcalm hport (takeScan_closed (hrole.trans hyes) hentry hclosed)
    · exact answered .retry (x := heard.countScan.modAdmCtrs (fun k => { k with queueFull := bump k.queueFull })) rfl
        (hcalm.trans (modAdmCtrs_calm _ _)) hport (takeScan_full (hrole.trans hyes) hopen hfull)
    · exact exec_addsItem (i := .scan p radio a code dir scanner) (m := .scan code dir scanner) rfl rfl hb hp hidle hcfg
        (f := fun k => { k with scans := bump k.scans })
        (hcount.trans (takeScan_joins (s := heard.countScan) (hrole.trans hyes) hopen hidle))
  · intro checkin k1
    have hcheckin {t : State} (hrun : takeCheckinMsg r a code (serviceBytes r a 0x06 (be 8 code.toNat)) heard = t)
        (ht : Calm heard t) : checkin = .next t.ended :=
      exec_message (i := .checkin p radio a code) (a := a) (m := .checkin code) rfl rfl hb hp hrun ht rfl
    have hcalm := countCheckin_calm heard
    refine ⟨fun hbad hq => ?_, fun hcode ha => ⟨fun hl => ?_, fun h st hl hst => ?_⟩⟩
    · exact hcheckin ((takeCheckinMsg_malformed hbad).trans (carrierMalformed_faulted hdef hq _)) (charged_calm _ _ _)
    · exact hcheckin (t := strayService heard.countCheckin) (takeCheckinMsg_stray (s := heard) hcode ha hl)
        (hcalm.trans (modStationCtrs_calm _ _))
    have hl' : heard.lookup a = some h := hl
    have hst' : heard.station h = some st := hst
    refine ⟨fun hcur htgt hq => ?_, fun hon => ⟨fun hfull hport => ?_, fun hidle => ?_⟩⟩
    · have hun := serviceUnexpected_faulted (s := heard.countCheckin) hdef hq (serviceBytes r a 0x06 (be 8 code.toNat))
      exact hcheckin ((takeCheckinMsg_unexpected hcode ha hl' hst' ⟨hcur, htgt⟩).trans hun) (hcalm.trans (charged_calm _ _ _))
    · have hfull' := hcalm.trans (modAdmCtrs_calm heard.countCheckin (fun k => { k with checkinsFull := bump k.checkinsFull }))
      have hreply := sendCheckinReply_calm (hfull'.defr.trans hdef)
        ((((heard_calm s p.val).trans hfull').portBusy r).trans hport) a .retry
      have hrun := hcheckin ((takeCheckinMsg_expected hcode ha hl' hst' hon).trans
        (takeCheckin_full (s := heard.countCheckin) hfull)) (hfull'.trans hreply)
      exact hrun
    · exact exec_addsItem (i := .checkin p radio a code) (m := .checkin code) rfl rfl hb hp hidle hcfg
        (f := fun k => { k with checkins := bump k.checkins })
        ((takeCheckinMsg_expected hcode ha hl' hst' hon).trans (takeCheckin_joins (s := heard.countCheckin) hidle))
end

section
/-! The report of the sweep record (R106, R114). -/

open Sys2Proof

namespace Sys2Proof.Machine

/-- The report of a sweep: the record's fields in their order, the three counts with 4 bytes each. -/
theorem Sweep.statusBody_fields (w : Sweep) : w.statusBody =
    be 1 w.state.code ++ optBytes 2 (w.selector.map Selector.bytes) ++ be 2 w.pointer
      ++ optField 1 (w.stride.map Stride.code) ++ flagByte w.suspendRequested
      ++ be 4 w.voided ++ be 4 w.voidedInside ++ be 4 w.faultyPassed
      ++ be 6 w.startTime.toNat ++ optField 6 (w.endTime.map BitVec.toNat) := by
  simp only [Sweep.statusBody, Sweep.counts, List.append_assoc]

/-- SWEEP_STATUS has no case: whatever the sweep's state, it reports the record and leaves the part as it is. The waiting
directive is no part of the record. -/
theorem runDirective_sweepStatus (s : State) (e : MgmtEntry) :
    runDirective .sweepStatus (s.queued e) = (some ⟨.done, s.adm.sweep.statusBody⟩, s.queued e) := rfl

end Sys2Proof.Machine

open Sys2Proof.Machine

/-- Settles O23: the directive is answered as it arrives, with the report of the record, and nothing is changed. -/
theorem sweepStatusReportsSweep : Obligations.SweepStatusReportsSweep := by
  intro s src tag hs w
  rw [← Sweep.statusBody_fields]
  exact exec_unchanged hs rfl rfl rfl (runDirective_sweepStatus s _)
end

section
/-! The holder of a credential (R119): what it is, and that a station holds at most one. -/

open Sys2Proof

namespace Sys2Proof.Machine

variable {s : State} {p q h : Nat}

/-- R119's last row: the entry's bound handle, and a binding there that names the position's bucket and way. -/
theorem holder_iff_bound_and_named : s.holder p = some h ↔
    (s.entry p).bound = some h ∧ ∃ st b, s.station h = some st ∧ st.binding = some b ∧ b.bucket = p / 4 ∧ b.way = p % 4 :=
  holder_eq_some.trans (and_congr_right' holds_iff)

/-- A record's binding names one position: no two buckets or ways are named by it. -/
theorem holds_position_unique {b w b' w' : Nat} (hp : s.holds h b w = true) (hq : s.holds h b' w' = true) :
    b = b' ∧ w = w' := by
  obtain ⟨st, x, hst, hx, rfl, rfl⟩ := holds_iff.1 hp
  obtain ⟨st', x', hst', hx', rfl, rfl⟩ := holds_iff.1 hq
  obtain rfl : st = st' := Option.some.inj (hst.symm.trans hst')
  obtain rfl : x = x' := Option.some.inj (hx.symm.trans hx')
  exact ⟨rfl, rfl⟩

/-- A record holds at most one credential: its binding names the bucket and the way of both positions, and a position is its
bucket and way. -/
theorem holder_position_unique (hp : s.holder p = some h) (hq : s.holder q = some h) : p = q := by
  obtain ⟨hbucket, hway⟩ := holds_position_unique (holder_eq_some.1 hp).2 (holder_eq_some.1 hq).2
  exact Nat.ext_div_mod hbucket hway

end Sys2Proof.Machine

open Sys2Proof.Machine

/-- Settles O13: R119's condition as the station table checks it, and the one position a binding names. -/
theorem holderIsBoundRecord : Obligations.HolderIsBoundRecord :=
  ⟨fun _ _ _ => holder_iff_bound_and_named, fun _ _ _ _ => holder_position_unique⟩
end

section
/-! The report of a reel (R141), and the frames to the part's own addresses that are turned away (R131, R132, R167, R168, R188). -/

set_option Elab.async false

open Sys2Proof

namespace Sys2Proof.Machine

variable {s : State}

/-! ### REEL_STATUS -/

theorem holdsSlot_iff {x : Reel} {c : ReelCfg} (hc : x.cfg = some c) {n : Nat} :
    x.holdsSlot n = true ↔ c.first ≤ n ∧ n < c.first + c.count := by
  unfold Reel.holdsSlot
  rw [hc]
  exact decide_eq_true_iff

theorem runReelStatus_unheld {reel : Byte} {slot : Half} (h : (s.reel reel.toNat).holdsSlot slot.toNat = false) :
    runReelStatus reel 1 slot s = answered .range s := by
  have hflag : flagOf 1 = some true := rfl
  unfold runReelStatus
  simp only [hflag]
  exact if_pos (.inr ⟨trivial, h⟩)

theorem runReelStatus_reel_only {reel : Byte} (hr : reel.toNat ≤ 15) (slot : Half) :
    runReelStatus reel 0 slot s = (some ⟨.done, reelStatusBody s reel.toNat none⟩, s) := by
  have hflag : flagOf 0 = some false := rfl
  unfold runReelStatus
  simp only [hflag]
  exact if_neg (by simp; omega)

theorem runReelStatus_slot {reel : Byte} {slot : Half} (hr : reel.toNat ≤ 15)
    (h : (s.reel reel.toNat).holdsSlot slot.toNat = true) :
    runReelStatus reel 1 slot s = (some ⟨.done, reelStatusBody s reel.toNat (some slot.toNat)⟩, s) := by
  have hflag : flagOf 1 = some true := rfl
  unfold runReelStatus
  simp only [hflag]
  exact if_neg (by simp [h]; omega)

end Sys2Proof.Machine

open Sys2Proof.Machine

/-- Settles O24: the report is refused for a reel or a slot out of range, and otherwise is read from the state, which stays. -/
theorem reelStatusReportsReel : Obligations.ReelStatusReportsReel := by
  intro s src tag reel slot hs
  refine ⟨fun hr p => exec_unchanged hs rfl rfl rfl (runReelStatus_reel hr p slot),
    fun hr => exec_unchanged hs rfl rfl rfl (runReelStatus_reel_only hr slot),
    fun _ hc => exec_unchanged hs rfl rfl rfl (runReelStatus_unheld ?_),
    fun c hr hc => ⟨fun hout => exec_unchanged hs rfl rfl rfl (runReelStatus_unheld ?_),
      fun hlo hhi => exec_unchanged hs rfl rfl rfl (runReelStatus_slot hr ?_)⟩⟩
  · show (s.reel reel.toNat).holdsSlot slot.toNat = false
    unfold Reel.holdsSlot
    rw [hc]
  · show (s.reel reel.toNat).holdsSlot slot.toNat = false
    rw [Bool.eq_false_iff, Ne, holdsSlot_iff hc]
    omega
  · exact (holdsSlot_iff (x := s.reel reel.toNat) hc).2 ⟨hlo, hhi⟩

namespace Sys2Proof.Machine

/-! ### Reel frames taken and turned away -/

/-- The reel a reel frame names. -/
def ReelMsg.reel : ReelMsg → Byte
  | .segOpen reel _ _ => reel
  | .segData reel _ _ _ => reel
  | .segClose reel _ => reel

/-- A SEGMENT_OPEN of no bytes, or of more than a slot holds (R132). -/
def ReelMsg.badLength : ReelMsg → Bool
  | .segOpen _ _ len => decide (len.toNat = 0 ∨ 262144 < len.toNat)
  | .segData _ _ _ _ => false
  | .segClose _ _ => false

/-- What a reel frame of a configured reel does (R132, R135, R137). -/
def ReelMsg.taken (m : ReelMsg) (frame : List Byte) (s : State) : State :=
  match m with
  | .segOpen reel seq len => segmentOpen reel.toNat seq.toNat len.toNat frame s
  | .segData reel seq offset data => segmentData reel.toNat seq.toNat offset.toNat data s
  | .segClose reel seq => segmentClose reel.toNat seq.toNat frame s

/-- Every reel frame passes the same checks before it is taken. -/
theorem takeReel_eq (src : Addr) (m : ReelMsg) (s : State) : takeReel src m s
    = if 15 < m.reel.toNat ∨ m.badLength = true then malformedReel s
      else if (s.reel m.reel.toNat).cfg = none then unconfiguredReel s
      else m.taken (s.ingestFrame src typeReel m.content) s := by
  cases m <;> rfl

theorem exec_segmentOpen (src : Addr) (reel : Byte) (seq len : Word32) (s : State) :
    exec (.segmentOpen src reel seq len) s = event (fun s => takeReel src (.segOpen reel seq len) (fromUplink s)) s := rfl

theorem exec_segmentClose (src : Addr) (reel : Byte) (seq : Word32) (s : State) :
    exec (.segmentClose src reel seq) s = event (fun s => takeReel src (.segClose reel seq) (fromUplink s)) s := rfl

theorem exec_segmentData_sized (src : Addr) (reel : Byte) (seq offset : Word32) {data : List Byte} (h1 : 1 ≤ data.length)
    (h2 : data.length ≤ 1400) (s : State) : exec (.segmentData src reel seq offset data) s
      = event (fun s => takeReel src (.segData reel seq offset data) (fromUplink s)) s := by
  rw [exec_segmentData]
  refine event_congr (if_neg ?_)
  rintro (rfl | h)
  · exact absurd h1 (by decide)
  · exact absurd h2 (not_le.2 h)

section
variable {src : Addr} {m : ReelMsg}

theorem event_reel_malformed (hb : s.Between) (h : 15 < m.reel.toNat ∨ m.badLength = true) :
    event (fun s => takeReel src m (fromUplink s)) s = .next (malformedReel (fromUplink s)).ended := by
  have hrun : takeReel src m (fromUplink s) = malformedReel (fromUplink s) := (takeReel_eq src m _).trans (if_pos h)
  rw [event_quiet (by rw [hrun]; exact hb.1) (by rw [hrun]; exact hb.2), hrun]

theorem event_reel_unconfigured (hb : s.Between) (hr : m.reel.toNat ≤ 15) (hl : m.badLength = false)
    (hc : (s.reel m.reel.toNat).cfg = none) :
    event (fun s => takeReel src m (fromUplink s)) s = .next (unconfiguredReel (fromUplink s)).ended := by
  have hrun : takeReel src m (fromUplink s) = unconfiguredReel (fromUplink s) :=
    (takeReel_eq src m _).trans ((if_neg (by rw [hl]; simp; omega)).trans (if_pos hc))
  rw [event_quiet (by rw [hrun]; exact hb.1) (by rw [hrun]; exact hb.2), hrun]

theorem takeReel_configured {c : ReelCfg} (hr : m.reel.toNat ≤ 15) (hl : m.badLength = false)
    (hc : (s.reel m.reel.toNat).cfg = some c) : takeReel src m s = m.taken (s.ingestFrame src typeReel m.content) s :=
  (takeReel_eq src m s).trans ((if_neg (by rw [hl]; simp; omega)).trans (if_neg (by rw [hc]; exact Option.some_ne_none c)))
end

theorem badLength_segOpen {reel : Byte} {seq len : Word32} :
    (ReelMsg.segOpen reel seq len).badLength = false ↔ 1 ≤ len.toNat ∧ len.toNat ≤ 262144 := by
  unfold ReelMsg.badLength
  rw [decide_eq_false_iff_not]
  omega

/-! ### Frames to the management address turned away (R167, R168) -/

theorem takeManagementFrame_otherType {etype : Half} (h : etype ≠ typeManagement) (src : Addr) (content : List Byte) (s : State) :
    takeManagementFrame src etype content s = s.modMgmtCtrs (fun k => { k with nonManagement := bump k.nonManagement }) :=
  if_pos h

theorem takeManagementFrame_short {content : List Byte} (h : content.length < 7) (src : Addr) (s : State) :
    takeManagementFrame src typeManagement content s = s.modMgmtCtrs (fun k => { k with short := bump k.short }) :=
  (if_neg (not_not.2 rfl)).trans (if_pos h)

end Sys2Proof.Machine

/-- Settles O39: the checks of each kind of frame come before anything else is done with it. -/
theorem uplinkFramesAreTurnedAway : Obligations.UplinkFramesAreTurnedAway := by
  intro s src hb heard bad none'
  refine ⟨fun etype content h => ?_, fun content h => ?_, fun etype content h => ?_, fun reel seq len h => ?_,
    fun reel seq offset data h => ?_, fun reel seq h => ?_, fun reel hr hc => ⟨fun seq len h1 h2 => ?_,
      fun seq offset data h1 h2 => ?_, fun seq => ?_⟩⟩
  · have hrun := takeManagementFrame_otherType h src content (fromUplink s)
    rw [exec_managementFrame, event_quiet (by rw [hrun]; exact hb.1) (by rw [hrun]; exact hb.2), hrun]
    rfl
  · have hrun := takeManagementFrame_short h src (fromUplink s)
    rw [exec_managementFrame, event_quiet (by rw [hrun]; exact hb.1) (by rw [hrun]; exact hb.2), hrun]
    rfl
  · have hrun : takeReelFrame src etype content (fromUplink s) = malformedReel (fromUplink s) := by
      unfold takeReelFrame
      rw [h]
    rw [exec_malformedReelFrame, event_quiet (by rw [hrun]; exact hb.1) (by rw [hrun]; exact hb.2), hrun]
    rfl
  · exact (exec_segmentOpen src reel seq len s).trans
      (event_reel_malformed hb (m := .segOpen reel seq len) (h.imp_right decide_eq_true))
  · by_cases hd : data = [] ∨ 1400 < data.length
    · have hrun : (if data = [] ∨ Config.frameData < data.length then malformedReel (fromUplink s)
          else takeReel src (.segData reel seq offset data) (fromUplink s)) = malformedReel (fromUplink s) := if_pos hd
      rw [exec_segmentData, event_quiet (by rw [hrun]; exact hb.1) (by rw [hrun]; exact hb.2), hrun]
      rfl
    · rw [not_or, not_lt] at hd
      rw [exec_segmentData_sized src reel seq offset (List.length_pos_of_ne_nil hd.1) hd.2]
      exact event_reel_malformed hb (m := .segData reel seq offset data)
        (.inl (h.resolve_right (by rw [not_or, not_lt]; exact hd)))
  · exact (exec_segmentClose src reel seq s).trans (event_reel_malformed hb (m := .segClose reel seq) (.inl h))
  · exact (exec_segmentOpen src reel seq len s).trans
      (event_reel_unconfigured hb (m := .segOpen reel seq len) hr (badLength_segOpen.2 ⟨h1, h2⟩) hc)
  · exact (exec_segmentData_sized src reel seq offset h1 h2 s).trans
      (event_reel_unconfigured hb (m := .segData reel seq offset data) hr rfl hc)
  · exact (exec_segmentClose src reel seq s).trans (event_reel_unconfigured hb (m := .segClose reel seq) hr rfl hc)
end

section
/-! Reels and slots changed one after another, and a reel's range configured, removed and reset (R139, R140). -/

set_option Elab.async false

open Sys2Proof

namespace Sys2Proof.Machine

variable {s t u : State}

/-! ### Reels and slots changed and read back -/

theorem reel_ne_of_cfg {x : Reel} {c : ReelCfg} (h : x.cfg = some c) : x ≠ {} := fun hx => by rw [hx] at h; cases h

theorem slot_ne_of_state {x : Slot} (h : x.state ≠ .free) : x ≠ {} := fun hx => h (congrArg Slot.state hx)

theorem reel_setReel {r : Nat} {v : Reel} (h : v ≠ {} ∨ Table.sorted s.replay.reels = true) (q : Nat) :
    (s.setReel r v).reel q = if q = r then v else s.reel q := by
  split
  · next hq => subst hq; exact h.elim Table.get_set_of_ne fun hs => Table.get_set_self hs v
  · next hq => exact Table.get_set_ne hq v _

theorem slot_setSlot {n : Nat} {v : Slot} (h : v ≠ {} ∨ Table.sorted s.replay.slots = true) (k : Nat) :
    (s.setSlot n v).slot k = if k = n then v else s.slot k := by
  split
  · next hk => subst hk; exact h.elim Table.get_set_of_ne fun hs => Table.get_set_self hs v
  · next hk => exact Table.get_set_ne hk v _

theorem slot_setSlot_ne {n k : Nat} (h : k ≠ n) (v : Slot) : (s.setSlot n v).slot k = s.slot k := Table.get_set_ne h v _

theorem setReel_setReel {r : Nat} {v w : Reel} (hv : v ≠ {}) (hw : w ≠ {}) : (s.setReel r v).setReel r w = s.setReel r w := by
  unfold State.setReel
  simp only [set_set_of_ne _ _ hv hw]

theorem setSlot_setSlot {n : Nat} {v w : Slot} (hv : v ≠ {}) (hw : w ≠ {}) : (s.setSlot n v).setSlot n w = s.setSlot n w := by
  unfold State.setSlot
  simp only [set_set_of_ne _ _ hv hw]

theorem setSlot_setReel {r n : Nat} {v : Reel} {x : Slot} :
    (s.setReel r v).setSlot n x = (s.setSlot n x).setReel r v := rfl

/-- A configured reel whose descriptor and counters change is one change of the reel. -/
theorem modReelCtrs_modReelCfg {r : Nat} {c : ReelCfg} (hc : (s.reel r).cfg = some c) (f : ReelCfg → ReelCfg)
    (g : ReelCtrs → ReelCtrs) :
    (s.modReelCfg r f).modReelCtrs r g = s.setReel r { cfg := some (f c), ctrs := g (s.reel r).ctrs } := by
  have hmid : s.modReelCfg r f = s.setReel r { cfg := some (f c), ctrs := (s.reel r).ctrs } := by
    unfold State.modReelCfg
    rw [hc]
    rfl
  have hne (k : ReelCtrs) : ({ cfg := some (f c), ctrs := k } : Reel) ≠ {} := reel_ne_of_cfg rfl
  unfold State.modReelCtrs
  rw [hmid, reel_setReel (.inl (hne _)), if_pos rfl, setReel_setReel (hne _) (hne _)]

/-! ### Slots of a range changed in turn -/

/-- The table of slots once `f` has changed the slots of `l`. -/
def slotsChanged (f : Slot → Slot) (l : List Nat) (t : Table Slot) : Table Slot :=
  l.foldl (fun t n => t.set {} n (f (t.get {} n))) t

theorem foldl_modSlot (f : Slot → Slot) (l : List Nat) (s : State) : l.foldl (fun s n => s.modSlot n f) s
    = { s with replay := { s.replay with slots := slotsChanged f l s.replay.slots } } := by
  induction l generalizing s with
  | nil => rfl
  | cons n l ih => rw [List.foldl_cons, ih]; rfl

theorem wf_slotsChanged (f : Slot → Slot) (l : List Nat) {t : Table Slot} (ht : t.wf {} = true) :
    (slotsChanged f l t).wf {} = true := by
  induction l generalizing t with
  | nil => exact ht
  | cons n l ih => exact ih (Table.wf_set ht)

theorem get_slotsChanged (f : Slot → Slot) {l : List Nat} (hl : l.Nodup) {t : Table Slot} (ht : t.wf {} = true) (k : Nat) :
    (slotsChanged f l t).get {} k = if k ∈ l then f (t.get {} k) else t.get {} k := by
  induction l generalizing t with
  | nil => rfl
  | cons n l ih =>
    obtain ⟨hn, hl⟩ := List.nodup_cons.1 hl
    have hstep := ih hl (Table.wf_set (k := n) (v := f (t.get {} n)) ht)
    unfold slotsChanged at hstep ⊢
    rw [List.foldl_cons, hstep]
    by_cases hk : k = n
    · subst hk
      simp [hn, Table.get_set_self (Table.wf_sorted ht)]
    · simp [hk, Table.get_set_ne hk]

theorem mem_slots {c : ReelCfg} {n : Nat} : n ∈ c.slots ↔ c.first ≤ n ∧ n < c.first + c.count := by
  unfold ReelCfg.slots
  simp only [List.mem_map, List.mem_range]
  constructor
  · rintro ⟨i, hi, rfl⟩
    omega
  · intro h
    exact ⟨n - c.first, by omega, by omega⟩

theorem nodup_slots (c : ReelCfg) : c.slots.Nodup := List.nodup_range.map fun _ _ h => Nat.add_left_cancel h

/-! ### What no subscription and no delivery leave to do -/

theorem abandonReel_none (h : s.replay.deliveries = []) (r : Nat) : abandonReel r s = s := by
  unfold abandonReel State.deliveriesWhere
  rw [h]
  rfl

theorem slotsIn_zero {x : Reel} {st : SlotState} (h : ∀ c, x.cfg = some c → ∀ n, c.first ≤ n → n < c.first + c.count →
    (s.slot n).state ≠ st) : s.slotsIn x st = 0 := by
  unfold State.slotsIn
  split
  · rfl
  · next c hc =>
    rw [List.length_eq_zero_iff, List.filter_eq_nil_iff]
    intro n hn
    obtain ⟨hlo, hhi⟩ := mem_slots.1 hn
    simpa using h c hc n hlo hhi

/-! ### The operations of REEL_CONFIG and REEL_RESET, as changes of the two tables -/

/-- The state whose reels and slots are those given. -/
def State.withReels (s : State) (reels : Table Reel) (slots : Table Slot) : State :=
  { s with replay := { s.replay with reels := reels, slots := slots } }

theorem reel_withReels {r : Nat} {v : Reel} (h : v ≠ {} ∨ Table.sorted s.replay.reels = true) (slots : Table Slot) (q : Nat) :
    (s.withReels (s.replay.reels.set {} r v) slots).reel q = if q = r then v else s.reel q := reel_setReel h q

theorem slot_withReels {f : Slot → Slot} {c : ReelCfg} {reels : Table Reel} (h : Table.wf ({} : Slot) s.replay.slots = true) (n : Nat) :
    (s.withReels reels (slotsChanged f c.slots s.replay.slots)).slot n
      = if c.first ≤ n ∧ n < c.first + c.count then f (s.slot n) else s.slot n := by
  refine (get_slotsChanged f (nodup_slots c) h n).trans ?_
  simp only [mem_slots]
  rfl

/-- A slot freed from its reel (R139). -/
def Slot.freed (x : Slot) : Slot := { x.discarded with reel := none }

theorem freeRange_unconfigured {r : Nat} (h : (s.reel r).cfg = none) : freeRange r s = s := by
  unfold freeRange
  rw [h]

theorem freeRange_configured {r : Nat} {c : ReelCfg} (hc : (s.reel r).cfg = some c) (hd : s.replay.deliveries = []) :
    freeRange r s = s.withReels (s.replay.reels.set {} r { s.reel r with cfg := none })
      (slotsChanged Slot.freed c.slots s.replay.slots) := by
  have hfree : (fun (s : State) n => freeSlotOf n s) = fun s n => s.modSlot n Slot.freed := rfl
  unfold freeRange
  rw [hc]
  simp only [abandonReel_none hd, hfree, foldl_modSlot]
  rfl

theorem takeRange_eq (r first count : Nat) (s : State) : takeRange r first count s
    = s.withReels (s.replay.reels.set {} r { s.reel r with cfg := some { first := first, count := count, writePos := first } })
      (slotsChanged (fun x => { x with reel := some r })
        ({ first := first, count := count, writePos := first } : ReelCfg).slots s.replay.slots) := by
  unfold takeRange
  simp only [foldl_modSlot]
  rfl

theorem resetReel_unridden {r : Nat} (c : ReelCfg) (hd : s.replay.deliveries = []) (hsub : s.subscribersOf r = []) :
    resetReel r c s = s.withReels
      (s.replay.reels.set {} r { s.reel r with cfg := some { first := c.first, count := c.count, writePos := c.first } })
      (slotsChanged Slot.discarded c.slots s.replay.slots) := by
  have hdiscard : (fun (s : State) n => discardSlot n s) = fun s n => s.modSlot n Slot.discarded := rfl
  unfold resetReel
  simp only [hsub, List.foldl_nil, abandonReel_none hd, hdiscard, foldl_modSlot, List.length_nil, bumpBy_zero]
  rfl

/-! ### The two directives -/

section
variable {reel : Byte} {first count : Half}

/-- REEL_CONFIG of a reel without subscriptions, none of whose slots is FILLING or WRITING (R139). -/
theorem runReelConfig_free {remove : Bool} (hr : reel.toNat ≤ 15) (hsub : s.subscribersOf reel.toNat = [])
    (hslots : ∀ c, (s.reel reel.toNat).cfg = some c → ∀ n, c.first ≤ n → n < c.first + c.count →
      (s.slot n).state = .free ∨ (s.slot n).state = .ready)
    (hin : remove = false → 8 ≤ count.toNat ∧ count.toNat ≤ 1024 ∧ first.toNat ≤ 4095 ∧ first.toNat + count.toNat ≤ 4096
      ∧ s.rangeTaken reel.toNat first.toNat count.toNat = false) :
    runReelConfig reel first count (if remove then 1 else 0) s = answered .done
      (if remove then freeRange reel.toNat s else takeRange reel.toNat first.toNat count.toNat (freeRange reel.toNat s)) := by
  have hflag : flagOf (if remove then 1 else 0) = some remove := by cases remove <;> rfl
  have hrange : ¬ (15 < reel.toNat ∨ (remove = false ∧ (4095 < first.toNat ∨ count.toNat < 8 ∨ 1024 < count.toNat
      ∨ 4096 < first.toNat + count.toNat))) := by
    rintro (h | ⟨h, hbad⟩)
    · omega
    · obtain ⟨h1, h2, h3, h4, -⟩ := hin h
      omega
  have hfree : ¬ (remove = false ∧ s.rangeTaken reel.toNat first.toNat count.toNat = true) := by
    rintro ⟨h, htaken⟩
    rw [(hin h).2.2.2.2] at htaken
    cases htaken
  have hfilling : s.slotsIn (s.reel reel.toNat) .filling = 0 := slotsIn_zero fun c hc n hlo hhi => by
    rcases hslots c hc n hlo hhi with h | h <;> rw [h] <;> decide
  have hwriting : s.slotsIn (s.reel reel.toNat) .writing = 0 := slotsIn_zero fun c hc n hlo hhi => by
    rcases hslots c hc n hlo hhi with h | h <;> rw [h] <;> decide
  unfold runReelConfig
  simp only [hflag]
  rw [if_neg hrange, if_neg hfree, if_neg (by rw [hsub]; simp), if_neg (by rw [hfilling, hwriting]; exact lt_irrefl 0)]

theorem runReelReset_configured {c : ReelCfg} (hr : reel.toNat ≤ 15) (hc : (s.reel reel.toNat).cfg = some c) :
    runReelReset reel s = (some ⟨.done, be 2 (s.subscribersOf reel.toNat).length
      ++ be 2 (s.slotsIn (s.reel reel.toNat) .ready)⟩, resetReel reel.toNat c s) := by
  unfold runReelReset
  simp only
  rw [if_neg (by omega), hc]
end

/-- A directive that changes reels and slots alone. -/
theorem exec_withReels {i : Instr} {src : Addr} {tag k : Half} {d : Directive} {st : Status} {body : List Byte}
    {reels : Table Reel} {slots : Table Slot} (hs : s.Ready src) (hd : i.directive = some ⟨src, tag, d⟩) (hk : d.kind = k)
    (hw : i.wf = true) (hrun : runDirective d (s.queued ⟨src, tag, d⟩)
      = (some ⟨st, body⟩, (s.queued ⟨src, tag, d⟩).withReels reels slots)) :
    exec i s = .next ((s.withReels reels slots).concluded src k tag st body) :=
  exec_concluded (v := s.withReels reels slots) hs hd hk hw hrun rfl rfl

end Sys2Proof.Machine

open Sys2Proof.Machine

/-- Settles O35: both directives change the reel's entry and the slots of its range, each slot once. -/
theorem reelsAreConfiguredAndReset : Obligations.ReelsAreConfiguredAndReset := by
  intro s src tag reel hs hr hd hsub hslots r
  refine ⟨fun first count hc h8 h1024 hfirst hend htaken => ?_, fun first count hc => ?_, ?_, fun c hc => ?_⟩
  · have hrun (e : MgmtEntry) := runReelConfig_free (s := s.queued e) (first := first) (count := count) (remove := false) hr hsub
      (fun c h => by rw [show ((s.queued e).reel reel.toNat).cfg = none from hc] at h; cases h)
      (fun _ => ⟨h8, h1024, hfirst, hend, htaken⟩)
    refine ⟨s.withReels _ _, exec_withReels hs rfl rfl rfl ((hrun _).trans ?_), reel_withReels (.inl (reel_ne_of_cfg rfl)) _,
      slot_withReels (f := fun x => { x with reel := some r })
        (c := { first := first.toNat, count := count.toNat, writePos := first.toNat }) hslots, rfl⟩
    rw [freeRange_unconfigured (s := s.queued _) hc, takeRange_eq]
    rfl
  · have hrun (e : MgmtEntry) := runReelConfig_free (s := s.queued e) (first := first) (count := count) (remove := true) hr hsub
      (fun c h => by rw [show ((s.queued e).reel reel.toNat).cfg = none from hc] at h; cases h) (fun h => by cases h)
    refine exec_unchanged hs rfl rfl rfl ((hrun _).trans ?_)
    rw [if_pos rfl, freeRange_unconfigured (s := s.queued _) hc]
    rfl
  · intro c first count remove hc hreels hstates hin freed ring
    have hrun (e : MgmtEntry) := runReelConfig_free (s := s.queued e) (first := first) (count := count) (remove := remove) hr hsub
      (fun c' h n hlo hhi => by
        obtain rfl : c = c' := Option.some.inj (hc.symm.trans h)
        exact hstates n hlo hhi)
      hin
    have hfree (e : MgmtEntry) := freeRange_configured (s := s.queued e) hc hd
    let t := s.withReels (s.replay.reels.set {} r { s.reel r with cfg := none }) (slotsChanged Slot.freed c.slots s.replay.slots)
    have hreel (q : Nat) : t.reel q = if q = r then { s.reel r with cfg := none } else s.reel q :=
      reel_withReels (.inr hreels) _ q
    have hslot (n : Nat) : t.slot n = freed n := slot_withReels hslots n
    cases remove with
    | true =>
      refine ⟨t, exec_withReels hs rfl rfl rfl ((hrun _).trans ?_), hreel, hslot, rfl⟩
      rw [if_pos rfl, hfree]
      rfl
    | false =>
      let fresh : ReelCfg := { first := first.toNat, count := count.toNat, writePos := first.toNat }
      refine ⟨t.withReels (t.replay.reels.set {} r { t.reel r with cfg := some fresh })
        (slotsChanged (fun x => { x with reel := some r }) fresh.slots t.replay.slots),
        exec_withReels hs rfl rfl rfl ((hrun _).trans ?_), fun q => ?_, fun n => ?_, rfl⟩
      · rw [if_neg Bool.false_ne_true, hfree, takeRange_eq]
        rfl
      · rw [reel_withReels (.inl (reel_ne_of_cfg rfl)), hreel, hreel, if_pos rfl]
        split <;> rfl
      · rw [slot_withReels (wf_slotsChanged _ _ hslots), hslot]
        simp only [true_and]
        rfl
  · have hrun (e : MgmtEntry) := runReelReset_configured (s := s.queued e) hr hc
    refine ⟨s.withReels _ _, exec_withReels hs rfl rfl rfl ((hrun _).trans ?_), reel_withReels (.inl (reel_ne_of_cfg rfl)) _,
      slot_withReels (f := Slot.discarded) (c := c) hslots, rfl⟩
    rw [resetReel_unridden (s := s.queued _) c hd hsub, show (s.queued _).subscribersOf reel.toNat = [] from hsub]
    rfl
end

section
/-! SEGMENT_OPEN (R132, R133), SEGMENT_DATA (R135) and SEGMENT_CLOSE (R137, R138) of a configured reel. -/

set_option Elab.async false

open Sys2Proof

namespace Sys2Proof.Machine

variable {s t u : State} {r : Nat} {c : ReelCfg}

/-! ### Events of reel frames -/

/-- A reel frame of a configured reel whose own effect leaves nothing to follow. -/
theorem event_reel_taken {src : Addr} {m : ReelMsg} (hb : s.Between) (hr : m.reel.toNat ≤ 15) (hl : m.badLength = false)
    (hc : (s.reel m.reel.toNat).cfg = some c)
    (hrun : m.taken (s.ingestFrame src typeReel m.content) (fromUplink s) = t) (hev : t.ev = s.ev) (hm : t.mgmt = s.mgmt) :
    event (fun s => takeReel src m (fromUplink s)) s = .next t.ended := by
  have htake : takeReel src m (fromUplink s) = t := (takeReel_configured (s := fromUplink s) hr hl hc).trans hrun
  refine (event_quiet ?_ ?_).trans (by rw [htake])
  · rw [htake]
    unfold State.Quiet
    rw [hev]
    exact hb.1
  · rw [htake]
    unfold State.Settled
    rw [hm]
    exact hb.2

theorem takeOccurrence_ev (o : Occurrence) (s : State) : (takeOccurrence o s).ev = s.ev := by
  obtain ⟨tx, e, h⟩ := takeOccurrence_only o s
  rw [h]

theorem takeOccurrence_replay (o : Occurrence) (s : State) : (takeOccurrence o s).replay = s.replay := by
  obtain ⟨tx, e, h⟩ := takeOccurrence_only o s
  rw [h]

theorem notice_keeps_ev (k : NoticeKind) (b : List Byte) (s : State) : (notice k b s).ev = s.ev := by
  obtain ⟨tx, es, h⟩ := notice_only k b s
  rw [h]

theorem notice_keeps_stations (k : NoticeKind) (b : List Byte) (s : State) : (notice k b s).stations = s.stations := by
  obtain ⟨tx, es, h⟩ := notice_only k b s
  rw [h]

theorem takeOccurrence_reel (o : Occurrence) (s : State) (r : Nat) : (takeOccurrence o s).reel r = s.reel r := by
  unfold State.reel
  rw [takeOccurrence_replay]

theorem takeOccurrence_slot (o : Occurrence) (s : State) (n : Nat) : (takeOccurrence o s).slot n = s.slot n := by
  unfold State.slot
  rw [takeOccurrence_replay]

/-! ### The slot an accepted SEGMENT_OPEN takes (R133) -/

/-- The slot at the write position of reel `r`, whose descriptor is `c`, is FILLING for a sequence, and the ring has moved on. -/
def State.slotTaken (s : State) (r : Nat) (c : ReelCfg) (seq len : Nat) : State :=
  (s.setSlot c.writePos { s.slot c.writePos with
    state := .filling, seq := some seq, length := some len, received := some 0, outstanding := 0 }).setReel r
    { cfg := some { c with filling := some c.writePos, lastOpened := some seq, writePos := c.next }
      ctrs := { (s.reel r).ctrs with opens := bump (s.reel r).ctrs.opens } }

/-- With no FILLING slot, the slot is taken from what taking the write position leaves, `t`; the descriptor there is `c'`. -/
theorem takeSlotFor_unfilled {c' : ReelCfg} (hc : (s.reel r).cfg = some c) (hf : c.filling = none)
    (ht : takeWriteSlot r c.writePos s = t) (hc' : (t.reel r).cfg = some c') (hw : c'.writePos = c.writePos)
    (seq len : Nat) : takeSlotFor r seq len s = t.slotTaken r c' seq len := by
  unfold takeSlotFor State.slotTaken
  simp only [hc, hf, ht]
  rw [hw]
  exact modReelCtrs_modReelCfg (s := t.modSlot c.writePos _) hc' _ _

theorem takeSlotFor_free (hc : (s.reel r).cfg = some c) (hf : c.filling = none) (hs : (s.slot c.writePos).state = .free)
    (seq len : Nat) : takeSlotFor r seq len s = s.slotTaken r c seq len := by
  refine takeSlotFor_unfilled hc hf ?_ hc rfl seq len
  unfold takeWriteSlot
  rw [hs]

/-! ### The errors of ingest (R132, R133, R137) -/

theorem ingestSequence_now (hd : s.ev.deferring = false) (frame : List Byte) :
    ingestSequence frame s = takeOccurrence (anError .ingestSequence none frame) s := occur_now hd _

theorem ingestIncomplete_now (hd : s.ev.deferring = false) (r : Nat) (frame : Option (List Byte)) :
    ingestIncomplete r frame s = takeOccurrence { cls := .ingestIncomplete, frame := frame }
      (s.modReelCtrs r (fun k => { k with incomplete := bump k.incomplete })) :=
  occur_now (s := s.modReelCtrs r _) hd _

/-! ### The checks of SEGMENT_OPEN (R132) -/

section
variable {seq len l : Nat} {frame : List Byte}

theorem segmentOpen_refused (hd : s.ev.deferring = false) (hc : (s.reel r).cfg = some c) (hl : c.lastOpened = some l) (h : seq ≤ l) :
    segmentOpen r seq len frame s = takeOccurrence (anError .ingestSequence none frame)
      (s.modReelCtrs r (fun k => { k with refusedOpens := bump k.refusedOpens })) := by
  unfold segmentOpen
  simp only [hc, Option.bind_some, hl]
  rw [if_pos h]
  exact ingestSequence_now (s := s.modReelCtrs r _) hd frame

theorem segmentOpen_next (hc : (s.reel r).cfg = some c)
    (h : c.lastOpened = none ∨ ∃ l, c.lastOpened = some l ∧ seq = l + 1) :
    segmentOpen r seq len frame s = takeSlotFor r seq len s := by
  unfold segmentOpen
  simp only [hc, Option.bind_some]
  rcases h with h | ⟨l, h, rfl⟩
  · rw [h]
  · rw [h]
    simp only
    rw [if_neg (by omega)]
    exact if_pos trivial

theorem segmentOpen_gap (hd : s.ev.deferring = false) (hc : (s.reel r).cfg = some c) (hl : c.lastOpened = some l)
    (h : l + 1 < seq) : segmentOpen r seq len frame s = takeSlotFor r seq len (takeOccurrence (anError .ingestSequence none frame)
      (s.modReelCtrs r (fun k => { k with missing := bumpBy k.missing (seq - l - 1) }))) := by
  unfold segmentOpen
  simp only [hc, Option.bind_some, hl]
  rw [if_neg (by omega), if_neg (by omega)]
  exact congrArg _ (ingestSequence_now (s := s.modReelCtrs r _) hd frame)
end

theorem cfg_modReelCtrs (hc : (s.reel r).cfg = some c) (f : ReelCtrs → ReelCtrs) : ((s.modReelCtrs r f).reel r).cfg = some c := by
  have hread := reel_setReel (s := s) (r := r) (v := { s.reel r with ctrs := f (s.reel r).ctrs })
    (.inl (reel_ne_of_cfg (c := c) hc)) r
  exact (congrArg Reel.cfg (hread.trans (if_pos rfl))).trans hc

end Sys2Proof.Machine

open Sys2Proof.Machine

/-- Settles O40: the sequence is checked against the last opened one, and the FREE slot at the write position is taken. -/
theorem segmentOpenTakesSlot : Obligations.SegmentOpenTakesSlot := by
  intro s src reel seq len c hb hr h1 h2 hc r heard occ take
  have hd : heard.ev.deferring = false := quiet_deferring hb.1
  have hrun {t : State} (ht : segmentOpen r seq.toNat len.toNat (s.ingestFrame src typeReel (ReelMsg.segOpen reel seq len).content)
      heard = t) (hev : t.ev = s.ev) (hm : t.mgmt = s.mgmt) : exec (.segmentOpen src reel seq len) s = .next t.ended :=
    (exec_segmentOpen src reel seq len s).trans (event_reel_taken hb (m := .segOpen reel seq len) hr
      (badLength_segOpen.2 ⟨h1, h2⟩) hc ht hev hm)
  refine ⟨fun l hl hle => hrun (segmentOpen_refused hd hc hl hle) (takeOccurrence_ev _ _) (takeOccurrence_calm _ _).mgmt,
    fun hf hs => ⟨fun hnext => hrun ?_ rfl rfl, fun l hl hgap => hrun (t := take _) ?_ (takeOccurrence_ev _ _) (takeOccurrence_calm _ _).mgmt⟩⟩
  · rw [segmentOpen_next (s := heard) (c := c) hc hnext, takeSlotFor_free (s := heard) hc hf hs]
    rfl
  · rw [segmentOpen_gap hd hc hl hgap, takeSlotFor_free (c := c) _ hf _]
    · rfl
    · rw [takeOccurrence_reel]
      exact cfg_modReelCtrs (s := heard) hc _
    · rw [takeOccurrence_slot]
      exact hs

namespace Sys2Proof.Machine

variable {s t u : State} {r : Nat} {c : ReelCfg}

/-! ### SEGMENT_DATA (R135) -/

section
variable {seq f n len : Nat}

/-- No slot of the reel is FILLING with this sequence (R135, R137). -/
theorem fillingFor_none (hc : (s.reel r).cfg = some c)
    (h : c.filling = none ∨ ∃ f, c.filling = some f ∧ (s.slot f).seq ≠ some seq) : s.fillingFor r seq = none := by
  unfold State.fillingFor
  rw [hc, Option.bind_some]
  rcases h with h | ⟨f, h, hne⟩
  · rw [h]
  · rw [h]
    exact if_neg hne

theorem fillingFor_some (hc : (s.reel r).cfg = some c) (hf : c.filling = some f) (hseq : (s.slot f).seq = some seq) :
    s.fillingFor r seq = some f := by
  unfold State.fillingFor
  rw [hc, Option.bind_some, hf]
  exact if_pos hseq

theorem segmentData_noFilling (h : s.fillingFor r seq = none) (offset : Nat) (data : List Byte) :
    segmentData r seq offset data s = s.modReelCtrs r (fun k => { k with noFilling := bump k.noFilling }) := by
  unfold segmentData
  rw [h]

/-- Data for the FILLING slot, by its offset, its end and the writes outstanding (R135). -/
theorem segmentData_filling (h : s.fillingFor r seq = some f) (hn : (s.slot f).received = some n)
    (hlen : (s.slot f).length = some len) (offset : Nat) (data : List Byte) : segmentData r seq offset data s
    = if offset ≠ n then s.modReelCtrs r (fun k => { k with outOfOrder := bump k.outOfOrder })
      else if len < offset + data.length then s.modReelCtrs r (fun k => { k with outOfBounds := bump k.outOfBounds })
      else if 128 ≤ s.replay.outstanding then s.modReelCtrs r (fun k => { k with overrun := bump k.overrun })
      else (((s.modSlot f (fun x => { x with received := some (offset + data.length), outstanding := x.outstanding + 1 })).modReplay
          (fun p => { p with outstanding := p.outstanding + 1 })).modReelCtrs r
          (fun k => { k with accepted := bump k.accepted })).sendRequest (.ingest f offset data (s.slot f).generation) := by
  unfold segmentData
  simp only [h, hn, hlen, Option.getD_some, ne_eq, Option.some.injEq]

/-! ### SEGMENT_CLOSE (R137, R138) -/

theorem segmentClose_stray (h : s.fillingFor r seq = none) (frame : List Byte) : segmentClose r seq frame s
    = s.modReelCtrs r (fun k => { k with strayCloses := bump k.strayCloses }) := by
  unfold segmentClose
  rw [h]

theorem segmentClose_incomplete (hd : s.ev.deferring = false) (hc : (s.reel r).cfg = some c) (h : s.fillingFor r seq = some f)
    (hn : (s.slot f).received = some n) (hlen : (s.slot f).length = some len) (hlt : n < len) (frame : List Byte) :
    segmentClose r seq frame s = takeOccurrence (anError .ingestIncomplete none frame)
      ((s.setSlot f (s.slot f).discarded).setReel r
        { cfg := some { c with filling := none }
          ctrs := { (s.reel r).ctrs with incomplete := bump (s.reel r).ctrs.incomplete } }) := by
  have hreel := modReelCtrs_modReelCfg (s := discardSlot f s) hc (fun c => { c with filling := none })
    (fun k => { k with incomplete := bump k.incomplete })
  unfold segmentClose
  simp only [h, hn, hlen, Option.getD_some]
  rw [if_pos hlt]
  exact (ingestIncomplete_now (s := discardSlot f (s.modReelCfg r _)) hd r _).trans (congrArg _ hreel)

/-- The slot at `f`, which all its data has reached, is WRITING, and no slot of the reel is FILLING (R137). -/
def State.closed (s : State) (r f : Nat) (c : ReelCfg) : State :=
  (s.setSlot f { s.slot f with state := .writing }).setReel r { s.reel r with cfg := some { c with filling := none } }

theorem segmentClose_written (hc : (s.reel r).cfg = some c) (h : s.fillingFor r seq = some f)
    (hn : (s.slot f).received = some n) (hlen : (s.slot f).length = some len) (hle : len ≤ n) (frame : List Byte) :
    segmentClose r seq frame s = if (s.slot f).outstanding = 0 then slotReady r f (s.closed r f c) else s.closed r f c := by
  have hfull : ¬ (s.slot f).received.getD 0 < (s.slot f).length.getD 0 := by
    rw [hn, hlen]
    exact not_lt.2 hle
  have hclosed : (s.modReelCfg r (fun c => { c with filling := none })).modSlot f (fun x => { x with state := .writing })
      = s.closed r f c := by
    unfold State.modReelCfg
    rw [hc]
    rfl
  unfold segmentClose
  simp only [h]
  rw [if_neg hfull, hclosed]

/-! ### A slot that becomes READY (R138) -/

/-- A slot that becomes READY now (R138). -/
def Slot.readyAt (x : Slot) (now : Time) : Slot :=
  { x with state := .ready, received := none, outstanding := 0, readyTime := some now }

theorem readyAt_ne (x : Slot) (now : Time) : x.readyAt now ≠ {} := slot_ne_of_state (fun h => by cases h)

/-- The slot at `f` is READY, and reel `r`, whose descriptor was `c`, counts it. -/
def State.madeReady (s : State) (r f : Nat) (c : ReelCfg) (n len : Nat) : State :=
  (s.setSlot f ((s.slot f).readyAt s.venueTime)).setReel r
    { cfg := some { c with newest := some n, oldest := if c.oldest = none then some n else c.oldest }
      ctrs := { (s.reel r).ctrs with
        ready := bump (s.reel r).ctrs.ready, readyBytes := bumpBy (s.reel r).ctrs.readyBytes len } }

/-- What INGEST_DONE carries (R138). -/
def ingestDoneBody (r f n len : Nat) (gen : Half) (now : Time) : List Byte :=
  be 1 r ++ be 4 n ++ be 2 f ++ be 2 gen.toNat ++ be 4 len ++ be 6 now.toNat

theorem ingestDone_eq (hseq : (s.slot f).seq = some n) (hlen : (s.slot f).length = some len) (r : Nat) :
    ingestDone r f s = notice .ingestDone (ingestDoneBody r f n len (s.slot f).generation s.venueTime) s := by
  unfold ingestDone ingestDoneBody
  simp only [hseq, hlen, Option.getD_some]

theorem madeReady_slot (s : State) (r f : Nat) (c : ReelCfg) (n len : Nat) :
    (s.madeReady r f c n len).slot f = (s.slot f).readyAt s.venueTime :=
  (slot_setSlot (s := s) (.inl (readyAt_ne _ _)) f).trans (if_pos rfl)

/-- What the slot was before, but for what READY keeps, does not matter. -/
theorem madeReady_setSlot {x : Slot} (hx : x ≠ {}) (hr : ∀ now, x.readyAt now = (s.slot f).readyAt now) (r : Nat) (c : ReelCfg)
    (n len : Nat) : (s.setSlot f x).madeReady r f c n len = s.madeReady r f c n len := by
  have hslot : (s.setSlot f x).slot f = x := (slot_setSlot (.inl hx) f).trans (if_pos rfl)
  unfold State.madeReady
  rw [hslot, hr, setSlot_setSlot hx (readyAt_ne _ _)]
  rfl

/-- What the reel's descriptor was before does not matter. -/
theorem madeReady_setReel {v : Reel} (hv : v ≠ {}) (hk : v.ctrs = (s.reel r).ctrs) (f : Nat) (c : ReelCfg) (n len : Nat) :
    (s.setReel r v).madeReady r f c n len = s.madeReady r f c n len := by
  have hreel : (s.setReel r v).reel r = v := (reel_setReel (.inl hv) r).trans (if_pos rfl)
  unfold State.madeReady
  rw [hreel, hk, setSlot_setReel, setReel_setReel hv (fun h => by cases congrArg Reel.cfg h)]
  rfl

theorem slotReady_eq (hc : (s.reel r).cfg = some c) (hseq : (s.slot f).seq = some n) (hlen : (s.slot f).length = some len) :
    slotReady r f s = wakeReel r (notice .ingestDone (ingestDoneBody r f n len (s.slot f).generation s.venueTime)
      (s.madeReady r f c n len)) := by
  have hreel : ((s.setSlot f ((s.slot f).readyAt s.venueTime)).modReelCfg r
      (fun c => { c with newest := some n, oldest := if c.oldest = none then some n else c.oldest })).modReelCtrs r
      (fun k => { k with ready := bump k.ready, readyBytes := bumpBy k.readyBytes len }) = s.madeReady r f c n len :=
    modReelCtrs_modReelCfg (s := s.setSlot f _) hc _ _
  have hslot := madeReady_slot s r f c n len
  have hdone := ingestDone_eq (s := s.madeReady r f c n len) (f := f) (n := n) (len := len) (by rw [hslot]; exact hseq)
    (by rw [hslot]; exact hlen) r
  rw [hslot] at hdone
  unfold slotReady
  simp only [hseq, hlen, Option.getD_some]
  exact congrArg (wakeReel r) ((congrArg (ingestDone r f) hreel).trans hdone)

/-- A closed slot with no write outstanding becomes READY (R137, R138). -/
theorem slotReady_closed (c : ReelCfg) (hseq : (s.slot f).seq = some n) (hlen : (s.slot f).length = some len) :
    slotReady r f (s.closed r f c) = wakeReel r (notice .ingestDone
      (ingestDoneBody r f n len (s.slot f).generation s.venueTime) (s.madeReady r f { c with filling := none } n len)) := by
  have hwriting : ({ s.slot f with state := .writing } : Slot) ≠ {} := slot_ne_of_state (fun h => by cases h)
  have hslot : (s.closed r f c).slot f = { s.slot f with state := .writing } :=
    (slot_setSlot (s := s) (.inl hwriting) f).trans (if_pos rfl)
  have hreel : ((s.closed r f c).reel r).cfg = some { c with filling := none } :=
    congrArg Reel.cfg ((reel_setReel (s := s.setSlot f _) (.inl (reel_ne_of_cfg rfl)) r).trans (if_pos rfl))
  have hready : (s.closed r f c).madeReady r f { c with filling := none } n len
      = s.madeReady r f { c with filling := none } n len :=
    (madeReady_setReel (s := s.setSlot f _) (v := { s.reel r with cfg := some { c with filling := none } })
      (reel_ne_of_cfg rfl) rfl f _ n len).trans
      (madeReady_setSlot hwriting (fun _ => rfl) r _ n len)
  rw [slotReady_eq hreel (by rw [hslot]; exact hseq) (by rw [hslot]; exact hlen), hready, hslot]
  rfl

/-- The stations of a reel that are IDLE, in order of handle (R158). -/
def State.idleOf (s : State) (reel : Nat) : List Nat :=
  (s.stations.filter (fun e => decide (∃ c ∈ e.2.sub, c.reel = reel ∧ c.rider = some .idle))).map Prod.fst

/-- An IDLE station seeks again, and is counted where it is IDLE no more (R158). -/
def wakeStation (s : State) (h : Nat) : State :=
  if (((seekAndTake true h s).station h).bind Station.sub).bind Sub.rider = some .idle then seekAndTake true h s
  else (seekAndTake true h s).modReplayCtrs (fun k => { k with wakes := bump k.wakes })

theorem wakeReel_eq (reel : Nat) (s : State) : wakeReel reel s = (s.idleOf reel).foldl wakeStation s := by
  unfold wakeReel State.idleOf
  refine congrArg (fun hs : List Nat => hs.foldl wakeStation s) (congrArg (List.map Prod.fst) (List.filter_congr fun e _ => ?_))
  cases e.2.sub <;> simp

/-- A READY segment wakes none where no station of its reel is IDLE (R158). -/
theorem wakeReel_none (h : ∀ e ∈ s.stations, ∀ b, e.2.sub = some b → ¬ (b.reel = r ∧ b.rider = some .idle)) :
    wakeReel r s = s := by
  have hnone : s.idleOf r = [] := by
    unfold State.idleOf
    rw [List.map_eq_nil_iff, List.filter_eq_nil_iff]
    intro e he
    rw [decide_eq_true_iff]
    rintro ⟨b, hb, hidle⟩
    exact h e he b hb hidle
  rw [wakeReel_eq, hnone]
  rfl
end

end Sys2Proof.Machine

open Sys2Proof.Machine

/-- Settles O41: the FILLING slot of the sequence takes the data or is closed, by what it has received and what is outstanding. -/
theorem segmentDataFillsSlot : Obligations.SegmentDataFillsSlot := by
  intro s src reel seq c hb hr hc r heard
  have hd : heard.ev.deferring = false := quiet_deferring hb.1
  refine ⟨fun offset data h1 h2 => ?_, ?_⟩
  · intro run
    have hrun {t : State} (ht : segmentData r seq.toNat offset.toNat data heard = t) (hev : t.ev = s.ev) (hm : t.mgmt = s.mgmt) :
        run = .next t.ended :=
      (exec_segmentData_sized src reel seq offset h1 h2 s).trans
        (event_reel_taken hb (m := .segData reel seq offset data) hr rfl hc ht hev hm)
    refine ⟨fun h => hrun (segmentData_noFilling (s := heard) (fillingFor_none hc h) _ _) rfl rfl, fun f n len hf hseq hn hlen => ?_⟩
    have hfill := segmentData_filling (s := heard) (fillingFor_some hc hf hseq) hn hlen offset.toNat data
    refine ⟨fun hne => hrun (hfill.trans (if_pos hne)) rfl rfl, fun heq hlt => hrun (hfill.trans ?_) rfl rfl,
      fun heq hle hover => hrun (hfill.trans ?_) rfl rfl, fun heq hle hfew => ?_⟩
    · exact (if_neg (not_not.2 heq)).trans (if_pos (heq ▸ hlt))
    · exact (if_neg (not_not.2 heq)).trans ((if_neg (by omega)).trans (if_pos hover))
    · intro s1
      refine hrun (hfill.trans ((if_neg (not_not.2 heq)).trans ((if_neg (by omega)).trans ((if_neg (not_le.2 hfew)).trans ?_)))) rfl rfl
      rw [heq]
      rfl
  · have hrun {t : State} (ht : segmentClose r seq.toNat (s.ingestFrame src typeReel (ReelMsg.segClose reel seq).content) heard = t)
        (hev : t.ev = s.ev) (hm : t.mgmt = s.mgmt) : exec (.segmentClose src reel seq) s = .next t.ended :=
      (exec_segmentClose src reel seq s).trans (event_reel_taken hb (m := .segClose reel seq) hr rfl hc ht hev hm)
    refine ⟨fun h => hrun (segmentClose_stray (s := heard) (fillingFor_none hc h) _) rfl rfl, fun f n len hf hseq hn hlen => ?_⟩
    intro run reelWith
    have hfill := fillingFor_some (s := heard) hc hf hseq
    refine ⟨fun hlt => hrun (segmentClose_incomplete hd hc hfill hn hlen hlt _) (takeOccurrence_ev _ _)
        (takeOccurrence_calm _ _).mgmt, fun hle hout => hrun ?_ rfl rfl, fun hle hout hst => hrun ?_ (notice_keeps_ev _ _ _)
        (notice_calm _ _ _).mgmt⟩
    · exact (segmentClose_written (s := heard) hc hfill hn hlen hle _).trans (if_neg hout.ne')
    · refine (segmentClose_written (s := heard) hc hfill hn hlen hle _).trans ((if_pos hout).trans ?_)
      rw [slotReady_closed (s := heard) c hseq hlen, wakeReel_none]
      · rfl
      · rw [notice_keeps_stations]
        intro e he
        exact absurd (hst ▸ he : e ∈ ([] : Table Station)) List.not_mem_nil
end

section
/-! The completions of the clip area: a chunk read (R153, R154) and an ingest write (R136, R138). -/

set_option Elab.async false

open Sys2Proof

namespace Sys2Proof.Machine

variable {s t u : State}

/-! ### The frames of a chunk (R153) -/

section
variable {src : Addr} {v : Delivery} {f : Frame}

theorem replayFrame_data (src : Addr) (v : Delivery) (offset : Nat) (data : List Byte) :
    (replayFrame src v offset data).payload.drop 13 = data := by
  have hlen : (be 1 v.reel ++ be 4 v.seq ++ be 4 offset ++ be 4 v.length).length = 13 := by simp
  exact List.drop_left' hlen

theorem replayFrame_length (src : Addr) (v : Delivery) (offset : Nat) (data : List Byte) :
    (replayFrame src v offset data).payload.length = 13 + data.length := by
  simp [replayFrame]
  omega

/-- A frame of a chunk is a replay frame with 1,400 bytes of data at most. -/
theorem mem_cutChunk {k offset : Nat} {data : List Byte} (h : f ∈ cutChunk src v k offset data) :
    ∃ off piece, f = replayFrame src v off piece ∧ piece.length ≤ 1400 := by
  induction k generalizing offset data with
  | zero => cases h
  | succ k ih =>
    cases data with
    | nil => cases h
    | cons b bs =>
      rcases List.mem_cons.1 h with h | h
      · exact ⟨_, _, h, List.length_take_le _ _⟩
      · exact ih h

/-- With a step for each byte, the frames of a chunk carry all its data, in order. -/
theorem cutChunk_data {k : Nat} (offset : Nat) {data : List Byte} (h : data.length ≤ k) :
    (cutChunk src v k offset data).flatMap (fun f => f.payload.drop 13) = data := by
  induction k generalizing offset data with
  | zero => exact (List.length_eq_zero_iff.1 (Nat.le_zero.1 h)).symm
  | succ k ih =>
    cases data with
    | nil => rfl
    | cons b bs =>
      have hrest : ((b :: bs).drop 1400).length ≤ k := by
        rw [List.length_drop]
        omega
      show (replayFrame src v offset ((b :: bs).take 1400)).payload.drop 13
        ++ (cutChunk src v k _ ((b :: bs).drop 1400)).flatMap _ = _
      rw [replayFrame_data, ih _ hrest, List.take_append_drop]

theorem cutChunk_cons {k : Nat} (offset : Nat) {data : List Byte} (hk : 1 ≤ k) (h : 1 ≤ data.length) :
    ∃ f fs, cutChunk src v k offset data = f :: fs := by
  obtain ⟨k, rfl⟩ := Nat.exists_eq_add_of_le' hk
  cases data with
  | nil => exact absurd h (by decide)
  | cons b bs => exact ⟨_, _, rfl⟩
end

/-! ### Completions (R162, R164) -/

/-- An event that leaves the event's own state and the directive queue as they were has nothing to follow. -/
theorem finish_unchanged (hb : s.Between) (hev : t.ev = s.ev) (hm : t.mgmt = s.mgmt) : finish t = t.ended := by
  refine finish_quiet ?_ ?_
  · unfold State.Quiet
    rw [hev]
    exact hb.1
  · unfold State.Settled
    rw [hm]
    exact hb.2

theorem setQueue_clip (m : RecMem) (k : ReqKind) (q : List Tagged) : (m.setQueue k q).clip = m.clip := by
  cases k <;> rfl

theorem grant_clip (m : RecMem) : m.grant.clip = m.clip := by
  unfold RecMem.grant
  split
  · split
    · rfl
    · exact setQueue_clip m _ _
  · rfl

section
variable {slot off len d : Nat} {m : Bool}

/-- The memory has granted its next request, the transfer having ended. -/
def State.memFreed (s : State) : State := { s with mem := ({ s.mem with transfer := none } : RecMem).grant }

theorem exec_chunkCompletion (ht : s.mem.transfer = some ⟨.chunk slot off len d, m⟩) : exec .clipChunkReadCompletion s
    = .next (finish (chunkCompleted ⟨.chunk slot off len d, m⟩ s.memFreed)) :=
  congrArg (fun u => Host.Outcome.next (finish u)) (completeTransfer_eq ht rfl [] chunkCompleted)

/-- The bytes of a write stand in the slot once its transfer has ended. -/
def State.clipWritten (s : State) (f off : Nat) (data : List Byte) : State :=
  { s with mem := { ({ s.mem with transfer := none } : RecMem).grant with
    clip := Memory.writeBytes s.mem.clip (f * 262144 + off) data } }

theorem exec_ingestCompletion {f : Nat} {data : List Byte} {gen : Half}
    (ht : s.mem.transfer = some ⟨.ingest f off data gen, m⟩) : exec .clipIngestWriteCompletion s
    = .next (finish (ingestCompleted ⟨.ingest f off data gen, m⟩ (s.clipWritten f off data))) := by
  have hwritten : { s with mem := ((({ s.mem with transfer := none } : RecMem).grant).disturb []).written (.ingest f off data gen) }
      = s.clipWritten f off data := by
    show ({ s with mem := { ({ s.mem with transfer := none } : RecMem).grant with
      clip := Memory.writeBytes ({ s.mem with transfer := none } : RecMem).grant.clip (f * 262144 + off) data } } : State) = _
    rw [grant_clip]
    rfl
  show event (completeTransfer .ingest [] ingestCompleted) s = _
  unfold event
  rw [completeTransfer_eq (k := .ingest) ht rfl, hwritten]

/-! ### A chunk read (R153, R154) -/

/-- The delivery holds these frames of the chunk read. -/
def Delivery.holding (v : Delivery) (frames : List Frame) : Delivery := { v with chunk := .held frames }

theorem chunkCompleted_held {v : Delivery} (hv : s.delivery d = some v) (hg : (s.slot slot).generation = v.generation) :
    chunkCompleted ⟨.chunk slot off len d, m⟩ s = offerHeld d (s.setDelivery d (v.holding
      (cutChunk s.ingestAddr v len off (Memory.readBytes s.mem.clip (slot * 262144 + off) len)))) := by
  unfold chunkCompleted
  simp only [hv]
  exact if_neg (not_not.2 hg)

theorem delivery_setDelivery (s : State) (d : Nat) (v : Delivery) : (s.setDelivery d v).delivery d = some v :=
  Table.find_put_self d v _

theorem setDelivery_setDelivery (s : State) (d : Nat) (v w : Delivery) :
    (s.setDelivery d v).setDelivery d w = s.setDelivery d w := by
  unfold State.setDelivery
  simp only [Table.put_put]

theorem modDelivery_some {v : Delivery} (hv : s.delivery d = some v) (f : Delivery → Delivery) :
    s.modDelivery d f = s.setDelivery d (f v) := by
  unfold State.modDelivery
  rw [hv]

/-- A delivery whose first frame is declined stalls with what it holds (R154). -/
theorem offerHeld_declined {v : Delivery} {f : Frame} {fs : List Frame} (hv : s.delivery d = some v)
    (hc : v.chunk = .held (f :: fs)) (ho : offer .declinable v.radio .replay f s = (.declined, t)) (ht : t.delivery d = some v)
    (hs : d ∉ t.replay.stalled) : offerHeld d s
      = (t.setDelivery d v).modReplay (fun p => { p with stalled := p.stalled ++ [d] }) := by
  have hleft : offerFrames d v.radio (f :: fs) s = (f :: fs, t) := by
    unfold offerFrames
    rw [ho]
  have hsame : ({ v with chunk := .held (f :: fs) } : Delivery) = v := by rw [← hc]
  have hcontains : ¬ (t.setDelivery d v).replay.stalled.contains d = true := by
    show ¬ t.replay.stalled.contains d = true
    rwa [List.contains_iff_mem]
  unfold offerHeld
  simp only [hv, hc, hleft]
  rw [if_pos (List.cons_ne_nil f fs), modDelivery_some ht, hsame, if_neg hcontains]

theorem place_replay_full {r : Nat} {f : Frame} (h : 3840 ≤ s.egress.buffers) : place s r .replay f = none :=
  place_noBuffer (decide_eq_false (not_lt.2 h))

/-- Egress has declined a frame (R154). -/
def State.declined (s : State) : State := { s with egress := { s.egress with declined := bump s.egress.declined } }

/-- With egress full, the frames of a chunk stay held, and its delivery stalls (R154). -/
theorem chunkCompleted_declined {v : Delivery} (hv : s.delivery d = some v) (hg : (s.slot slot).generation = v.generation)
    (hlen : 1 ≤ len) (hserve : s.inService v.radio = true) (hfull : 3840 ≤ s.egress.buffers) (hs : d ∉ s.replay.stalled) :
    chunkCompleted ⟨.chunk slot off len d, m⟩ s = (s.declined.setDelivery d (v.holding
      (cutChunk s.ingestAddr v len off (Memory.readBytes s.mem.clip (slot * 262144 + off) len)))).modReplay
      (fun p => { p with stalled := p.stalled ++ [d] }) := by
  rw [chunkCompleted_held hv hg]
  obtain ⟨f, fs, hcut⟩ := cutChunk_cons (src := s.ingestAddr) (v := v) (k := len) off hlen
    (data := Memory.readBytes s.mem.clip (slot * 262144 + off) len) (by rwa [length_readBytes])
  rw [hcut]
  refine (offerHeld_declined (s := s.setDelivery d (v.holding (f :: fs))) (delivery_setDelivery _ _ _) rfl
    (offer_declinable hserve (place_replay_full hfull)) (delivery_setDelivery _ _ _) hs).trans ?_
  exact congrArg (fun u : State => u.modReplay (fun p => { p with stalled := p.stalled ++ [d] }))
    (setDelivery_setDelivery s.declined d (v.holding (f :: fs)) (v.holding (f :: fs)))
end

/-! ### An ingest write (R136) -/

section
variable {f off : Nat} {data : List Byte} {gen : Half} {m : Bool}

/-- One write less is outstanding in the part. -/
def State.writeEnded (s : State) : State := s.modReplay (fun p => { p with outstanding := p.outstanding - 1 })

theorem ingestCompleted_discarded (hg : (s.slot f).generation ≠ gen) : ingestCompleted ⟨.ingest f off data gen, m⟩ s
    = s.writeEnded.modReplayCtrs (fun k => { k with discardedWrites := bump k.discardedWrites }) := if_pos hg

/-- The slot at `f` has one write less outstanding. -/
def State.slotWritten (s : State) (f : Nat) : State :=
  s.writeEnded.setSlot f { s.slot f with outstanding := (s.slot f).outstanding - 1 }

theorem slotWritten_slot (hst : (s.slot f).state ≠ .free) :
    (s.slotWritten f).slot f = { s.slot f with outstanding := (s.slot f).outstanding - 1 } :=
  (slot_setSlot (s := s.writeEnded) (v := { s.slot f with outstanding := (s.slot f).outstanding - 1 })
    (.inl (slot_ne_of_state hst)) f).trans (if_pos rfl)

/-- With its last write ended, a WRITING slot becomes READY (R138). -/
theorem ingestCompleted_taken (hg : (s.slot f).generation = gen) (hst : (s.slot f).state ≠ .free) :
    ingestCompleted ⟨.ingest f off data gen, m⟩ s
      = if (s.slot f).state = .writing ∧ (s.slot f).outstanding - 1 = 0
        then slotReady ((s.slot f).reel.getD 0) f (s.slotWritten f) else s.slotWritten f := by
  have htaken : ingestCompleted ⟨.ingest f off data gen, m⟩ s
      = if ((s.slotWritten f).slot f).state = .writing ∧ ((s.slotWritten f).slot f).outstanding = 0
        then slotReady (((s.slotWritten f).slot f).reel.getD 0) f (s.slotWritten f) else s.slotWritten f :=
    if_neg (not_not.2 hg)
  rw [htaken, slotWritten_slot hst]

theorem slotReady_slotWritten {r n len : Nat} {c : ReelCfg} (hst : (s.slot f).state ≠ .free) (hseq : (s.slot f).seq = some n)
    (hlen : (s.slot f).length = some len) (hc : (s.reel r).cfg = some c) : slotReady r f (s.slotWritten f)
    = wakeReel r (notice .ingestDone (ingestDoneBody r f n len (s.slot f).generation s.venueTime)
      (s.writeEnded.madeReady r f c n len)) := by
  have hslot := slotWritten_slot hst
  have hready : (s.slotWritten f).madeReady r f c n len = s.writeEnded.madeReady r f c n len :=
    madeReady_setSlot (s := s.writeEnded) (x := { s.slot f with outstanding := (s.slot f).outstanding - 1 })
      (slot_ne_of_state hst) (fun _ => rfl) r c n len
  rw [slotReady_eq (s := s.slotWritten f) hc (by rw [hslot]; exact hseq) (by rw [hslot]; exact hlen), hready, hslot]
  rfl
end

end Sys2Proof.Machine

open Sys2Proof.Machine

/-- Settles O59: a chunk's frames are cut from the bytes read and the first is declined; a write is counted, discarded, or the last. -/
theorem clipCompletionsHoldAndWrite : Obligations.ClipCompletionsHoldAndWrite := by
  intro s hb
  refine ⟨fun slot off len d v m ht hv hg hlen hserve hfull hstalled => ?_, fun f off data gen m ht => ?_⟩
  · intro data frames
    have hdata : data.length = len := length_readBytes _ _ _
    refine ⟨cutChunk_data off hdata.le, fun f hf => ?_, ?_⟩
    · obtain ⟨_, piece, rfl, hpiece⟩ := mem_cutChunk hf
      rw [replayFrame_length]
      omega
    · have hdecl := chunkCompleted_declined (s := s.memFreed) (off := off) (m := m) hv hg hlen hserve hfull hstalled
      rw [show s.memFreed.mem.clip = s.mem.clip from grant_clip _] at hdecl
      rw [exec_chunkCompletion ht, hdecl]
      exact congrArg Host.Outcome.next (finish_quiet hb.1 hb.2)
  · intro written
    have hrun {t : State} (hc : ingestCompleted ⟨.ingest f off data gen, m⟩ (s.clipWritten f off data) = t) (hev : t.ev = s.ev)
        (hm : t.mgmt = s.mgmt) : exec .clipIngestWriteCompletion s = .next t.ended := by
      rw [exec_ingestCompletion ht, hc, finish_unchanged hb hev hm]
    refine ⟨fun hg hst => ?_, fun hg => hrun (ingestCompleted_discarded (s := s.clipWritten f off data) hg) rfl rfl,
      fun r c n len hg hst hout hreel hseq hlen hc hidle => ?_⟩
    · refine hrun ((ingestCompleted_taken (s := s.clipWritten f off data) hg ?_).trans (if_neg ?_)) rfl rfl
      · rcases hst with h | h <;> simp [show (s.clipWritten f off data).slot f = s.slot f from rfl, h]
      · show ¬ ((s.slot f).state = .writing ∧ (s.slot f).outstanding - 1 = 0)
        rcases hst with h | ⟨_, h⟩
        · simp [h]
        · omega
    · have hfree : ((s.clipWritten f off data).slot f).state ≠ .free := fun h => by cases hst.symm.trans h
      refine hrun ((ingestCompleted_taken (s := s.clipWritten f off data) hg hfree).trans ((if_pos ?_).trans ?_))
        (notice_keeps_ev _ _ _) (notice_calm _ _ _).mgmt
      · exact ⟨hst, by rw [show ((s.clipWritten f off data).slot f).outstanding = 1 from hout]⟩
      · rw [show ((s.clipWritten f off data).slot f).reel = some r from hreel, Option.getD_some,
          slotReady_slotWritten (s := s.clipWritten f off data) hfree hseq hlen hc, wakeReel_none, ← hg]
        · rfl
        · rw [notice_keeps_stations]
          exact hidle
end

section
/-! What a seek finds (R150): each mode over the READY segments of its reel. -/

set_option Elab.async false

open Sys2Proof

namespace Sys2Proof.Machine

variable {s t u : State}

/-! ### The READY sequences of a reel (R130) -/

/-- Sequence `n` of a reel is READY. -/
def State.hasReady (s : State) (reel n : Nat) : Prop := (s.readySlot reel n).isSome = true

theorem hasReady_iff (s : State) (reel n : Nat) : s.hasReady reel n ↔ n ∈ (s.readySegs reel).map Prod.fst := by
  unfold State.hasReady State.readySlot
  simp [List.find?_isSome]

theorem minOf_eq_min? (l : List Nat) : minOf l = l.min? := by
  cases l <;> rfl

theorem minOf_eq_some {l : List Nat} {n : Nat} : minOf l = some n ↔ n ∈ l ∧ ∀ k ∈ l, n ≤ k := by
  rw [minOf_eq_min?]
  exact List.min?_eq_some_iff

theorem minOf_eq_none {l : List Nat} : minOf l = none ↔ l = [] := by
  rw [minOf_eq_min?]
  exact List.min?_eq_none_iff

theorem firstReady_eq_some {reel lo n : Nat} : s.firstReady reel lo none = some n
    ↔ s.hasReady reel n ∧ lo ≤ n ∧ ∀ k, s.hasReady reel k → lo ≤ k → n ≤ k := by
  unfold State.firstReady
  simp only [minOf_eq_some, List.mem_filter, ← hasReady_iff, Bool.and_true, decide_eq_true_eq, and_imp, and_assoc]

/-- Sequence `n` of a reel is READY, from `lo` on and below `hi`. -/
def State.readyIn (s : State) (reel lo hi n : Nat) : Prop := s.hasReady reel n ∧ lo ≤ n ∧ n < hi

theorem firstReady_below_eq_some {reel lo hi n : Nat} : s.firstReady reel lo (some hi) = some n
    ↔ s.readyIn reel lo hi n ∧ ∀ k, s.readyIn reel lo hi k → n ≤ k := by
  unfold State.firstReady State.readyIn
  simp only [minOf_eq_some, List.mem_filter, ← hasReady_iff, Bool.and_eq_true, decide_eq_true_eq]

theorem firstReady_below_eq_none {reel lo hi : Nat} : s.firstReady reel lo (some hi) = none ↔ ∀ k, ¬ s.readyIn reel lo hi k := by
  unfold State.firstReady State.readyIn
  simp only [minOf_eq_none, List.filter_eq_nil_iff, ← hasReady_iff, Bool.and_eq_true, decide_eq_true_eq, not_and]

/-! ### Seeking by mode (R150) -/

theorem seekOne_eq {b : Sub} {c : Nat} (hc : b.cursor = some c) : seekOne s b
    = ⟨{ b with cursor := some ((s.firstReady b.reel c none).getD c) }, s.firstReady b.reel c none, 0⟩ := by
  unfold seekOne
  simp only [hc]
  cases s.firstReady b.reel c none with
  | some n => rfl
  | none => exact congrArg (fun x => (⟨x, none, 0⟩ : Sought)) (by rw [Option.getD_none, ← hc])

/-- The first READY sequence of the window from the cursor on, or else from its start up to the cursor. -/
def State.aroundWindow (s : State) (reel w size c : Nat) : Option Nat :=
  (s.firstReady reel c (some (w + size))).or (s.firstReady reel w (some (c + 1)))

theorem seekLoop_eq {b : Sub} {w0 size c0 w c : Nat} {oldest : Option Nat} (hb : b.window = some (w0, size))
    (hc : b.cursor = some c0) (hw : max w0 (oldest.getD w0) = w) (hmax : max c0 w = c) : seekLoop s oldest b
    = ⟨{ b with window := some (w, size), cursor := some ((s.aroundWindow b.reel w size c).getD c) },
        s.aroundWindow b.reel w size c, 0⟩ := by
  unfold seekLoop State.aroundWindow
  simp only [hb, hc, hw, hmax]
  cases s.firstReady b.reel c (some (w + size)) with
  | some n => rfl
  | none => cases s.firstReady b.reel w (some (c + 1)) <;> rfl

theorem aroundWindow_eq_some {reel w size c n : Nat} : s.aroundWindow reel w size c = some n
    ↔ (s.readyIn reel c (w + size) n ∧ ∀ k, s.readyIn reel c (w + size) k → n ≤ k)
      ∨ (∀ k, ¬ s.readyIn reel c (w + size) k) ∧ s.readyIn reel w (c + 1) n ∧ ∀ k, s.readyIn reel w (c + 1) k → n ≤ k := by
  unfold State.aroundWindow
  rw [Option.or_eq_some_iff, firstReady_below_eq_some, firstReady_below_eq_none, firstReady_below_eq_some]

/-- The least READY sequence of a range that holds it is the least from its start on. -/
theorem least_readyIn {reel w c n : Nat} : (s.readyIn reel w (c + 1) n ∧ ∀ k, s.readyIn reel w (c + 1) k → n ≤ k)
    ↔ s.hasReady reel n ∧ w ≤ n ∧ n ≤ c ∧ ∀ k, s.hasReady reel k → w ≤ k → n ≤ k := by
  unfold State.readyIn
  constructor
  · rintro ⟨⟨hn, hw, hlt⟩, hleast⟩
    refine ⟨hn, hw, by omega, fun k hk hwk => ?_⟩
    by_cases hkc : k < c + 1
    · exact hleast k ⟨hk, hwk, hkc⟩
    · omega
  · rintro ⟨hn, hw, hle, hleast⟩
    exact ⟨⟨hn, hw, by omega⟩, fun k hk => hleast k hk.1 hk.2.1⟩

section
variable {b : Sub} {cfg : ReelCfg} {lag : Bool}

theorem seek_one (hcfg : (s.reel b.reel).cfg = some cfg) (hm : b.mode = .one) : seek lag s b = seekOne s b := by
  unfold seek
  simp only [hcfg, hm]

theorem seek_loop (hcfg : (s.reel b.reel).cfg = some cfg) (hm : b.mode = .loop) : seek lag s b = seekLoop s cfg.oldest b := by
  unfold seek
  simp only [hcfg, hm]

theorem seek_follow {new old : Nat} (hcfg : (s.reel b.reel).cfg = some cfg) (hm : b.mode = .follow) (hn : cfg.newest = some new)
    (ho : cfg.oldest = some old) : seek lag s b = seekFollow lag s new old b := by
  unfold seek
  simp only [hcfg, hm, hn, ho]

theorem seek_follow_none (hcfg : (s.reel b.reel).cfg = some cfg) (hm : b.mode = .follow) (hn : cfg.newest = none) :
    seek lag s b = ⟨b, none, 0⟩ := by
  unfold seek
  simp only [hcfg, hm, hn]
end

theorem map_const_eq_some {o : Option Nat} {c n : Nat} : o.map (fun _ => c) = some n ↔ n = c ∧ o.isSome = true := by
  cases o <;> simp [eq_comm]

end Sys2Proof.Machine
end

section
/-! A station takes the segment it found (R151) and is served from a waiting list (R152). -/

set_option Elab.async false

open Sys2Proof

namespace Sys2Proof.Machine

variable {s t u : State} {h r : Nat}

/-! ### Station records beside the replay side -/

/-- The state with another replay side. -/
def State.withReplay (s : State) (p : Replay) : State := { s with replay := p }

theorem modStation_withReplay (s : State) (p : Replay) (h : Nat) (f : Station → Station) :
    (s.withReplay p).modStation h f = (s.modStation h f).withReplay p := by
  unfold State.modStation
  rw [show (s.withReplay p).station h = s.station h from rfl]
  cases s.station h <;> rfl

theorem modStation_replay (s : State) (h : Nat) (f : Station → Station) : (s.modStation h f).replay = s.replay := by
  unfold State.modStation
  cases s.station h <;> rfl

/-- The replay side but for its counters is as it was. -/
def SameClips (s t : State) : Prop := t.replay = { s.replay with ctrs := t.replay.ctrs }

section
variable (hs : SameClips s t)
include hs

theorem SameClips.deliveryAt (r slot : Nat) (gen : Half) : t.deliveryAt r slot gen = s.deliveryAt r slot gen := by
  unfold State.deliveryAt
  rw [hs]

theorem SameClips.slot (n : Nat) : t.slot n = s.slot n := by
  unfold State.slot
  rw [hs]

theorem SameClips.placeFree (r : Nat) : t.placeFree r = s.placeFree r := by
  unfold State.placeFree State.deliveriesAt
  rw [hs]
end

theorem placeFree_iff : s.placeFree r = true ↔ s.deliveriesAt r < 8 ∧ s.replay.deliveries.length < 1024 := by
  unfold State.placeFree
  rw [Bool.and_eq_true, decide_eq_true_iff, decide_eq_true_iff]

theorem modReplayCtrs_sameClips (ht : t.replay = s.replay) (f : ReplayCtrs → ReplayCtrs) : SameClips s (t.modReplayCtrs f) := by
  unfold SameClips State.modReplayCtrs
  rw [ht]

/-! ### Moving the cursor (R150) -/

theorem applySought_eq (h : Nat) (x : Sought) (s : State) : applySought h x s
    = (s.modSub h (fun b => { b with cursor := x.sub.cursor, window := x.sub.window })).modReplayCtrs
      (fun k => { k with lagSkips := bumpBy k.lagSkips x.skips }) := by
  unfold applySought
  by_cases hx : x.skips = 0
  · simp only [hx, if_true, bumpBy_zero]
    rfl
  · exact if_neg hx

theorem applySought_sameClips (h : Nat) (x : Sought) (s : State) : SameClips s (applySought h x s) := by
  rw [applySought_eq]
  exact modReplayCtrs_sameClips (modStation_replay s h _) _

/-! ### Taking a segment (R151) -/

/-- A station joins a delivery's riders, and is counted as coalesced. -/
def State.ridingOn (s : State) (h d : Nat) (v : Delivery) : State :=
  ((s.setDelivery d { v with riders := v.riders ++ [h] }).setRider h (some (.riding d))).modReplayCtrs
    (fun k => { k with coalesced := bump k.coalesced })

theorem joinDelivery_eq {d : Nat} {v : Delivery} (hv : s.delivery d = some v) : joinDelivery h d s = s.ridingOn h d v := by
  unfold joinDelivery State.ridingOn
  rw [modDelivery_some hv]

/-- A new delivery of a slot, at a radio, ridden by one station (R151). -/
def State.newDelivery (s : State) (h r slot n : Nat) : Delivery :=
  { radio := r, reel := (s.slot slot).reel.getD 0, slot := slot, seq := n
    generation := (s.slot slot).generation, length := (s.slot slot).length.getD 0, riders := [h] }

/-- The replay side with one more delivery, under the next number. -/
def Replay.withNew (p : Replay) (v : Delivery) : Replay :=
  { p with
    deliveries := p.deliveries.put p.nextId v
    nextId := p.nextId + 1
    ctrs := { p.ctrs with created := bump p.ctrs.created } }

/-- The delivery under the next number has been made and reads its first chunk. -/
def State.created (s : State) (d : Nat) (v : Delivery) : State :=
  { s with
    replay := { s.replay with
      deliveries := s.replay.deliveries.put d v
      nextId := d + 1
      ctrs := { s.replay.ctrs with created := bump s.replay.ctrs.created, chunkReads := bump s.replay.ctrs.chunkReads } }
    mem := s.mem.send (.chunk v.slot v.nextOffset (min 16384 (v.length - v.nextOffset)) d) }

theorem readChunk_eq {d : Nat} {v : Delivery} (hv : s.delivery d = some v) : readChunk d s
    = ((s.setDelivery d { v with chunk := .reading }).modReplayCtrs (fun k => { k with chunkReads := bump k.chunkReads })).sendRequest
      (.chunk v.slot v.nextOffset (min 16384 (v.length - v.nextOffset)) d) := by
  unfold readChunk
  rw [hv]

/-- A new delivery reads its first chunk. -/
theorem readChunk_new (t : State) {v : Delivery} (hv : v.chunk = .reading) :
    readChunk t.replay.nextId (t.withReplay (t.replay.withNew v)) = t.created t.replay.nextId v := by
  have hsame : ({ v with chunk := .reading } : Delivery) = v := by rw [← hv]
  have hput : (t.withReplay (t.replay.withNew v)).setDelivery t.replay.nextId v = t.withReplay (t.replay.withNew v) :=
    congrArg (fun ds => t.withReplay { t.replay.withNew v with deliveries := ds }) (Table.put_put _ _ _ _)
  have hfind : (t.withReplay (t.replay.withNew v)).delivery t.replay.nextId = some v := Table.find_put_self _ _ _
  rw [readChunk_eq hfind, hsame, hput]
  rfl

/-- The station rides a new delivery (R151). -/
def State.ridingNew (s : State) (h r slot n : Nat) : State :=
  (s.setRider h (some (.riding s.replay.nextId))).created s.replay.nextId (s.newDelivery h r slot n)

theorem createDelivery_eq (s : State) (h r slot n : Nat) : createDelivery h r slot n s = s.ridingNew h r slot n := by
  have hmade : createDelivery h r slot n s = readChunk s.replay.nextId
      ((s.setRider h (some (.riding s.replay.nextId))).withReplay (s.replay.withNew (s.newDelivery h r slot n))) :=
    congrArg (readChunk s.replay.nextId) (modStation_withReplay s _ h _)
  have hreplay : (s.setRider h (some (.riding s.replay.nextId))).replay = s.replay := modStation_replay s h _
  have hnew := readChunk_new (s.setRider h (some (.riding s.replay.nextId))) (v := s.newDelivery h r slot n) rfl
  rw [hreplay] at hnew
  exact hmade.trans hnew

/-- The station waits at the tail of its radio's list (R151). -/
def State.waitingAt (s : State) (h r : Nat) : State :=
  (s.setWaitList r (s.waitList r ++ [h])).setRider h (some (.waiting s.venueTime s.ev.number))

section
variable {reel n slot : Nat} (hslot : s.readySlot reel n = some slot)
include hslot

theorem takeSegment_joins {d : Nat} {v : Delivery} (hat : s.deliveryAt r slot (s.slot slot).generation = some d)
    (hv : s.delivery d = some v) : takeSegment h r reel n s = s.ridingOn h d v := by
  unfold takeSegment
  simp only [hslot, hat, joinDelivery_eq hv]

theorem takeSegment_creates (hat : s.deliveryAt r slot (s.slot slot).generation = none) (hw : s.waitList r = [])
    (hroom : s.placeFree r = true) : takeSegment h r reel n s = s.ridingNew h r slot n := by
  unfold takeSegment
  simp only [hslot, hat]
  rw [if_pos ⟨hw, hroom⟩, createDelivery_eq]

theorem takeSegment_waits (hat : s.deliveryAt r slot (s.slot slot).generation = none)
    (hno : ¬ (s.waitList r = [] ∧ s.placeFree r = true)) : takeSegment h r reel n s = s.waitingAt h r := by
  unfold takeSegment
  simp only [hslot, hat]
  exact if_neg hno
end

/-! ### Serving a waiting station (R152), seeking and taking -/

/-- The station leaves its radio's waiting list. -/
def State.offList (s : State) (h r : Nat) : State := s.setWaitList r ((s.waitList r).filter (fun k => decide (k ≠ h)))

theorem applySought_delivery (h : Nat) (x : Sought) (s : State) (d : Nat) : (applySought h x s).delivery d = s.delivery d := by
  unfold State.delivery
  rw [applySought_sameClips h x s]

section
variable {st : Station} {b : Sub} (hst : s.station h = some st) (hb : st.sub = some b)
include hst hb

theorem seekAndTake_idle (hr : st.current = some r) (hx : (seek true s b).found = none) : seekAndTake true h s
    = (applySought h (seek true s b) s).setRider h (some .idle) := by
  unfold seekAndTake
  simp only [hst, hb, hr, hx]

theorem seekAndTake_takes {n : Nat} (hr : st.current = some r) (hx : (seek true s b).found = some n) : seekAndTake true h s
    = takeSegment h r b.reel n (applySought h (seek true s b) s) := by
  unfold seekAndTake
  simp only [hst, hb, hr, hx]

theorem serveStation_idle (hx : (seek true s b).found = none) : serveStation r h s
    = ((applySought h (seek true s b) s).offList h r).setRider h (some .idle) := by
  unfold serveStation
  simp only [hst, hb, hx]
  rfl

section
variable {n slot : Nat} (hx : (seek true s b).found = some n) (hslot : s.readySlot b.reel n = some slot)
include hx hslot

theorem serveStation_joins {d : Nat} {v : Delivery} (hat : s.deliveryAt r slot (s.slot slot).generation = some d)
    (hv : s.delivery d = some v) : serveStation r h s = ((applySought h (seek true s b) s).offList h r).ridingOn h d v := by
  have hclips := applySought_sameClips h (seek true s b) s
  unfold serveStation
  simp only [hst, hb, hx, Option.bind_some, hslot, hclips.slot, hclips.deliveryAt, hat]
  exact joinDelivery_eq ((applySought_delivery h (seek true s b) s d).trans hv)

theorem serveStation_unjoined (hat : s.deliveryAt r slot (s.slot slot).generation = none) : serveStation r h s
    = if s.placeFree r = true then ((applySought h (seek true s b) s).offList h r).ridingNew h r slot n
      else applySought h (seek true s b) s := by
  have hclips := applySought_sameClips h (seek true s b) s
  unfold serveStation
  simp only [hst, hb, hx, Option.bind_some, hslot, hclips.slot, hclips.deliveryAt, hat, hclips.placeFree, createDelivery_eq,
    Option.getD_some]
  rfl
end
end

end Sys2Proof.Machine
end

section
/-! A chunk read that completes (R153): its frame sent on (R154), its delivery completed (R155) or lapped (R156). -/

set_option Elab.async false

open Sys2Proof

namespace Sys2Proof.Machine

variable {s t u : State} {d r : Nat} {v : Delivery} {f : Frame}

/-! ### Offers beside the replay side -/

section
variable (p : Replay)

theorem askRadio_withReplay (r : Nat) (s : State) : (s.withReplay p).askRadio r = (s.askRadio r).withReplay p := by
  unfold State.askRadio
  rw [show (s.withReplay p).radio r = s.radio r from rfl]
  cases (s.radio r).cfg with
  | none => rfl
  | some c =>
    show State.askPort (s.withReplay p) c.port = (s.askPort c.port).withReplay p
    unfold State.askPort
    rw [show (s.withReplay p).ev = s.ev from rfl]
    split <;> rfl

theorem askIfEligible_withReplay (r : Nat) (c : Cls) (was new : List Burst) (b : Bool) (s : State) :
    askIfEligible r c was new b (s.withReplay p) = (askIfEligible r c was new b s).withReplay p := by
  unfold askIfEligible
  split
  · exact askRadio_withReplay p r s
  · rfl

theorem acceptFrame_withReplay (hf : f.handle = none) (r : Nat) (c : Cls) (l : List Burst) (opened : Bool) (s : State) :
    acceptFrame r c f l opened (s.withReplay p) = (acceptFrame r c f l opened s).withReplay p := by
  unfold acceptFrame
  simp only [hf, raiseEgress]
  exact askIfEligible_withReplay p r c (s.list r c) l false { s.setList r c l with egress := { (s.setList r c l).egress with
    buffers := (s.setList r c l).egress.buffers + 1
    bursts := (s.setList r c l).egress.bursts + (if opened then 1 else 0)
    accepted := bump (s.setList r c l).egress.accepted } }
end

theorem acceptFrame_unowned (hf : f.handle = none) (r : Nat) (c : Cls) (l : List Burst) (opened : Bool) (s : State) :
    ∃ eg ev, acceptFrame r c f l opened s = { s with egress := eg, ev := ev } := by
  unfold acceptFrame
  rw [hf]
  obtain ⟨ev, h⟩ := askIfEligible_only r c (s.list r c) l false _
  exact ⟨_, ev, h⟩

section
variable {sort : OfferSort} {c : Cls} (ho : offer sort r c f s = (.accepted, u))
include ho

/-- What an accepted offer says: the radio is IN_SERVICE and the frame has its place (R46, R47). -/
theorem of_offer_accepted : s.inService r = true
    ∧ ∃ l opened, place s r c f = some (l, opened) ∧ u = acceptFrame r c f l opened s := by
  unfold offer at ho
  split at ho
  · cases ho
  · next hr =>
    split at ho
    · next l opened hp => exact ⟨by simpa using hr, l, opened, hp, (congrArg Prod.snd ho).symm⟩
    · split at ho <;> cases ho

theorem offer_accepted_withReplay (hf : f.handle = none) (p : Replay) :
    offer sort r c f (s.withReplay p) = (.accepted, u.withReplay p) := by
  obtain ⟨hr, l, opened, hp, hu⟩ := of_offer_accepted ho
  have hr' : (s.withReplay p).inService r = true := hr
  have hp' : place (s.withReplay p) r c f = some (l, opened) := hp
  exact Prod.ext (offer_accepted hr' hp')
    ((offer_placed hr' hp').trans ((acceptFrame_withReplay p hf r c l opened s).trans (congrArg (State.withReplay · p) hu.symm)))

theorem offer_accepted_unowned (hf : f.handle = none) : ∃ eg ev, u = { s with egress := eg, ev := ev } := by
  obtain ⟨-, l, opened, -, hu⟩ := of_offer_accepted ho
  rw [hu]
  exact acceptFrame_unowned hf r c l opened s
end

theorem handle_of_mem_cutChunk {src : Addr} {k offset : Nat} {data : List Byte} (h : f ∈ cutChunk src v k offset data) :
    f.handle = none := by
  obtain ⟨_, _, rfl, -⟩ := mem_cutChunk h
  rfl

/-! ### A chunk of one frame (R154) -/

/-- The delivery has sent its frames up to `next`. -/
def Delivery.sentTo (v : Delivery) (next : Nat) : Delivery := { v with nextOffset := next }

/-- A replay frame is counted as sent. -/
def State.frameCounted (s : State) : State := s.modReplayCtrs (fun k => { k with replayFrames := bump k.replayFrames })

/-- The delivery is in the stalled list no more. -/
def State.notStalled (s : State) (d : Nat) : State :=
  s.modReplay (fun p => { p with stalled := p.stalled.filter (fun k => decide (k ≠ d)) })

/-- What stands once the one frame a delivery held has been accepted, with `w` for its record. -/
def State.frameSent (s : State) (d : Nat) (w : Delivery) : State := (s.setDelivery d w).frameCounted.notStalled d

theorem modDelivery_frameCounted (s : State) (d : Nat) (v : Delivery) (g : Delivery → Delivery) :
    (s.setDelivery d v).frameCounted.modDelivery d g = (s.setDelivery d (g v)).frameCounted :=
  (modDelivery_some (s := (s.setDelivery d v).frameCounted) (delivery_setDelivery s d v) g).trans
    (congrArg State.frameCounted (setDelivery_setDelivery s d v (g v)))

theorem delivery_frameSent (s : State) (d : Nat) (w : Delivery) : (s.frameSent d w).delivery d = some w :=
  Table.find_put_self _ _ _

/-- With its one frame accepted, a delivery completes or reads on (R154). -/
theorem offerHeld_accepted (hv : s.delivery d = some v) (hc : v.chunk = .held [f])
    (ho : offer .declinable v.radio .replay f s = (.accepted, t)) (ht : t.delivery d = some v) {next : Nat}
    (hnext : v.nextOffset + replayData f = next) : offerHeld d s
    = if next = v.length then completeDelivery d (t.frameSent d ((v.sentTo next).holding []))
      else readChunk d (t.frameSent d ((v.sentTo next).holding [])) := by
  have hframes : offerFrames d v.radio [f] s = ([], (t.setDelivery d (v.sentTo next)).frameCounted) := by
    unfold offerFrames
    simp only [ho, modDelivery_some ht, hnext]
    rfl
  have hmod := modDelivery_frameCounted t d (v.sentTo next) (fun v => { v with chunk := .held [] })
  unfold offerHeld
  simp only [hv, hc, hframes, hmod, ne_eq, not_true_eq_false, if_false]
  rw [show ((t.setDelivery d { v.sentTo next with chunk := .held [] }).frameCounted.modReplay _) =
    t.frameSent d ((v.sentTo next).holding []) from rfl]
  simp only [delivery_frameSent]
  rfl

/-- A chunk of one frame that egress accepts: the delivery has sent it, then completes or reads on (R153, R154). -/
theorem chunkCompleted_accepted {slot off len next : Nat} {m : Bool} (hv : s.delivery d = some v)
    (hg : (s.slot slot).generation = v.generation)
    (hcut : cutChunk s.ingestAddr v len off (Memory.readBytes s.mem.clip (slot * 262144 + off) len) = [f])
    (ho : offer .declinable v.radio .replay f s = (.accepted, u)) (hnext : v.nextOffset + replayData f = next) :
    chunkCompleted ⟨.chunk slot off len d, m⟩ s
    = if next = v.length then completeDelivery d (u.frameSent d ((v.sentTo next).holding []))
      else readChunk d (u.frameSent d ((v.sentTo next).holding [])) := by
  have hf : f.handle = none := handle_of_mem_cutChunk (hcut ▸ List.mem_singleton_self f)
  have ho' := offer_accepted_withReplay ho hf (s.setDelivery d (v.holding [f])).replay
  obtain ⟨eg, ev, rfl⟩ := offer_accepted_unowned ho hf
  have hsame := setDelivery_setDelivery { s with egress := eg, ev := ev } d (v.holding [f]) ((v.sentTo next).holding [])
  rw [chunkCompleted_held hv hg, hcut]
  exact (offerHeld_accepted (v := v.holding [f]) (delivery_setDelivery s d _) rfl ho'
    (delivery_setDelivery { s with egress := eg, ev := ev } d _) hnext).trans
    (congrArg (fun x : State => if next = v.length then completeDelivery d (x.frameCounted.notStalled d)
      else readChunk d (x.frameCounted.notStalled d)) hsame)

theorem readChunk_frameSent (s : State) (d : Nat) (w : Delivery) : readChunk d (s.frameSent d w)
    = ((s.frameSent d { w with chunk := .reading }).modReplayCtrs (fun k => { k with chunkReads := bump k.chunkReads })).sendRequest
      (.chunk w.slot w.nextOffset (min 16384 (w.length - w.nextOffset)) d) := by
  have hsame := setDelivery_setDelivery s d w { w with chunk := .reading }
  rw [readChunk_eq (delivery_frameSent s d w)]
  exact congrArg (fun x : State => ((x.frameCounted.notStalled d).modReplayCtrs
    (fun k => { k with chunkReads := bump k.chunkReads })).sendRequest
      (.chunk w.slot w.nextOffset (min 16384 (w.length - w.nextOffset)) d)) hsame

/-! ### A delivery completes for its one rider of mode ONE (R155) -/

theorem servePlaces_empty (hw : s.replay.waiting = []) (r : Nat) : servePlaces r s = s := by
  have hlist : serveList r s = s := by
    unfold serveList State.waitList
    rw [hw]
    rfl
  unfold servePlaces
  rw [hlist]
  exact serveOthers_none (by rw [hw]; exact fun e he => absurd he List.not_mem_nil)

/-- A subscription has been removed at a radio (R147). -/
def State.unsubscribed (s : State) (h r : Nat) (st : Station) : State :=
  (((s.setStation h { st with sub := none }).modReplayCtrs (fun k => { k with removed := bump k.removed })).modRadio r
    (fun x => { x with subscribers := x.subscribers - 1 }))

theorem lessSubscriber_some {radio : Option Nat} (hr : radio = some r) (s : State) :
    lessSubscriber radio s = s.modRadio r (fun x => { x with subscribers := x.subscribers - 1 }) := by
  rw [hr]
  rfl

theorem leaveRider_gone (hd : s.delivery d = none) (h : Nat) (radio : Option Nat) :
    leaveRider h radio (some (.riding d)) s = s := by
  unfold leaveRider
  simp only [hd]

section
variable {h : Nat} {st : Station} {b : Sub} (hst : s.station h = some st) (hb : st.sub = some b)
  (hrider : b.rider = some (.riding d)) (hcur : st.current = some r)
include hst hb hrider hcur

theorem removeSub_ridden (hd : s.delivery d = none) : removeSub h s = s.unsubscribed h r st := by
  unfold removeSub
  simp only [hst, hb, hrider]
  rw [lessSubscriber_some hcur]
  exact leaveRider_gone (s := s.unsubscribed h r st) hd h _

theorem advanceRider_one (hm : b.mode = .one) (hd : s.delivery d = none) (seq : Nat) :
    advanceRider seq h s = (s.unsubscribed h r st).modReplayCtrs (fun k => { k with ended := bump k.ended }) := by
  unfold advanceRider
  rw [hst, Option.bind_some, hb]
  simp only [hm, removeSub_ridden hst hb hrider hcur hd]

theorem completeDelivery_one (hv : s.delivery d = some v) (hriders : v.riders = [h]) (hm : b.mode = .one)
    (hsorted : s.replay.deliveries.sorted = true) (hw : s.replay.waiting = []) : completeDelivery d s
    = ((((freeDelivery d s).modReplayCtrs (fun k => { k with completed := bump k.completed })).unsubscribed h r st).modReplayCtrs
      (fun k => { k with ended := bump k.ended })) := by
  have hd : ((freeDelivery d s).modReplayCtrs (fun k => { k with completed := bump k.completed })).delivery d = none :=
    Table.find_del_self hsorted
  unfold completeDelivery
  simp only [hv, hriders, List.foldl_cons, List.foldl_nil]
  rw [advanceRider_one (s := (freeDelivery d s).modReplayCtrs (fun k => { k with completed := bump k.completed }))
    hst hb hrider hcur hm hd, servePlaces_empty]
  exact hw
end

theorem del_put {α : Type} {t : Table α} (hs : t.sorted = true) (k : Nat) (v : α) : (t.put k v).del k = t.del k := by
  rw [del_eq_filter (Table.sorted_put hs), del_eq_filter hs]
  induction t with
  | nil => simp [Table.put]
  | cons e t ih =>
    obtain ⟨k', v'⟩ := e
    have ht := ih ((Table.sorted_cons k' v' t).1 hs).1
    unfold Table.put
    split
    · simp
    · split
      · next hk => simp [hk]
      · simp only [List.filter_cons, ht]

theorem freeDelivery_frameSent (hs : s.replay.deliveries.sorted = true) (d : Nat) (w : Delivery) :
    freeDelivery d (s.frameSent d w) = freeDelivery d s.frameCounted := by
  have hstalled (l : List Nat) : (l.filter (fun k => decide (k ≠ d))).filter (fun k => decide (k ≠ d))
      = l.filter (fun k => decide (k ≠ d)) := by
    simp only [List.filter_filter, Bool.and_self]
  unfold freeDelivery State.modReplay
  refine congrArg (fun p => (s.withReplay p)) ?_
  show ({ s.frameCounted.replay with
    deliveries := (s.replay.deliveries.put d w).del d
    stalled := (s.replay.stalled.filter (fun k => decide (k ≠ d))).filter (fun k => decide (k ≠ d)) } : Replay) = _
  rw [del_put hs, hstalled]
  rfl

/-- The delivery has ended and its one rider, of mode ONE, with it (R155). -/
def State.deliveryDone (s : State) (d h r : Nat) (st : Station) : State :=
  (((freeDelivery d s.frameCounted).modReplayCtrs (fun k => { k with completed := bump k.completed })).unsubscribed h r st).modReplayCtrs
    (fun k => { k with ended := bump k.ended })

section
variable {h : Nat} {st : Station} {b : Sub} (hst : s.station h = some st) (hb : st.sub = some b)
  (hrider : b.rider = some (.riding d)) (hcur : st.current = some r)
include hst hb hrider hcur

theorem completeDelivery_frameSent (hriders : v.riders = [h]) (hm : b.mode = .one) (hs : s.replay.deliveries.sorted = true)
    (hw : s.replay.waiting = []) : completeDelivery d (s.frameSent d v) = s.deliveryDone d h r st := by
  rw [completeDelivery_one (s := s.frameSent d v) hst hb hrider hcur (delivery_frameSent s d v) hriders hm
    (Table.sorted_put hs) hw, freeDelivery_frameSent hs]
  rfl
end

theorem unsubscribed_calm {h : Nat} {st : Station} (hr : s.inService r = true) : Calm s (s.unsubscribed h r st) := by
  have hne : ({ s.radio r with subscribers := (s.radio r).subscribers - 1 } : Radio) ≠ {} :=
    radio_ne_default (of_decide_eq_true hr)
  have hremoved : Calm s ((s.setStation h { st with sub := none }).modReplayCtrs (fun k => { k with removed := bump k.removed })) :=
    calm_of_fields rfl rfl rfl rfl
  exact hremoved.trans (modRadio_calm (f := fun x : Radio => { x with subscribers := x.subscribers - 1 }) hne rfl)

theorem sendRequest_calm (s : State) (r : Request) : Calm s (s.sendRequest r) := calm_of_fields rfl rfl rfl rfl

theorem readChunk_calm (s : State) (d : Nat) (w : Delivery) : Calm s (readChunk d (s.frameSent d w)) := by
  rw [readChunk_frameSent]
  have hsent : Calm s ((s.frameSent d { w with chunk := .reading }).modReplayCtrs (fun k => { k with chunkReads := bump k.chunkReads })) :=
    calm_of_fields rfl rfl rfl rfl
  exact hsent.trans (sendRequest_calm _ _)

theorem deliveryDone_calm {h : Nat} {st : Station} (hr : s.inService r = true) (d : Nat) : Calm s (s.deliveryDone d h r st) := by
  have hfreed : Calm s ((freeDelivery d s.frameCounted).modReplayCtrs (fun k => { k with completed := bump k.completed })) :=
    calm_of_fields rfl rfl rfl rfl
  have hleft := unsubscribed_calm (h := h) (st := st)
    (s := (freeDelivery d s.frameCounted).modReplayCtrs (fun k => { k with completed := bump k.completed })) hr
  exact (hfreed.trans hleft).trans (calm_of_fields rfl rfl rfl rfl)

theorem exec_chunkCompletion_calm {slot off len : Nat} {m : Bool} (hb : s.Between)
    (ht : s.mem.transfer = some ⟨.chunk slot off len d, m⟩) (hdone : chunkCompleted ⟨.chunk slot off len d, m⟩ s.memFreed = t)
    (hcalm : Calm s.memFreed t) : exec .clipChunkReadCompletion s = .next t.ended := by
  have hquiet : s.memFreed.Quiet := by
    unfold State.Quiet
    exact hb.1
  have hsettled : s.memFreed.Settled := by
    unfold State.Settled
    exact hb.2
  rw [exec_chunkCompletion ht, hdone, finish_calm hquiet hcalm hsettled]

end Sys2Proof.Machine
end

section
/-! Deliveries lapped (R153, R156), places served (R152), stations woken (R158) and subscriptions resumed (R148). -/

set_option Elab.async false

open Sys2Proof

namespace Sys2Proof.Machine

variable {s t u : State} {h r : Nat}

/-! ### A chunk whose delivery or slot is no longer there (R153) -/

section
variable {slot off len d : Nat} {m : Bool}

theorem chunkCompleted_discarded (hv : s.delivery d = none) : chunkCompleted ⟨.chunk slot off len d, m⟩ s
    = s.modReplayCtrs (fun k => { k with discardedChunks := bump k.discardedChunks }) := by
  unfold chunkCompleted
  simp only [hv]

theorem chunkCompleted_lapped {v : Delivery} (hv : s.delivery d = some v) (hg : (s.slot slot).generation ≠ v.generation) :
    chunkCompleted ⟨.chunk slot off len d, m⟩ s = lapDelivery d s := by
  unfold chunkCompleted
  simp only [hv]
  exact if_pos hg
end

/-! ### Lapping (R156) -/

theorem lapDelivery_eq {d : Nat} {v : Delivery} (hv : s.delivery d = some v) : lapDelivery d s
    = servePlaces v.radio (v.riders.foldl (fun s h => lapRider v.reel h s) ((freeDelivery d s).modRadio v.radio
      (fun x => { x with rep := { x.rep with lapped := bump x.rep.lapped } }))) := by
  unfold lapDelivery
  simp only [hv]

section
variable {st : Station} {b : Sub} (hst : s.station h = some st) (hb : st.sub = some b)
include hst hb

theorem modSub_some (f : Sub → Sub) : s.modSub h f = s.setStation h { st with sub := some (f b) } := by
  unfold State.modSub
  rw [modStation_some hst, hb]
  rfl

section
variable {reel : Nat} {cfg : ReelCfg} (hcfg : (s.reel reel).cfg = some cfg)
include hcfg

/-- A rider of a lapped delivery goes to the newest READY sequence in mode FOLLOW, else to the oldest. -/
theorem lapRider_moves {n : Nat} (hdest : (if b.mode = .follow then cfg.newest else cfg.oldest) = some n) : lapRider reel h s
    = seekAndTake true h (s.setStation h { st with sub := some { b with cursor := some n } }) := by
  unfold lapRider
  rw [hst, Option.bind_some, hb, hcfg]
  simp only [hdest, modSub_some hst hb]

theorem lapRider_stays (hdest : (if b.mode = .follow then cfg.newest else cfg.oldest) = none) : lapRider reel h s
    = seekAndTake true h s := by
  unfold lapRider
  rw [hst, Option.bind_some, hb, hcfg]
  simp only [hdest]
end
end

/-! ### Places served with one waiting list (R152) -/

/-- No other radio's list holds a station. -/
def State.waitsOnlyAt (s : State) (r : Nat) : Prop := ∀ e ∈ s.replay.waiting, e.1 = r

section
variable (hw : s.waitsOnlyAt r)
include hw

theorem State.waitsOnlyAt.of_waiting (ht : t.replay.waiting = s.replay.waiting) : t.waitsOnlyAt r := by
  unfold State.waitsOnlyAt
  rw [ht]
  exact hw

theorem State.waitsOnlyAt.setWaitList (l : List Nat) : (s.setWaitList r l).waitsOnlyAt r := fun _ he =>
  (Table.mem_set he).elim (fun h => congrArg Prod.fst h) (hw _)

theorem State.waitsOnlyAt.modStation (h : Nat) (f : Station → Station) : (s.modStation h f).waitsOnlyAt r :=
  hw.of_waiting (congrArg Replay.waiting (modStation_replay s h f))

theorem State.waitsOnlyAt.applySought (h : Nat) (x : Sought) : (applySought h x s).waitsOnlyAt r :=
  hw.of_waiting (by rw [applySought_sameClips h x s])

theorem State.waitsOnlyAt.modDelivery (d : Nat) (f : Delivery → Delivery) : (s.modDelivery d f).waitsOnlyAt r := by
  unfold State.modDelivery
  cases s.delivery d <;> exact hw

theorem State.waitsOnlyAt.joinDelivery (h d : Nat) : (joinDelivery h d s).waitsOnlyAt r := by
  unfold Machine.joinDelivery
  exact ((hw.modDelivery d _).modStation h _).of_waiting rfl

theorem State.waitsOnlyAt.createDelivery (h r' slot n : Nat) : (createDelivery h r' slot n s).waitsOnlyAt r := by
  rw [createDelivery_eq]
  exact (hw.modStation h _).of_waiting rfl

theorem State.waitsOnlyAt.serveStation (h : Nat) : (serveStation r h s).waitsOnlyAt r := by
  unfold Machine.serveStation
  split
  · exact hw
  · split
    · exact hw
    · dsimp only
      split
      · exact ((hw.applySought h _).setWaitList _).modStation h _
      · split
        · exact ((hw.applySought h _).setWaitList _).joinDelivery h _
        · split
          · exact ((hw.applySought h _).setWaitList _).createDelivery h r _ _
          · exact hw.applySought h _

theorem State.waitsOnlyAt.serveAll (l : List Nat) : (l.foldl (fun s h => Machine.serveStation r h s) s).waitsOnlyAt r := by
  induction l generalizing s with
  | nil => exact hw
  | cons h l ih => exact ih (hw.serveStation h)
end

theorem servePlaces_one {l : List Nat} (hw : s.replay.waiting = [(r, l)]) :
    servePlaces r s = l.foldl (fun s h => serveStation r h s) s := by
  have hlist : s.waitList r = l := by
    unfold State.waitList
    rw [hw]
    simp [Table.get, Table.find]
  have honly : s.waitsOnlyAt r := by
    unfold State.waitsOnlyAt
    rw [hw]
    exact fun e he => congrArg Prod.fst (List.mem_singleton.1 he)
  unfold servePlaces serveList
  rw [hlist]
  exact serveOthers_none (honly.serveAll l)

/-! ### Waking (R158) and resuming (R148) -/

theorem wakeReel_one {reel : Nat} (hidle : s.idleOf reel = [h]) : wakeReel reel s = wakeStation s h := by
  rw [wakeReel_eq, hidle]
  rfl

theorem entitled_iff (st : Station) : st.entitled = true
    ↔ st.standing = .inZone ∧ ∃ c, st.binding = some c ∧ c.grant = true := by
  unfold Station.entitled
  cases st.binding <;> simp

section
variable {st : Station} {b : Sub} (hst : s.station h = some st) (hb : st.sub = some b) (hcur : st.current = some r)
include hst hb

theorem removeSub_paused (hrider : b.rider = none) : removeSub h s
    = (s.setStation h { st with sub := none }).modReplayCtrs (fun k => { k with removed := bump k.removed }) := by
  unfold removeSub
  simp only [hst, hb, hrider]

include hcur

theorem resumeSub_eq : resumeSub h s = if st.state = .attached ∧ st.entitled = true
    then seekAndTake true h (((s.setRider h (some .idle)).modRadio r (fun x => { x with subscribers := x.subscribers + 1 })).modReplayCtrs
      (fun k => { k with resumptions := bump k.resumptions }))
    else removeSub h s := by
  unfold resumeSub
  simp only [hst, hb, hcur]

theorem resumeSub_entitled (ha : st.state = .attached) (he : st.entitled = true) : resumeSub h s
    = seekAndTake true h (((s.setStation h { st with sub := some { b with rider := some .idle } }).modRadio r
      (fun x => { x with subscribers := x.subscribers + 1 })).modReplayCtrs (fun k => { k with resumptions := bump k.resumptions })) := by
  rw [resumeSub_eq hst hb hcur, if_pos ⟨ha, he⟩]
  unfold State.setRider
  rw [modSub_some hst hb]

theorem resumeSub_unentitled (hno : ¬ (st.state = .attached ∧ st.entitled = true)) : resumeSub h s = removeSub h s :=
  (resumeSub_eq hst hb hcur).trans (if_neg hno)
end

end Sys2Proof.Machine
end

section
/-! SEGMENT_OPEN of a slot that is not FREE (R129, R133): FILLING, WRITING, or READY and overwritten (R134). -/

set_option Elab.async false

open Sys2Proof

namespace Sys2Proof.Machine

variable {s t u : State} {r : Nat} {c : ReelCfg}

/-! ### Sorting (R134) -/

section
variable {α : Type} {lt : α → α → Bool}

theorem insertBy_perm (lt : α → α → Bool) (a : α) (l : List α) : (insertBy lt a l).Perm (a :: l) := by
  induction l with
  | nil => exact .refl _
  | cons b l ih =>
    unfold insertBy
    split
    · exact .refl _
    · exact (ih.cons b).trans (.swap a b l)

theorem foldl_insertBy_perm (lt : α → α → Bool) (l acc : List α) :
    (l.foldl (fun acc a => insertBy lt a acc) acc).Perm (l ++ acc) := by
  induction l generalizing acc with
  | nil => exact .refl _
  | cons a l ih => exact (ih _).trans (((insertBy_perm lt a acc).append_left l).trans List.perm_middle)

theorem sortBy_perm (lt : α → α → Bool) (l : List α) : (sortBy lt l).Perm l := by
  have h := foldl_insertBy_perm lt l []
  rwa [List.append_nil] at h

/-- No element of the list lies before an earlier one. -/
def Ordered (lt : α → α → Bool) (l : List α) : Prop := l.Pairwise (fun a b => lt b a = false)

variable (hirr : ∀ a, lt a a = false) (htrans : ∀ a b c, lt a b = true → lt b c = true → lt a c = true)
include hirr htrans

theorem ordered_insertBy (a : α) {l : List α} (hl : Ordered lt l) : Ordered lt (insertBy lt a l) := by
  induction l with
  | nil => exact List.pairwise_singleton _ a
  | cons b l ih =>
    obtain ⟨hb, hl'⟩ := List.pairwise_cons.1 hl
    unfold insertBy
    split
    · next hab =>
      have hbefore {x : α} (hx : lt x b = false) : lt x a = false := by
        by_contra hxa
        rw [htrans x a b (by simpa using hxa) hab] at hx
        cases hx
      refine List.pairwise_cons.2 ⟨fun x hx => ?_, hl⟩
      rcases List.mem_cons.1 hx with rfl | hx
      · exact hbefore (hirr x)
      · exact hbefore (hb x hx)
    · next hab =>
      refine List.pairwise_cons.2 ⟨fun x hx => ?_, ih hl'⟩
      rcases List.mem_cons.1 ((insertBy_perm lt a l).subset hx) with rfl | hx
      · simpa using hab
      · exact hb x hx

theorem ordered_sortBy (l : List α) : Ordered lt (sortBy lt l) := by
  have hfold (l acc : List α) (hacc : Ordered lt acc) : Ordered lt (l.foldl (fun acc a => insertBy lt a acc) acc) := by
    induction l generalizing acc with
    | nil => exact hacc
    | cons a l ih => exact ih _ (ordered_insertBy hirr htrans a hacc)
  exact hfold l [] List.Pairwise.nil

/-- A list that is strictly in order is what sorting any of its permutations gives. -/
theorem sortBy_eq {l m : List α} (hperm : m.Perm l) (hm : m.Pairwise (fun a b => lt a b = true)) : sortBy lt l = m := by
  have hapart : ∀ ⦃a⦄, a ∈ m → ∀ ⦃b⦄, b ∈ m → a ≠ b → lt a b = true ∨ lt b a = true :=
    @List.Pairwise.forall _ (fun a b => lt a b = true ∨ lt b a = true) _ ⟨fun _ _ h => h.symm⟩ (hm.imp Or.inl)
  have hordered : Ordered lt m := hm.imp fun {a b} hab => by
    by_contra hba
    have haa := htrans a b a hab (by simpa using hba)
    rw [hirr a] at haa
    cases haa
  have hsame := (sortBy_perm lt l).trans hperm.symm
  refine hsame.eq_of_pairwise (fun a b ha hb hab hba => ?_) (ordered_sortBy hirr htrans l) hordered
  by_contra hne
  rcases hapart (hsame.subset ha) hb hne with h | h
  · rw [h] at hba
    cases hba
  · rw [h] at hab
    cases hab
end

theorem pairLt_irrefl (a : (Nat × Nat) × Nat) : pairLt a a = false := by
  simp [pairLt]

theorem pairLt_trans (a b c : (Nat × Nat) × Nat) (hab : pairLt a b = true) (hbc : pairLt b c = true) : pairLt a c = true := by
  simp only [pairLt, decide_eq_true_eq] at *
  omega

/-- Deliveries listed with their radios increasing are those a test picks out, in order (R134). -/
theorem deliveriesWhere_eq {f : Delivery → Bool} {ds : List (Nat × Delivery)}
    (hperm : ds.Perm (s.replay.deliveries.filter (fun e => f e.2))) (hds : ds.Pairwise (fun x y => x.2.radio < y.2.radio)) :
    s.deliveriesWhere f = ds.map Prod.fst := by
  have hkeys : (ds.map (fun e => ((e.2.radio, e.2.slot), e.1))).Pairwise (fun a b => pairLt a b = true) :=
    List.pairwise_map.2 (hds.imp fun h => decide_eq_true (Or.inl h))
  have hsorted := sortBy_eq pairLt_irrefl pairLt_trans (hperm.map (fun e => ((e.2.radio, e.2.slot), e.1))) hkeys
  unfold State.deliveriesWhere
  rw [hsorted, List.map_map]
  rfl

/-! ### Occurrences beside the replay side -/

theorem notice_withReplay (p : Replay) (k : NoticeKind) (b : List Byte) (s : State) :
    notice k b (s.withReplay p) = (notice k b s).withReplay p := by
  have hself := notice_transport (s := s) (t := s) k b rfl rfl rfl
  have hother := notice_transport (s := s) (t := s.withReplay p) k b rfl rfl rfl
  exact hother.trans (congrArg (State.withReplay · p) hself.symm)

theorem takeOccurrence_withReplay (p : Replay) (o : Occurrence) (s : State) :
    takeOccurrence o (s.withReplay p) = (takeOccurrence o s).withReplay p := by
  have hfirst (s : State) : recordFirst o (s.withReplay p) = (recordFirst o s).withReplay p := by
    unfold recordFirst
    rw [show (s.withReplay p).err.first = s.err.first from rfl]
    cases s.err.first <;> rfl
  have hset (v : ErrState) : (s.withReplay p).setErrState o.cls v = (s.setErrState o.cls v).withReplay p := rfl
  unfold takeOccurrence
  simp only [show (s.withReplay p).errState o.cls = s.errState o.cls from rfl, hset, hfirst, notice_withReplay]
  split <;> rfl

theorem takeOccurrence_setReel (o : Occurrence) (s : State) (r : Nat) (v : Reel) :
    takeOccurrence o (s.setReel r v) = (takeOccurrence o s).setReel r v := by
  unfold State.setReel
  rw [takeOccurrence_replay]
  exact takeOccurrence_withReplay _ o s

/-! ### What the slot's reel was (R133) -/

section
variable {v w : Reel}

theorem slotTaken_setReel (hv : v ≠ {}) (c : ReelCfg) (seq len : Nat) : (s.setReel r v).slotTaken r c seq len
    = (s.setSlot c.writePos { s.slot c.writePos with
        state := .filling, seq := some seq, length := some len, received := some 0, outstanding := 0 }).setReel r
      { cfg := some { c with filling := some c.writePos, lastOpened := some seq, writePos := c.next }
        ctrs := { v.ctrs with opens := bump v.ctrs.opens } } := by
  have hread : (s.setReel r v).reel r = v := (reel_setReel (.inl hv) r).trans (if_pos rfl)
  unfold State.slotTaken
  rw [hread, setSlot_setReel, setReel_setReel hv (reel_ne_of_cfg rfl)]
  rfl

/-- Of the reel the slot is taken in, only the counters are kept. -/
theorem slotTaken_congr (hv : v ≠ {}) (hw : w ≠ {}) (h : v.ctrs = w.ctrs) (c : ReelCfg) (seq len : Nat) :
    (s.setReel r v).slotTaken r c seq len = (s.setReel r w).slotTaken r c seq len := by
  rw [slotTaken_setReel hv, slotTaken_setReel hw, h]
end

/-! ### INGEST_INCOMPLETE (R133) -/

/-- INGEST_INCOMPLETE without a frame, the reel's counter with it. -/
def State.incomplete (s : State) (r : Nat) : State :=
  takeOccurrence { cls := .ingestIncomplete } (s.modReelCtrs r (fun k => { k with incomplete := bump k.incomplete }))

theorem incomplete_slot (s : State) (r n : Nat) : (s.incomplete r).slot n = s.slot n := takeOccurrence_slot _ _ n

theorem incomplete_cfg (hc : (s.reel r).cfg = some c) : ((s.incomplete r).reel r).cfg = some c := by
  unfold State.incomplete
  rw [takeOccurrence_reel]
  exact cfg_modReelCtrs hc _

theorem modReelCtrs_setReel {v : Reel} {k : ReelCfg} (hv : v.cfg = some k) (g : ReelCtrs → ReelCtrs) :
    (s.setReel r v).modReelCtrs r g = s.setReel r { v with ctrs := g v.ctrs } := by
  have hread : (s.setReel r v).reel r = v := (reel_setReel (.inl (reel_ne_of_cfg hv)) r).trans (if_pos rfl)
  unfold State.modReelCtrs
  rw [hread]
  exact setReel_setReel (reel_ne_of_cfg hv) (reel_ne_of_cfg (x := { v with ctrs := g v.ctrs }) hv)

/-- No slot of the reel is FILLING. -/
def State.unfilled (s : State) (r : Nat) (c : ReelCfg) : State :=
  s.setReel r { s.reel r with cfg := some { c with filling := none } }

theorem unfilled_cfg (s : State) (r : Nat) (c : ReelCfg) : ((s.unfilled r c).reel r).cfg = some { c with filling := none } :=
  congrArg Reel.cfg ((reel_setReel (.inl (reel_ne_of_cfg rfl)) r).trans (if_pos rfl))

/-- A reel that has counted an incomplete segment. -/
def Reel.counted (v : Reel) : Reel := { v with ctrs := { v.ctrs with incomplete := bump v.ctrs.incomplete } }

theorem counted_ne {v : Reel} {k : ReelCfg} (hv : v.cfg = some k) : v.counted ≠ {} :=
  reel_ne_of_cfg (x := { v with ctrs := { v.ctrs with incomplete := bump v.ctrs.incomplete } }) hv

theorem counted_ctrs {v w : Reel} (h : v.ctrs = w.ctrs) : v.counted.ctrs = w.counted.ctrs := by
  unfold Reel.counted
  rw [h]

theorem incomplete_eq (s : State) (r : Nat) :
    s.incomplete r = (takeOccurrence { cls := .ingestIncomplete } s).setReel r (s.reel r).counted :=
  takeOccurrence_setReel _ s r _

theorem incomplete_setReel {v : Reel} {k : ReelCfg} (hv : v.cfg = some k) :
    (s.setReel r v).incomplete r = (takeOccurrence { cls := .ingestIncomplete } s).setReel r v.counted :=
  (congrArg (takeOccurrence { cls := .ingestIncomplete }) (modReelCtrs_setReel hv _)).trans (takeOccurrence_setReel _ s r _)

/-- That the reel has no FILLING slot any more leaves the same slot taken. -/
theorem incomplete_slotTaken (hc : (s.reel r).cfg = some c) (seq len : Nat) :
    ((s.unfilled r c).incomplete r).slotTaken r c seq len = (s.incomplete r).slotTaken r c seq len := by
  have hv : ({ s.reel r with cfg := some { c with filling := none } } : Reel).cfg = some { c with filling := none } := rfl
  unfold State.unfilled
  rw [incomplete_setReel hv, incomplete_eq]
  exact slotTaken_congr (counted_ne hv) (counted_ne hc) (counted_ctrs rfl) c seq len

/-! ### The slot that is taken (R133) -/

section
variable {seq len : Nat}

theorem takeWriteSlot_free {n : Nat} (h : (s.slot n).state = .free) (r : Nat) : takeWriteSlot r n s = s := by
  unfold takeWriteSlot
  rw [h]

/-- A slot still FILLING is discarded before the FREE slot at the write position is taken. -/
theorem takeSlotFor_filling {f : Nat} (hd : s.ev.deferring = false) (hc : (s.reel r).cfg = some c) (hf : c.filling = some f)
    (hne : f ≠ c.writePos) (hs : (s.slot c.writePos).state = .free) :
    takeSlotFor r seq len s = ((discardSlot f s).incomplete r).slotTaken r c seq len := by
  have hmod : (discardSlot f s).modReelCfg r (fun c => { c with filling := none }) = (discardSlot f s).unfilled r c := by
    unfold State.modReelCfg
    rw [show ((discardSlot f s).reel r).cfg = some c from hc]
    rfl
  have hinc : ingestIncomplete r none ((discardSlot f s).unfilled r c) = ((discardSlot f s).unfilled r c).incomplete r :=
    ingestIncomplete_now (s := (discardSlot f s).unfilled r c) hd r none
  have hcfg := incomplete_cfg (unfilled_cfg (discardSlot f s) r c)
  have hfree : ((((discardSlot f s).unfilled r c).incomplete r).slot c.writePos).state = .free := by
    have hslot : ((discardSlot f s).unfilled r c).slot c.writePos = s.slot c.writePos := slot_setSlot_ne (Ne.symm hne) _
    rw [incomplete_slot, hslot]
    exact hs
  rw [← incomplete_slotTaken (s := discardSlot f s) hc]
  unfold takeSlotFor
  simp only [hc, hf, hmod, hinc, takeWriteSlot_free hfree]
  exact modReelCtrs_modReelCfg (s := (((discardSlot f s).unfilled r c).incomplete r).modSlot c.writePos _) hcfg _ _

theorem takeSlotFor_writing (hd : s.ev.deferring = false) (hc : (s.reel r).cfg = some c) (hf : c.filling = none)
    (hs : (s.slot c.writePos).state = .writing) :
    takeSlotFor r seq len s = ((discardSlot c.writePos s).incomplete r).slotTaken r c seq len := by
  refine takeSlotFor_unfilled hc hf ?_ (incomplete_cfg (s := discardSlot c.writePos s) hc) rfl seq len
  unfold takeWriteSlot
  rw [hs]
  exact ingestIncomplete_now (s := discardSlot c.writePos s) hd r none
end

/-! ### A READY slot is overwritten (R134) -/

theorem notice_reel (k : NoticeKind) (b : List Byte) (s : State) (r : Nat) : (notice k b s).reel r = s.reel r := by
  obtain ⟨tx, es, h⟩ := notice_only k b s
  rw [h]
  rfl

/-- The READY sequences of a reel. -/
def State.readySeqs (s : State) (r : Nat) : List Nat := (s.readySegs r).map Prod.fst

/-- The descriptor with its newest and oldest READY sequences recomputed (R130). -/
def ReelCfg.recomputed (c : ReelCfg) (ns : List Nat) : ReelCfg := { c with newest := maxOf ns, oldest := minOf ns }

/-- A READY slot has been discarded, and the reel's newest and oldest sequences recomputed. -/
def State.slotDropped (s : State) (r n : Nat) (c : ReelCfg) : State :=
  (discardSlot n s).setReel r { s.reel r with cfg := some (c.recomputed ((discardSlot n s).readySeqs r)) }

theorem recomputeSeqs_discardSlot (hc : (s.reel r).cfg = some c) (n : Nat) :
    recomputeSeqs r (discardSlot n s) = s.slotDropped r n c := by
  unfold recomputeSeqs State.modReelCfg
  rw [show ((discardSlot n s).reel r).cfg = some c from hc]
  rfl

/-- The reel counts the overwrite, and the deliveries lapped by it. -/
def State.overwriteCounted (s : State) (r n : Nat) : State :=
  s.modReelCtrs r (fun k => { k with overwrites := bump k.overwrites, lapped := bumpBy k.lapped n })

theorem slotDropped_cfg (s : State) (r n : Nat) (c : ReelCfg) :
    ((s.slotDropped r n c).reel r).cfg = some (c.recomputed ((discardSlot n s).readySeqs r)) :=
  congrArg Reel.cfg ((reel_setReel (s := discardSlot n s) (.inl (reel_ne_of_cfg rfl)) r).trans (if_pos rfl))

section
variable {seq len : Nat} (hc : (s.reel r).cfg = some c) (hf : c.filling = none) (hs : (s.slot c.writePos).state = .ready)
include hc hf hs

/-- With no delivery of the slot's generation, nothing is lapped. -/
theorem takeSlotFor_ready
    (hnone : ∀ e ∈ s.replay.deliveries, e.2.slot = c.writePos → e.2.generation ≠ (s.slot c.writePos).generation) :
    takeSlotFor r seq len s = ((discardSlot c.writePos s).modReelCtrs r (fun k => { k with overwrites := bump k.overwrites })).slotTaken
      r (c.recomputed ((discardSlot c.writePos s).readySeqs r)) seq len := by
  have hds : (s.slotDropped r c.writePos c).deliveriesWhere
      (fun v => decide (v.slot = c.writePos ∧ v.generation = (s.slot c.writePos).generation)) = [] := by
    refine deliveriesWhere_eq (ds := []) ?_ List.Pairwise.nil
    rw [List.nil_perm, List.filter_eq_nil_iff]
    intro e he
    rw [decide_eq_true_iff]
    exact fun h => hnone e he h.1 h.2
  have hover : takeWriteSlot r c.writePos s = (s.slotDropped r c.writePos c).overwriteCounted r 0 := by
    unfold takeWriteSlot
    rw [hs]
    unfold overwriteSlot
    simp only [recomputeSeqs_discardSlot hc, hds]
    rfl
  have hcfg := slotDropped_cfg s r c.writePos c
  rw [takeSlotFor_unfilled (c' := c.recomputed ((discardSlot c.writePos s).readySeqs r)) hc hf hover (cfg_modReelCtrs hcfg _) rfl]
  have hv : ({ s.reel r with cfg := some (c.recomputed ((discardSlot c.writePos s).readySeqs r)) } : Reel).cfg
    = some (c.recomputed ((discardSlot c.writePos s).readySeqs r)) := rfl
  unfold State.overwriteCounted State.slotDropped
  rw [modReelCtrs_setReel hv]
  simp only [bumpBy_zero]
  have hne (v : Reel) {k : ReelCfg} (hv : v.cfg = some k) (j : ReelCtrs) : ({ v with ctrs := j } : Reel) ≠ {} :=
    reel_ne_of_cfg (c := k) hv
  exact slotTaken_congr (s := discardSlot c.writePos s) (hne _ hv _) (hne (s.reel r) hc _) rfl _ seq len

/-- The deliveries of the overwritten generation are lapped, in order of radio, and REEL_LAPPED tells of them. -/
theorem takeSlotFor_lapped {n : Nat} {ds : List (Nat × Delivery)} (hsorted : s.replay.slots.sorted = true)
    (hseq : (s.slot c.writePos).seq = some n) (hne : ds ≠ [])
    (hperm : ds.Perm (s.replay.deliveries.filter (fun e => decide (e.2.slot = c.writePos
      ∧ e.2.generation = (s.slot c.writePos).generation))))
    (hpair : ds.Pairwise (fun x y => x.2.radio < y.2.radio)) : takeSlotFor r seq len s
    = (reelLapped r c.writePos n ((s.slot c.writePos).generation + 1) ds.length
      ((ds.foldl (fun s e => lapDelivery e.1 s) (s.slotDropped r c.writePos c)).overwriteCounted r ds.length)).slotTaken
      r (c.recomputed ((discardSlot c.writePos s).readySeqs r)) seq len := by
  have hds := deliveriesWhere_eq (s := s.slotDropped r c.writePos c)
    (f := fun v => decide (v.slot = c.writePos ∧ v.generation = (s.slot c.writePos).generation)) hperm hpair
  have hkeeps : KeepsReels (s.slotDropped r c.writePos c) (ds.foldl (fun s e => lapDelivery e.1 s) (s.slotDropped r c.writePos c)) :=
    KeepsReels.foldl _ (fun s e => KeepsReels.lap s e.1) ds _
  have hgen : ((ds.foldl (fun s e => lapDelivery e.1 s) (s.slotDropped r c.writePos c)).slot c.writePos).generation
      = (s.slot c.writePos).generation + 1 := by
    unfold State.slot
    rw [hkeeps.slots]
    exact congrArg Slot.generation ((slot_setSlot (s := s) (v := (s.slot c.writePos).discarded) (.inr hsorted) c.writePos).trans
      (if_pos rfl))
  have hcfg : ((ds.foldl (fun s e => lapDelivery e.1 s) (s.slotDropped r c.writePos c)).reel r).cfg
      = some (c.recomputed ((discardSlot c.writePos s).readySeqs r)) := by
    unfold State.reel
    rw [hkeeps.reels]
    exact slotDropped_cfg s r c.writePos c
  have hover : takeWriteSlot r c.writePos s = reelLapped r c.writePos n ((s.slot c.writePos).generation + 1) ds.length
      ((ds.foldl (fun s e => lapDelivery e.1 s) (s.slotDropped r c.writePos c)).overwriteCounted r ds.length) := by
    unfold takeWriteSlot
    rw [hs]
    unfold overwriteSlot
    simp only [recomputeSeqs_discardSlot hc, hds, List.foldl_map, List.length_map, hseq, Option.getD_some, List.map_eq_nil_iff,
      if_neg hne]
    rw [← hgen]
    rfl
  refine takeSlotFor_unfilled (c' := c.recomputed ((discardSlot c.writePos s).readySeqs r)) hc hf hover ?_ rfl seq len
  unfold reelLapped
  rw [notice_reel]
  exact cfg_modReelCtrs hcfg _
end

end Sys2Proof.Machine
end

section
set_option Elab.async false
open Sys2Proof
open Sys2Proof.Machine

/-- Settles O60: part by part, along the branches of each function of the replay side. -/
theorem segmentsAreSoughtAndTaken : Obligations.SegmentsAreSoughtAndTaken := by
  refine ⟨fun s b cfg lag hcfg => ?_, fun s h r st b hst hb => ?_, ?_, ?_, ?_, ?_, ?_⟩
  · intro ready x
    refine ⟨fun c hm hc => ?_, fun new old hm hn ho => ?_, fun hm hn => seek_follow_none hcfg hm hn,
      fun w0 size c0 hm hw hc => ?_⟩
    · have hx : x = _ := (seek_one hcfg hm).trans (seekOne_eq hc)
      rw [hx]
      exact ⟨fun n => firstReady_eq_some, rfl, rfl⟩
    · have hx : x = _ := seek_follow hcfg hm hn ho
      rw [hx]
      exact ⟨rfl, rfl, fun n => map_const_eq_some⟩
    · have hx : x = _ := (seek_loop hcfg hm).trans (seekLoop_eq hw hc rfl rfl)
      rw [hx]
      exact ⟨fun n => aroundWindow_eq_some.trans (or_congr_right (and_congr_right' least_readyIn)), rfl, rfl⟩
  · intro rides joins makes room x moved leaves
    have hmoved : moved = applySought h x s := (applySought_eq h x s).symm
    rw [hmoved]
    refine ⟨fun reel n slot hslot => ?_, serveStation_idle hst hb, fun hx hr => seekAndTake_idle hst hb hr hx,
      fun n slot hx hslot => ?_⟩
    · exact ⟨fun d v hat hv => takeSegment_joins hslot hat hv,
        fun hat hw hroom => takeSegment_creates hslot hat hw (placeFree_iff.2 hroom),
        fun hat hno => takeSegment_waits hslot hat (by rwa [placeFree_iff])⟩
    · have hunjoined := serveStation_unjoined (r := r) hst hb hx hslot
      exact ⟨fun d v hat hv => serveStation_joins hst hb hx hslot hat hv,
        fun hat hroom => (hunjoined hat).trans (if_pos (placeFree_iff.2 hroom)),
        fun hat hno => (hunjoined hat).trans (if_neg (by rwa [placeFree_iff])),
        fun hr => seekAndTake_takes hst hb hr hx⟩
  · intro s slot off len d m v f u hb ht hv hg hsorted hbusy hcut ho next stalled k
    have hf : f.handle = none := handle_of_mem_cutChunk (hcut ▸ List.mem_singleton_self f)
    have hcalm : Calm s.memFreed u := by
      have h := offer_calm (sort := .declinable) (r := v.radio) (c := .replay) (f := f) (s := s.memFreed) (quiet_deferring hb.1) hbusy
      rwa [show offer .declinable v.radio .replay f s.memFreed = (.accepted, u) from ho] at h
    have hdone := chunkCompleted_accepted (s := s.memFreed) (m := m) (next := next) hv hg
      (by rw [show s.memFreed.mem.clip = s.mem.clip from grant_clip _]; exact hcut) ho rfl
    have hserve : s.inService v.radio = true := (of_offer_accepted ho).1
    refine ⟨fun hne => ?_, fun h st b hnext hriders hst hsub hm hrider hcur hw => ?_⟩
    · rw [exec_chunkCompletion_calm hb ht (hdone.trans (if_neg hne)) (hcalm.trans (readChunk_calm _ _ _)), readChunk_frameSent]
      obtain ⟨eg, ev, rfl⟩ := offer_accepted_unowned ho hf
      rfl
    · have hcomplete : completeDelivery d (u.frameSent d ((v.sentTo next).holding [])) = u.deliveryDone d h v.radio st := by
        obtain ⟨eg, ev, rfl⟩ := offer_accepted_unowned ho hf
        exact completeDelivery_frameSent hst hsub hrider hcur hriders hm hsorted hw
      have hserve' : u.inService v.radio = true := by
        obtain ⟨eg, ev, rfl⟩ := offer_accepted_unowned ho hf
        exact hserve
      rw [exec_chunkCompletion_calm hb ht (hdone.trans ((if_pos hnext).trans hcomplete)) (hcalm.trans (deliveryDone_calm hserve' d))]
      obtain ⟨eg, ev, rfl⟩ := offer_accepted_unowned ho hf
      rfl
  · intro s slot off len d m hb ht freed
    have hrun {t : State} (hc : chunkCompleted ⟨.chunk slot off len d, m⟩ s.memFreed = t) (hev : t.ev = s.ev) (hm : t.mgmt = s.mgmt) :
        exec .clipChunkReadCompletion s = .next t.ended := by
      rw [exec_chunkCompletion ht, hc, finish_unchanged hb hev hm]
    refine ⟨fun hv => hrun (chunkCompleted_discarded hv) rfl rfl, fun v hv hg => hrun (chunkCompleted_lapped hv hg) ?_ ?_⟩
    · exact (KeepsReels.lap s.memFreed d).ev
    · exact (KeepsReels.lap s.memFreed d).mgmt
  · exact ⟨fun s d v hv => lapDelivery_eq hv,
      fun s h reel st b cfg hst hb hcfg => ⟨fun n hdest => lapRider_moves hst hb hcfg hdest,
        fun hdest => lapRider_stays hst hb hcfg hdest⟩,
      fun s r hw => servePlaces_empty hw r, fun s r l hw => servePlaces_one hw⟩
  · intro s h st b hst hb
    refine ⟨fun reel hidle => wakeReel_one hidle, fun r hcur hrider => ⟨fun ha hz hc => ?_, fun hno => ?_⟩⟩
    · exact resumeSub_entitled hst hb hcur ha ((entitled_iff st).2 ⟨hz, hc⟩)
    · rw [resumeSub_unentitled hst hb hcur (by rwa [entitled_iff]), removeSub_paused hst hb hrider]
  · intro s src reel seq len c hb hr h1 h2 hc hsorted hnext r heard run drops incomplete take left
    have hd : heard.ev.deferring = false := quiet_deferring hb.1
    have hrun {t : State} (ht : takeSlotFor r seq.toNat len.toNat heard = t) (hev : t.ev = s.ev) (hm : t.mgmt = s.mgmt) :
        run = .next t.ended :=
      (exec_segmentOpen src reel seq len s).trans (event_reel_taken hb (m := .segOpen reel seq len) hr
        (badLength_segOpen.2 ⟨h1, h2⟩) hc ((segmentOpen_next (s := heard) hc hnext).trans ht) hev hm)
    refine ⟨fun f hf hne hs => ?_, fun hf hs => ?_, fun hf hs hnone => ?_, fun n ds hf hs hseq hne hperm hpair => ?_⟩
    · exact hrun (takeSlotFor_filling hd hc hf hne hs) (takeOccurrence_ev _ _) (takeOccurrence_calm _ _).mgmt
    · exact hrun (takeSlotFor_writing hd hc hf hs) (takeOccurrence_ev _ _) (takeOccurrence_calm _ _).mgmt
    · exact hrun (takeSlotFor_ready (s := heard) hc hf hs hnone) rfl rfl
    · intro lapped
      have hkeeps : KeepsReels (heard.slotDropped r c.writePos c) lapped := KeepsReels.foldl _ (fun s e => KeepsReels.lap s e.1) ds _
      exact hrun (takeSlotFor_lapped (s := heard) hc hf hs hsorted hseq hne hperm hpair) ((notice_keeps_ev _ _ _).trans hkeeps.ev)
        ((notice_calm _ _ _).mgmt.trans hkeeps.mgmt)
end
